-- ==== Sys2Proof/Word.lean ====
section
/-! DEFINITION. Widths of the Denaux Mbazia's data, what crosses its edge, and the sparse maps that State is made of.

A `Map α` is a list of (key, value) pairs with strictly rising keys; an unlisted key reads as the
default the caller names. `set` keeps one canonical form (no listed entry equals the default), so that
equal contents are equal data; `put` lists whatever it is given. -/

namespace Sys2Proof

/-- An instruction word (R310). -/
abbrev Word := BitVec 32
/-- A dword: a scalar register, an address, a control register (R7). -/
abbrev Dword := BitVec 64
/-- A byte of memory. -/
abbrev Byte := BitVec 8
/-- A row of 256 bytes (R7). -/
abbrev Row := BitVec 2048
/-- A 5-bit register field (R312). -/
abbrev R5 := BitVec 5
/-- A 7-bit row designator: tile in bits 6:4, row in bits 3:0 (R312). -/
abbrev R7 := BitVec 7

/-- What an atomic computes (R369). -/
inductive Machine.Rmw where
  | add | and | or | xor | min | max | minu | maxu | swp | cas | fadd
  deriving DecidableEq, Repr

/-- What a transfer to or from another device, the host or the checkpoint tier asks or answers. -/
inductive Machine.PayloadKind where
  | load
  | store
  | atomic (op : Machine.Rmw) (width : Nat) (opnd comp : Dword)
  /-- A privileged access to a physical address of the target (R394). -/
  | physLoad
  | physStore
  | answer
  | reject
  deriving DecidableEq, Repr

/-- A transfer beyond the device (R45, R250): the export key it presents, its byte offset, its size, its data. -/
structure Machine.Payload where
  kind : Machine.PayloadKind
  key : Dword
  ofs : Nat
  size : Nat
  data : List Byte
  deriving DecidableEq, Repr

/-- A request that is sent to its home slice: its number, and the wait hint that the slice gives if it refuses (R89, R91).
Of an in-layer operation, `chunk` names the one 64-byte chunk that moves now; none: all that are left (R70). -/
structure Machine.Attempt where
  no : Nat
  hint : BitVec 12
  chunk : Option Nat := none
  deriving DecidableEq, Repr

/-- How a transfer between a slice and its stack went (R105): the granules of the line that failed, and those of which the
link put an error right, once for each. -/
structure Machine.LinkReport where
  bad : BitVec 32
  mended : List (BitVec 5)
  deriving DecidableEq, Repr

/-- A write-back that ends: its line, and how the link carried it. -/
structure Machine.WriteBack where
  line : Nat
  link : Machine.LinkReport
  deriving DecidableEq, Repr

/-- An IEEE 1588 message (R262): the time it gives, and the offset that is left. -/
structure Machine.PtpMessage where
  time : Dword
  offset : Int
  deriving DecidableEq, Repr

/-- What a device learns of a matching (R255): for each round the requests made to it, with their counts, and the devices
that grant its own; the devices that accept a grant of this one; and the devices that are out of time. -/
structure Machine.Matching where
  rounds : List (List (Nat × Nat) × List Nat)
  accepts : List Nat
  abstain : List Nat
  deriving DecidableEq, Repr

/-- A token (R252, R253): its reader, none for this device, and its generation. -/
structure Machine.Token where
  reader : Option Nat
  gen : BitVec 16
  deriving DecidableEq, Repr

/-- A cumulative acknowledgement (R254): the newest number received, and whether a CRC error is reported. -/
structure Machine.FrameAck where
  seqNo : BitVec 32
  crcError : Bool
  deriving DecidableEq, Repr

/-- A place in a host window (R260): BAR0 or BAR2, and the byte offset. -/
structure Machine.BarPlace where
  bar : Nat
  ofs : Nat
  deriving DecidableEq, Repr

/-- A sparse map from natural numbers, as a list sorted by key. -/
abbrev Map (α : Type) := List (Nat × α)

namespace Map

variable {α : Type}

/-- The value at key `k`, or `d` where the map lists none. -/
def get (d : α) : Map α → Nat → α
  | [], _ => d
  | (k', v) :: m, k => if k = k' then v else if k < k' then d else get d m k

/-- Whether the map lists key `k`. -/
def has : Map α → Nat → Bool
  | [], _ => false
  | (k', _) :: m, k => if k = k' then true else if k < k' then false else has m k

/-- The value at key `k`, if the map lists one. -/
def find? : Map α → Nat → Option α
  | [], _ => none
  | (k', v) :: m, k => if k = k' then some v else if k < k' then none else find? m k

/-- The map without the leading entries whose key is at most `k`. -/
def dropLe : Map α → Nat → Map α
  | [], _ => []
  | (k', v) :: m, k => if k' ≤ k then dropLe m k else (k', v) :: m

/-- The map with `v` listed at key `k`. -/
def put : Map α → Nat → α → Map α
  | [], k, v => [(k, v)]
  | (k', v') :: m, k, v =>
    if k = k' then (k, v) :: dropLe m k
    else if k < k' then (k, v) :: (k', v') :: m
    else (k', v') :: put m k v

/-- The map without key `k`. -/
def erase : Map α → Nat → Map α
  | [], _ => []
  | (k', v') :: m, k =>
    if k = k' then dropLe m k
    else if k < k' then (k', v') :: m
    else (k', v') :: erase m k

/-- The map that reads as `v` at key `k` and as before elsewhere, in canonical form for default `d`. -/
def set [DecidableEq α] (d : α) (m : Map α) (k : Nat) (v : α) : Map α :=
  if v = d then erase m k else put m k v

/-- The keys rise strictly, each above `lo`. -/
def sortedFrom : Nat → Map α → Bool
  | _, [] => true
  | lo, (k, _) :: m => decide (lo ≤ k) && sortedFrom (k + 1) m

/-- The canonical form for default `d`: keys rise strictly and no entry equals `d`. -/
def canonical [DecidableEq α] (d : α) (m : Map α) : Bool :=
  sortedFrom 0 m && m.all (fun e => decide (e.2 ≠ d))

end Map

end Sys2Proof
end

