-- ==== Sys2Proof/Machine/Fp.lean ====
section
/-! DEFINITION. Floating-point values and their rounding (R294, R295, R303 to R305, R343).

A value is read exactly, computed with exactly, and rounded once. Patterns are natural numbers below
2^width; flags are the bits of RMODE that R303 gives them. -/

namespace Sys2Proof.Machine

/-- A rounding mode (R303). -/
inductive RMode where
  | rne | rtz | rdn | rup | rna | rto
  deriving DecidableEq, Repr

/-- MODE values 0 to 5; 6 and 7 are reserved (R303). -/
def roundMode : Nat → Option RMode
  | 0 => some .rne
  | 1 => some .rtz
  | 2 => some .rdn
  | 3 => some .rup
  | 4 => some .rna
  | 5 => some .rto
  | _ => none

/-- A format: widths of exponent and fraction, and the poison pattern (R294, R283). -/
structure Fmt where
  ebits : Nat
  fbits : Nat
  poison : Nat
  deriving DecidableEq, Repr

def Fmt.f64 : Fmt := { ebits := 11, fbits := 52, poison := 0x7FFA000000000000 }
def Fmt.f32 : Fmt := { ebits := 8, fbits := 23, poison := 0x7FD00000 }
def Fmt.f16 : Fmt := { ebits := 5, fbits := 10, poison := 0x7E80 }
def Fmt.bf16 : Fmt := { ebits := 8, fbits := 7, poison := 0x7FD0 }
/-- The stream accumulator's element (R159). -/
def Fmt.w40 : Fmt := { ebits := 8, fbits := 31, poison := 0x7FD0000000 }

/-- The format that a 2-bit FMT field names (R342). -/
def Fmt.ofField (f : BitVec 2) : Fmt :=
  if f = 0 then .f64 else if f = 1 then .f32 else if f = 2 then .f16 else .bf16

def Fmt.width (f : Fmt) : Nat := 1 + f.ebits + f.fbits
def Fmt.bias (f : Fmt) : Nat := 2 ^ (f.ebits - 1) - 1
def Fmt.signBit (f : Fmt) (neg : Bool) : Nat := if neg then 2 ^ (f.ebits + f.fbits) else 0
def Fmt.infinity (f : Fmt) (neg : Bool) : Nat := f.signBit neg + (2 ^ f.ebits - 1) * 2 ^ f.fbits
/-- The canonical quiet NaN (R294). -/
def Fmt.nan (f : Fmt) : Nat := f.infinity false + 2 ^ (f.fbits - 1)
def Fmt.maxFinite (f : Fmt) (neg : Bool) : Nat := f.infinity neg - 1

/-! Flags at their places in RMODE (R303). -/

def Flag.nx : Dword := 0x100
def Flag.uf : Dword := 0x200
def Flag.ov : Dword := 0x400
def Flag.dz : Dword := 0x800
def Flag.nv : Dword := 0x1000
def Flag.qz : Dword := 0x2000
def Flag.qs : Dword := 0x4000
def Flag.qv : Dword := 0x8000

/-- A pattern with the flags that making it raised. -/
structure Rounded where
  bits : Nat
  flags : Dword := 0
  deriving DecidableEq, Repr

/-- A value: `fin neg m e` is (−1)^neg × m × 2^e, with the sign kept at zero; `nan true` raises NV. -/
inductive FVal where
  | nan (signals : Bool)
  | inf (neg : Bool)
  | fin (neg : Bool) (m : Nat) (e : Int)
  deriving DecidableEq, Repr

/-- The value of a pattern of an IEEE format. -/
def Fmt.val (f : Fmt) (bits : Nat) : FVal :=
  let neg := bits.testBit (f.ebits + f.fbits)
  let ex := bits / 2 ^ f.fbits % 2 ^ f.ebits
  let fr := bits % 2 ^ f.fbits
  if ex = 2 ^ f.ebits - 1 then
    if fr = 0 then .inf neg else .nan (!fr.testBit (f.fbits - 1))
  else if ex = 0 then .fin neg fr (1 - f.bias - f.fbits)
  else .fin neg (2 ^ f.fbits + fr) (ex - f.bias - f.fbits)

def FVal.isNan : FVal → Bool
  | .nan _ => true
  | _ => false

def FVal.signals : FVal → Bool
  | .nan s => s
  | _ => false

def FVal.negate : FVal → FVal
  | .nan s => .nan s
  | .inf n => .inf (!n)
  | .fin n m e => .fin (!n) m e

/-- `v` as a signed multiple of 2^e, for an `e` not above its own exponent. -/
def FVal.scaled (e : Int) : FVal → Int
  | .fin n m e' => (if n then -1 else 1) * (m * 2 ^ (e' - e).toNat : Nat)
  | _ => 0

/-- The exact product. An infinity times zero signals. -/
def FVal.mul : FVal → FVal → FVal
  | .nan a, y => .nan (a || y.signals)
  | x, .nan b => .nan (x.signals || b)
  | .inf a, .inf b => .inf (a != b)
  | .inf a, .fin b m _ => if m = 0 then .nan true else .inf (a != b)
  | .fin a m _, .inf b => if m = 0 then .nan true else .inf (a != b)
  | .fin a m e, .fin b m' e' => .fin (a != b) (m * m') (e + e')

/-- The least exponent among finite terms. -/
def minExp : List FVal → Int → Int
  | [], d => d
  | .fin _ _ e :: vs, d => minExp vs (if e < d then e else d)
  | _ :: vs, d => minExp vs d

def hasInf (neg : Bool) (vs : List FVal) : Bool := vs.any (· == .inf neg)
def anySignals (vs : List FVal) : Bool := vs.any (·.signals)

/-- Whether every term is a zero of sign `neg`. -/
def allZero (neg : Bool) (vs : List FVal) : Bool :=
  vs.all (fun v => match v with | .fin n m _ => n == neg && m == 0 | _ => false)

/-- The exact sum of terms. Opposite infinities signal; a zero sum of unlike terms is +0, or −0 under RDN. -/
def FVal.sum (mode : RMode) (vs : List FVal) : FVal :=
  if vs.any (·.isNan) then .nan (anySignals vs)
  else if hasInf true vs && hasInf false vs then .nan true
  else if hasInf true vs then .inf true
  else if hasInf false vs then .inf false
  else
    let e := minExp vs 1024
    let t : Int := vs.foldl (fun acc v => acc + v.scaled e) 0
    if t = 0 then .fin (allZero true vs || (!allZero false vs && mode == .rdn)) 0 e
    else .fin (decide (t < 0)) t.natAbs e

def FVal.add (mode : RMode) (x y : FVal) : FVal := FVal.sum mode [x, y]
def FVal.sub (mode : RMode) (x y : FVal) : FVal := FVal.sum mode [x, y.negate]

/-- `x × y + z` with its NaN operands taken first (R403). -/
def FVal.fma (mode : RMode) (x y z : FVal) : FVal :=
  if x.isNan || y.isNan || z.isNan then .nan (x.signals || y.signals || z.signals)
  else FVal.sum mode [x.mul y, z]

/-- Whether a magnitude with remainder `r` of `2 ^ s` rounds up, `odd` telling the kept part's lowest bit. -/
def roundsUp (mode : RMode) (neg odd : Bool) (r s : Nat) : Bool :=
  if r = 0 then false
  else match mode with
    | .rne => decide (2 * r > 2 ^ s) || (decide (2 * r = 2 ^ s) && odd)
    | .rtz => false
    | .rdn => neg
    | .rup => !neg
    | .rna => decide (2 * r ≥ 2 ^ s)
    | .rto => !odd

/-- `m × 2^e` rounded to a multiple of `2^q`: the multiplier, and whether it is exact. -/
def roundAt (mode : RMode) (neg : Bool) (m : Nat) (e q : Int) : Nat × Bool :=
  if q ≤ e then (m * 2 ^ (e - q).toNat, true)
  else
    let s := (q - e).toNat
    let k := m / 2 ^ s
    let r := m % 2 ^ s
    (if roundsUp mode neg (k % 2 == 1) r s then k + 1 else k, r == 0)

/-- What an overflow delivers (R305): an infinity or the largest finite magnitude. -/
def Fmt.overflow (f : Fmt) (mode : RMode) (neg : Bool) : Nat :=
  let toInf := match mode with
    | .rne | .rna => true
    | .rtz | .rto => false
    | .rdn => neg
    | .rup => !neg
  if toInf then f.infinity neg else f.maxFinite neg

/-- Rounds `m × 2^e` into the format. `m` and `e` stand for an inexact value when `m` is odd in its last place
by `sticky`. -/
def Fmt.roundFin (f : Fmt) (mode : RMode) (neg : Bool) (m : Nat) (e : Int) : Rounded :=
  if m = 0 then { bits := f.signBit neg }
  else
    let top : Int := e + m.log2
    let emin : Int := 1 - f.bias
    let q := (if top < emin then emin else top) - f.fbits
    let (k, exact) := roundAt mode neg m e q
    let (u, _) := roundAt mode neg m e (top - f.fbits)
    let top' : Int := if u = 2 ^ (f.fbits + 1) then top + 1 else top
    let (k, q) := if k = 2 ^ (f.fbits + 1) then (2 ^ f.fbits, q + 1) else (k, q)
    let tiny := decide (top' < emin)
    let inexact : Dword := if exact then 0 else Flag.nx
    if k < 2 ^ f.fbits then
      { bits := f.signBit neg + k, flags := inexact ||| (if tiny && !exact then Flag.uf else 0) }
    else
      let field := q + f.fbits + f.bias
      if field ≥ 2 ^ f.ebits - 1 then
        { bits := f.overflow mode neg, flags := Flag.ov ||| Flag.nx }
      else
        { bits := f.signBit neg + field.toNat * 2 ^ f.fbits + (k - 2 ^ f.fbits),
          flags := inexact ||| (if tiny && !exact then Flag.uf else 0) }

/-- Appends to `m` two low bits that stand for a lost nonzero tail. -/
def sticky (m : Nat) (lost : Bool) : Nat := 4 * m + (if lost then 1 else 0)

/-- RoundTo(format, value, mode) of R8, with the flags it raises (R343). -/
def Fmt.round (f : Fmt) (mode : RMode) : FVal → Rounded
  | .nan s => { bits := f.nan, flags := if s then Flag.nv else 0 }
  | .inf n => { bits := f.infinity n }
  | .fin n m e => f.roundFin mode n m e

/-- The quotient rounded into the format, with DZ for a finite nonzero dividend over zero. -/
def Fmt.div (f : Fmt) (mode : RMode) (x y : FVal) : Rounded :=
  if x.isNan || y.isNan then f.round mode (.nan (x.signals || y.signals))
  else match x, y with
    | .inf _, .inf _ => f.round mode (.nan true)
    | .inf a, .fin b _ _ => { bits := f.infinity (a != b) }
    | .fin a _ _, .inf b => { bits := f.signBit (a != b) }
    | .fin a m e, .fin b m' e' =>
      if m' = 0 then
        if m = 0 then f.round mode (.nan true) else { bits := f.infinity (a != b), flags := Flag.dz }
      else
        let k := 2 * f.fbits + 8 + m'.log2
        let n := m * 2 ^ k
        f.roundFin mode (a != b) (sticky (n / m') (n % m' != 0)) (e - e' - k - 2)
    | _, _ => f.round mode (.nan true)

/-- The integer square root by bits, from bit `k` down. -/
def isqrtFrom (n : Nat) : Nat → Nat → Nat
  | 0, r => r
  | k + 1, r =>
    let t := r + 2 ^ k
    isqrtFrom n k (if t * t ≤ n then t else r)

/-- The integer square root. -/
def isqrt (n : Nat) : Nat := isqrtFrom n (n.log2 / 2 + 1) 0

/-- The square root rounded into the format; of a negative number, an invalid operation. -/
def Fmt.sqrt (f : Fmt) (mode : RMode) (x : FVal) : Rounded :=
  match x with
  | .nan s => f.round mode (.nan s)
  | .inf n => if n then f.round mode (.nan true) else { bits := f.infinity false }
  | .fin n m e =>
    if m = 0 then { bits := f.signBit n }
    else if n then f.round mode (.nan true)
    else
      let k := 2 * f.fbits + 8
      let odd := e % 2 != 0
      let m' := (if odd then 2 * m else m) * 2 ^ (2 * k)
      let e' := if odd then e - 1 else e
      let r := isqrt m'
      f.roundFin mode false (sticky r (r * r != m')) (e' / 2 - k - 2)

/-- 1 / √x rounded into the format (R404). -/
def Fmt.rsqrt (f : Fmt) (mode : RMode) (x : FVal) : Rounded :=
  match x with
  | .nan s => f.round mode (.nan s)
  | .inf n => if n then f.round mode (.nan true) else { bits := 0 }
  | .fin n m e =>
    if m = 0 then { bits := f.infinity n, flags := Flag.dz }
    else if n then f.round mode (.nan true)
    else
      let odd := e % 2 != 0
      let m' := if odd then 2 * m else m
      let e' := if odd then e - 1 else e
      let k := 2 * f.fbits + 8 + m'.log2
      let x := 2 ^ (2 * k)
      let r := isqrt (x / m')
      f.roundFin mode false (sticky r (r * r * m' != x)) (-(e' / 2) - k - 2)

/-- How two values compare; none when a NaN is among them. -/
def FVal.cmp (x y : FVal) : Option Ordering :=
  match x, y with
  | .nan _, _ => none
  | _, .nan _ => none
  | .inf a, .inf b => some (if a = b then .eq else if a then .lt else .gt)
  | .inf a, _ => some (if a then .lt else .gt)
  | _, .inf b => some (if b then .gt else .lt)
  | .fin a m e, .fin b m' e' =>
    let q := if e ≤ e' then e else e'
    some (compare (FVal.scaled q (.fin a m e)) (FVal.scaled q (.fin b m' e')))

/-- minimumNumber, or maximumNumber when `big` (R343): the pattern chosen, NV for a signalling NaN. -/
def Fmt.minMax (f : Fmt) (big : Bool) (a b : Nat) : Rounded :=
  let x := f.val a
  let y := f.val b
  let flags : Dword := if x.signals || y.signals then Flag.nv else 0
  if x.isNan && y.isNan then { bits := f.nan, flags := flags }
  else if x.isNan then { bits := b, flags := flags }
  else if y.isNan then { bits := a, flags := flags }
  else match FVal.cmp x y with
    | some .lt => { bits := if big then b else a, flags := flags }
    | some .gt => { bits := if big then a else b, flags := flags }
    | _ =>
      -- equal values: of two zeros, −0 is the lesser
      let aNeg := a.testBit (f.ebits + f.fbits)
      { bits := if aNeg == big then b else a, flags := flags }

/-- The value rounded to an integer, and whether that is exact. -/
def FVal.toInt (mode : RMode) : FVal → Int × Bool
  | .fin n m e =>
    let (k, exact) := roundAt mode n m e 0
    ((if n then -1 else 1) * (k : Int), exact)
  | _ => (0, true)

/-- A value rounded into an integer type from `lo` to `hi` (R345): saturates with NV, NaN gives 0 with NV. -/
def FVal.toRange (mode : RMode) (lo hi : Int) (v : FVal) : Int × Dword :=
  match v with
  | .nan _ => (0, Flag.nv)
  | .inf n => (if n then lo else hi, Flag.nv)
  | .fin .. =>
    let (i, exact) := v.toInt mode
    if i < lo then (lo, Flag.nv)
    else if hi < i then (hi, Flag.nv)
    else (i, if exact then 0 else Flag.nx)

/-- An integer as a value. -/
def FVal.ofInt (i : Int) : FVal := .fin (decide (i < 0)) i.natAbs 0

/-- The sign-cleared pattern. -/
def Fmt.abs (f : Fmt) (bits : Nat) : Nat := bits % 2 ^ (f.ebits + f.fbits)

/-- The FCLASS mask of R346 for a value that is not poison. -/
def Fmt.classOf (f : Fmt) (bits : Nat) : Nat :=
  match f.val bits with
  | .nan s => if s then 0x100 else 0x200
  | .inf n => if n then 0x1 else 0x80
  | .fin n m _ =>
    let normal := decide (2 ^ f.fbits ≤ m)
    if m = 0 then (if n then 0x8 else 0x10)
    else if normal then (if n then 0x2 else 0x40)
    else (if n then 0x4 else 0x20)

end Sys2Proof.Machine
end

