-- ==== Sys2Proof/Machine/Narrow.lean ====
section
/-! DEFINITION. Narrow formats, block scales and quantisation (R296 to R302, R305, R307, R54). -/

namespace Sys2Proof.Machine

/-- Bits [hi:lo] of a pattern, by lowest bit and length (R6). -/
def bitsOf (x lo len : Nat) : Nat := x / 2 ^ lo % 2 ^ len

/-- A format register F1 to F7 read as R296 lays it out. -/
structure Narrow where
  v : Bool
  ocps : Bool
  tgt : Nat
  split : Bool
  scaled : Bool
  blk : Nat
  bias : Int
  e : Nat
  sgn : Nat
  w : Nat
  deriving DecidableEq, Repr

/-- The fields of a format register. -/
def Narrow.ofReg (r : Dword) : Narrow :=
  let x := r.toNat
  let b := bitsOf x 8 8
  { v := x.testBit 31, ocps := x.testBit 26, tgt := bitsOf x 24 2, split := x.testBit 23,
    scaled := x.testBit 22, blk := (if bitsOf x 20 2 = 0 then 0 else 8 * 2 ^ bitsOf x 20 2),
    bias := if b < 128 then b else (b : Int) - 256, e := bitsOf x 4 4,
    sgn := bitsOf x 3 1, w := bitsOf x 0 3 + 1 }

def Narrow.m (f : Narrow) : Nat := f.w - f.sgn - f.e

/-- Validity (R297); E is at most 8 (R296). -/
def Narrow.valid (f : Narrow) : Bool :=
  f.v && decide (f.e + f.sgn ≤ f.w) && (f.scaled == decide (f.blk ≠ 0))
    && (f.blk != 0 || !f.split) && f.tgt != 3

/-- The expansion target. -/
def Narrow.target (f : Narrow) : Fmt := if f.tgt = 0 then .f32 else if f.tgt = 1 then .bf16 else .f16

/-- Elements of one row (R54). -/
def Narrow.elems (f : Narrow) : Nat := if f.tgt = 0 then 64 else 128

/-- Bytes of one packed row (R54). -/
def Narrow.rowBytes (f : Narrow) : Nat :=
  if f.blk = 0 then f.elems * f.w / 8 else f.elems / f.blk * (1 + f.blk * f.w / 8)

/-- The value of an element code (R298). -/
def Narrow.val (f : Narrow) (code : Nat) : FVal :=
  if f.e = 0 then
    let i : Int := if f.sgn = 1 ∧ 2 ^ (f.w - 1) ≤ code then (code : Int) - 2 ^ f.w else code
    .fin (decide (i < 0)) i.natAbs (-f.bias)
  else
    let neg := f.sgn = 1 && code.testBit (f.w - 1)
    let ex := bitsOf code f.m f.e
    let fr := code % 2 ^ f.m
    if ex = 0 then .fin neg fr (1 - f.bias - f.m) else .fin neg (2 ^ f.m + fr) (ex - f.bias - f.m)

/-- Whether OCP-safe writes bind, and which code they exclude (R299). -/
def Narrow.safe52 (f : Narrow) : Bool := f.ocps && f.e == 5 && f.m == 2
def Narrow.safe43 (f : Narrow) : Bool := f.ocps && f.e == 4 && f.m == 3

/-- The largest exponent (R298). -/
def Narrow.emax (f : Narrow) : Int :=
  if f.e = 0 then (f.w : Int) - 1 - f.sgn - f.bias
  else if f.safe52 then 2 ^ f.e - 2 - f.bias
  else 2 ^ f.e - 1 - f.bias

/-- The code of the largest magnitude, without its sign (R298). -/
def Narrow.maxCode (f : Narrow) : Nat :=
  if f.e = 0 then 2 ^ (f.w - f.sgn) - 1
  else if f.safe52 then (2 ^ f.e - 2) * 2 ^ f.m + (2 ^ f.m - 1)
  else if f.safe43 then 2 ^ (f.e + f.m) - 2
  else 2 ^ (f.e + f.m) - 1

/-- The saturated code with a sign (R305): vmax, the lowest value, or 0 where there is no sign. -/
def Narrow.limit (f : Narrow) (neg : Bool) : Nat :=
  if !neg then f.maxCode
  else if f.sgn = 0 then 0
  else if f.e = 0 then 2 ^ (f.w - 1)
  else 2 ^ (f.w - 1) + f.maxCode

/-- Rounds a finite value into a narrow format (R305). -/
def Narrow.roundFin (f : Narrow) (mode : RMode) (neg : Bool) (m : Nat) (e : Int) : Rounded :=
  if f.e = 0 then
    let (k, exact) := roundAt mode neg m e (-f.bias)
    let nx : Dword := if exact then 0 else Flag.nx
    if neg && k != 0 then
      if f.sgn = 0 then { bits := 0, flags := Flag.qs ||| Flag.nx }
      else if 2 ^ (f.w - 1) < k then { bits := f.limit true, flags := Flag.qs ||| Flag.nx }
      else { bits := 2 ^ f.w - k, flags := nx }
    else if f.maxCode < k then { bits := f.maxCode, flags := Flag.qs ||| Flag.nx }
    else { bits := k, flags := nx }
  else if m = 0 then
    { bits := if neg && f.sgn == 1 then 2 ^ (f.w - 1) else 0 }
  else
    let top : Int := e + m.log2
    let emin : Int := 1 - f.bias
    let q := (if top < emin then emin else top) - f.m
    let (k, exact) := roundAt mode neg m e q
    let (u, _) := roundAt mode neg m e (top - f.m)
    let top' : Int := if u = 2 ^ (f.m + 1) then top + 1 else top
    let (k, q) := if k = 2 ^ (f.m + 1) then (2 ^ f.m, q + 1) else (k, q)
    let uf : Dword := if decide (top' < emin) && !exact then Flag.uf else 0
    let nx : Dword := if exact then 0 else Flag.nx
    let mag := if k < 2 ^ f.m then k else (q + f.m + f.bias).toNat * 2 ^ f.m + (k - 2 ^ f.m)
    if neg && f.sgn == 0 then
      if k = 0 then { bits := 0, flags := Flag.nx ||| uf } else { bits := 0, flags := Flag.qs ||| Flag.nx }
    else if f.maxCode < mag then { bits := f.limit neg, flags := Flag.qs ||| Flag.nx }
    else { bits := (if neg then 2 ^ (f.w - 1) else 0) + mag, flags := nx ||| uf }

/-- Element codes packed from bit 0 (R301). -/
def packCodes (w : Nat) : List Nat → Nat
  | [] => 0
  | c :: cs => c + 2 ^ w * packCodes w cs

/-- The `n` low bytes of a number, lowest first. -/
def natBytes : Nat → Nat → List Byte
  | 0, _ => []
  | n + 1, x => BitVec.ofNat 8 x :: natBytes n (x / 256)

/-- The number whose little-endian bytes are given. -/
def bytesNat : List Byte → Nat
  | [] => 0
  | b :: bs => b.toNat + 256 * bytesNat bs

/-- The list cut into runs of `n`, at most `k` of them. -/
def chunks {α : Type} (n : Nat) : Nat → List α → List (List α)
  | 0, _ => []
  | k + 1, xs => if xs.isEmpty then [] else xs.take n :: chunks n k (xs.drop n)

/-- Bytes with the poison of each. -/
abbrev PBytes := List (Byte × Bool)

def markBytes (p : Bool) (bs : List Byte) : PBytes := bs.map (·, p)

/-- A quantised block: scale byte, element bytes, flags. -/
structure QBlock where
  scale : PBytes
  body : PBytes
  flags : Dword
  deriving DecidableEq, Repr

/-- floor(log2) of a finite nonzero magnitude. -/
def FVal.log2 : FVal → Int
  | .fin _ m e => e + m.log2
  | _ => 0

def FVal.isFinite : FVal → Bool
  | .fin .. => true
  | _ => false

def FVal.isZero : FVal → Bool
  | .fin _ m _ => m == 0
  | _ => false

/-- The largest log2 among nonzero values. -/
def maxLog : List FVal → Option Int → Option Int
  | [], b => b
  | v :: vs, b =>
    if v.isZero then maxLog vs b
    else maxLog vs (match b with | none => some v.log2 | some x => some (if x < v.log2 then v.log2 else x))

/-- QuantiseBlock of R307, over source patterns of `src`; `side` is the row's side bit. -/
def quantiseBlock (f : Narrow) (mode : RMode) (src : Fmt) (side : Bool) (els : List Nat) : QBlock :=
  let body (cs : List Nat) := natBytes (els.length * f.w / 8) (packCodes f.w cs)
  let zeros := els.map (fun _ => 0)
  let vals := els.map src.val
  if side || els.any (· == src.poison) then
    { scale := [(0x7F, true)], body := markBytes true (body zeros), flags := 0 }
  else if vals.any (fun v => !v.isFinite) then
    { scale := [(0xFF, false)], body := markBytes false (body zeros), flags := Flag.qv }
  else match maxLog vals none with
    | none => { scale := [(0x7F, false)], body := markBytes false (body zeros), flags := Flag.qz }
    | some top =>
      let x0 := top - f.emax
      let x := if x0 < -127 then -127 else if 127 < x0 then 127 else x0
      let rs := vals.map (fun v => match v with
        | .fin n m e => f.roundFin mode n m (e - x)
        | _ => { bits := 0 })
      { scale := [(BitVec.ofNat 8 (x + 127).toNat, false)],
        body := markBytes false (body (rs.map (·.bits))),
        flags := rs.foldl (fun a r => a ||| r.flags) 0 }

/-- One element of a format without block scales: code, poison, flags (R307). -/
def quantiseOne (f : Narrow) (mode : RMode) (src : Fmt) (side : Bool) (el : Nat) : Nat × Bool × Dword :=
  if side || el == src.poison then (0, true, 0)
  else match src.val el with
    | .nan _ => (0, false, Flag.qv)
    | .inf n => (f.limit n, false, Flag.qs ||| Flag.nx)
    | .fin n m e => let r := f.roundFin mode n m e; (r.bits, false, r.flags)

/-- Whether any element of `w` bits that overlaps byte `j` is marked. -/
def byteMarked (w j : Nat) (marks : List Bool) : Bool :=
  (marks.drop (8 * j / w)).take ((8 * j + 7) / w + 1 - 8 * j / w) |>.any id

/-- Elements of `src` packed into the layout of R54 and R301, with the poison of each byte. -/
def packFrom (f : Narrow) (src : Fmt) (mode : RMode) (side : Bool) (els : List Nat) : PBytes × Dword :=
  if f.blk = 0 then
    let qs := els.map (quantiseOne f mode src side)
    let n := (els.length * f.w + 7) / 8
    let bs := natBytes n (packCodes f.w (qs.map (·.1)))
    let marks := qs.map (fun q => q.2.1)
    (bs.mapIdx (fun j b => (b, byteMarked f.w j marks)), qs.foldl (fun a q => a ||| q.2.2) 0)
  else
    let qs := (chunks f.blk els.length els).map (quantiseBlock f mode src side)
    let flags := qs.foldl (fun a q => a ||| q.flags) 0
    if f.split then (qs.flatMap (·.body) ++ qs.flatMap (·.scale), flags)
    else (qs.flatMap (fun q => q.scale ++ q.body), flags)

/-- A row packed. -/
def packRow (f : Narrow) (mode : RMode) (side : Bool) (els : List Nat) : PBytes × Dword :=
  packFrom f f.target mode side els

/-- One element decoded (R302): the poison pattern, the canonical NaN of a 0xFF scale, or the rounded value. -/
def decodeOne (f : Narrow) (scale code : Nat) (pois : Bool) : Nat :=
  let t := f.target
  if pois then t.poison
  else if f.blk ≠ 0 ∧ scale = 255 then t.nan
  else match f.val code with
    | .fin n m e => (t.roundFin .rne n m (if f.blk = 0 then e else e + scale - 127)).bits
    | v => (t.round .rne v).bits

/-- Elements of a run of packed bytes under one scale. -/
def decodeRun (f : Narrow) (n : Nat) (scale : Nat) (scalePois : Bool) (bs : PBytes) : List Nat :=
  let x := bytesNat (bs.map (·.1))
  (List.range n).map (fun i =>
    let lo := i * f.w / 8
    let hi := (i * f.w + f.w - 1) / 8
    let p := scalePois || ((bs.drop lo).take (hi + 1 - lo)).any (·.2)
    decodeOne f scale (bitsOf x (i * f.w) f.w) p)

/-- A row decoded from its packed bytes. -/
def unpackRow (f : Narrow) (bs : PBytes) : List Nat :=
  if f.blk = 0 then decodeRun f f.elems 0 false bs
  else
    let per := f.blk * f.w / 8
    let k := f.elems / f.blk
    (List.range k).flatMap (fun b =>
      let (sc, body) :=
        if f.split then (bs.drop (k * per + b)).take 1 |> fun s => (s, (bs.drop (b * per)).take per)
        else ((bs.drop (b * (per + 1))).take 1, (bs.drop (b * (per + 1) + 1)).take per)
      match sc with
      | (s, p) :: _ => decodeRun f f.blk s.toNat p body
      | [] => [])

end Sys2Proof.Machine
end

