-- ==== Sys2Proof/Machine/Elementary.lean ====
section
/-! DEFINITION. VEXP2, VLOG2, VTANH and VSIG, correctly rounded to FP32 under RNE (R404).

Values are taken in fixed point with 256 fraction bits, from series whose truncation stays below 2^16 of
the last place. The value lies between the bounds `elemRound` rounds; both round to one pattern unless an FP32
input's exact value lies within 2^-230 of a rounding boundary (notes/assumptions/13.md). -/

namespace Sys2Proof.Machine

/-- Fraction bits. -/
def elemBits : Nat := 256
/-- ln 2 in fixed point, rounded down. -/
def ln2Fix : Nat := 0xB17217F7D1CF79ABC9E3B39803F2F6AF40F343267298B62D8A0D175B8BAAFA2B
/-- The bound on what the series lose. -/
def elemSlack : Nat := 2 ^ 16

/-- The rest of the exponential series: `term` is x^k / k!. -/
def expSeries (x : Nat) : Nat → Nat → Nat → Nat
  | 0, _, _ => 0
  | fuel + 1, k, term => term + expSeries x fuel (k + 1) (term * x / 2 ^ elemBits / (k + 1))

/-- e^x for a fixed-point x below 1. -/
def expFix (x : Nat) : Nat := expSeries x 75 0 (2 ^ elemBits)

/-- The rest of the series of artanh: `pw` is z^k. -/
def atanhSeries (zz : Nat) : Nat → Nat → Nat → Nat
  | 0, _, _ => 0
  | fuel + 1, k, pw => pw / k + atanhSeries zz fuel (k + 2) (pw * zz / 2 ^ elemBits)

/-- ln(n / d) for a ratio from 1 to 2. -/
def lnFix (n d : Nat) : Nat :=
  let z := (n - d) * 2 ^ elemBits / (n + d)
  2 * atanhSeries (z * z / 2 ^ elemBits) 90 1 z

/-- m × 2^e in fixed point, rounded down. -/
def toFix (m : Nat) (e : Int) : Nat :=
  if 0 ≤ e + elemBits then m * 2 ^ (e + elemBits).toNat else m / 2 ^ (-(e + elemBits)).toNat

/-- An inexact FP32 result whose magnitude lies within the slack of `v` × 2^(e − 256). -/
def elemRound (neg : Bool) (v : Nat) (e : Int) : Rounded :=
  let lo := Fmt.f32.roundFin .rne neg (sticky (v - elemSlack) true) (e - elemBits - 2)
  let hi := Fmt.f32.roundFin .rne neg (sticky (v + elemSlack) true) (e - elemBits - 2)
  if lo.bits = hi.bits then lo else Fmt.f32.roundFin .rne neg (sticky v true) (e - elemBits - 2)

/-- e^(−y) for y = m × 2^e, 0 < y < 2^10, as v × 2^(n − 256). -/
def expNeg (m : Nat) (e : Int) : Nat × Int :=
  let y := toFix m e
  let n := y / ln2Fix
  (expFix (ln2Fix - y % ln2Fix), -(n : Int) - 1)

/-- 2^a (VEXP2). -/
def exp2R (x : FVal) : Rounded :=
  match x with
  | .nan s => Fmt.f32.round .rne (.nan s)
  | .inf n => { bits := if n then 0 else Fmt.f32.infinity false }
  | .fin n m e =>
    if m = 0 then { bits := 0x3F800000 }
    else if 9 < e + m.log2 then
      -- beyond the format: rounds as a value far above or below its range
      Fmt.f32.roundFin .rne false 1 (if n then -1000 else 1000)
    else
      let whole : Int := if 0 ≤ e then (m * 2 ^ e.toNat : Nat) else (m / 2 ^ (-e).toNat : Nat)
      let rest := if 0 ≤ e then 0 else m % 2 ^ (-e).toNat
      if rest = 0 then Fmt.f32.roundFin .rne false 1 (if n then -whole else whole)
      else
        let fr := toFix rest e
        let f := if n then 2 ^ elemBits - fr else fr
        let k : Int := if n then -whole - 1 else whole
        elemRound false (expFix (f * ln2Fix / 2 ^ elemBits)) k

/-- log2 a (VLOG2). -/
def log2R (x : FVal) : Rounded :=
  match x with
  | .nan s => Fmt.f32.round .rne (.nan s)
  | .inf n => if n then Fmt.f32.round .rne (.nan true) else { bits := Fmt.f32.infinity false }
  | .fin n m e =>
    if m = 0 then { bits := Fmt.f32.infinity true, flags := Flag.dz }
    else if n then Fmt.f32.round .rne (.nan true)
    else
      let k : Int := e + m.log2
      if m = 2 ^ m.log2 then Fmt.f32.round .rne (FVal.ofInt k)
      else
        let f := lnFix m (2 ^ m.log2) * 2 ^ elemBits / ln2Fix
        let t : Int := k * (2 ^ elemBits : Nat) + f
        elemRound (decide (t < 0)) t.natAbs 0

/-- tanh a (VTANH). -/
def tanhR (x : FVal) : Rounded :=
  match x with
  | .nan s => Fmt.f32.round .rne (.nan s)
  | .inf n => { bits := Fmt.f32.signBit n + 0x3F800000 }
  | .fin n m e =>
    let top := e + m.log2
    if m = 0 then { bits := Fmt.f32.signBit n }
    else if top < -13 then
      -- a − a³/3 < tanh a < a: rounds as a value just below a
      Fmt.f32.roundFin .rne n (sticky (m * 2 ^ 60 - 1) true) (e - 62)
    else if 4 < top then elemRound n (2 ^ elemBits - 2 ^ 20) 0
    else
      let (v, k) := expNeg m (e + 1)
      let t := v / 2 ^ (-k).toNat
      let one := 2 ^ elemBits
      elemRound n ((one - t) * one / (one + t)) 0

/-- 1 / (1 + e^(−a)) (VSIG). -/
def sigR (x : FVal) : Rounded :=
  match x with
  | .nan s => Fmt.f32.round .rne (.nan s)
  | .inf n => { bits := if n then 0 else 0x3F800000 }
  | .fin n m e =>
    let one := 2 ^ elemBits
    if m = 0 then { bits := 0x3F000000 }
    else if 8 < e + m.log2 then
      if n then Fmt.f32.roundFin .rne false 1 (-1000) else elemRound false (one - 2 ^ 20) 0
    else
      let (v, k) := expNeg m e
      let t := v / 2 ^ (-k).toNat
      if n then elemRound false (v * one / (one + t)) k
      else elemRound false (one * one / (one + t)) 0

end Sys2Proof.Machine
end

