-- ==== Sys2Proof/Config.lean ====
section
/-! DEFINITION. What the spec fixes for the device, and the values it leaves open.

Every opaque constant is a FREE VALUE (notes/assumptions/3.md): it has no body, so no proof can see it. -/

namespace Sys2Proof.Config

/-- Physical squares of the device, 16 x 16 x 8 (R2). -/
def squares : Nat := 2048
/-- Physical cores (R3). -/
def cores : Nat := 8192
/-- First physical address that is not populated (R14). -/
def memTop : Nat := 0x009000000000
/-- Where a device physical address lies (R104): stack, channel, byte within the stack. -/
def hbmPlace (pa : Nat) : Nat × Nat × Nat :=
  let blk := pa / 4096
  (blk % 12, blk / 12 % 32, blk / 12 * 4096 + pa % 4096)
/-- Cores whose context numbers are below this exist (R18). -/
def contexts : Nat := 64
/-- Bytes of a local store (R49, R50). -/
def localBytes : Nat := 0x200000
/-- Bytes of an operand FIFO (R425). -/
def fifoBytes : Nat := 65536
/-- Entries of a square's exchange buffer (R203). -/
def exchangeEntries : Nat := 512
/-- Entries of a core's range-overlap scoreboard (R224). -/
def scoreboardEntries : Nat := 32
/-- Undo records of a slice (R88). -/
def undoRecords : Nat := 1024

/-- FREE VALUE. The value of a poisoned `.iadd` reduction element, by its place in the reduction (R389). -/
opaque poisonedSum : Nat → BitVec 32
/-- FREE VALUE. A byte of device memory after an abandoned restore, by abandonment and address (R263). -/
opaque lostByte : Nat → Nat → Byte
/-- FREE VALUE. The AES-256-GMAC tag of a save image's block: cold-reset count, SEQ, block index, bytes (R290). -/
opaque saveTag : Nat → Nat → Nat → List Byte → BitVec 128
/-- FREE VALUE. A byte of an exchange-buffer entry in a save image, whose layout the spec does not give: SEQ, entry,
place (R289). -/
opaque entryByte : Nat → Nat → Nat → Byte
/-- FREE VALUE. A byte of the router combiner state in a save image: SEQ, place (R289). -/
opaque combinerByte : Nat → Nat → Byte
/-- FREE VALUE. The GMAC tag of a checkpoint block under the checkpoint key: block address, bytes (R263). -/
opaque checkpointTag : Nat → List Byte → BitVec 128
/-- FREE VALUE. The 64-bit hash of an outgoing message (R211). -/
opaque messageHash : List Nat → Dword
/-- FREE VALUE. What QPSTAT writes while no block is bound; by draw (R455). -/
opaque unboundStatus : Nat → Dword
/-- FREE VALUE. A byte of a rejected load's poisoned value; by draw and place (R45). -/
opaque rejectedByte : Nat → Nat → Byte
/-- FREE VALUE. Whether a QDEQ that names one register twice leaves its entry there, not its status; by draw (R378). -/
opaque entryLast : Nat → Bool
/-- FREE VALUE. The number of the boot stage reached with a result code (R264). -/
opaque bootStage : Nat → Byte
/-- FREE VALUE. The status that CKPT_DONE posts: 0 for a checkpoint, 1 for a restore (R261). -/
opaque ckptStatus : Nat → Dword
/-- FREE VALUE. The device's own number among the devices of the fabric (R45, R262). -/
opaque deviceNo : Nat
/-- FREE VALUE. Nanoseconds by which a device without a time source drifts in one, by its clock (R262). -/
opaque drift : Nat → Nat
/-- FREE VALUE. Bytes of a port's receive buffer (R252). -/
opaque receiveBytes : Nat → Nat
/-- FREE VALUE. The identity that an attestation report holds (R265). -/
opaque deviceIdentity : List Byte
/-- FREE VALUE. The SHA-384 measurement of each boot stage (R265), by cold reset. -/
opaque measurements : Nat → List (BitVec 384)
/-- FREE VALUE. The ECDSA signature over a report: nonce, LMS index (R265). -/
opaque ecdsaSignature : Nat → Nat → List Byte
/-- FREE VALUE. The LMS signature over a report: nonce, LMS index (R265). -/
opaque lmsSignature : Nat → Nat → List Byte

end Sys2Proof.Config
end

