-- ==== Sys2Proof/Syntax.lean ====
section
/-! DEFINITION. The instruction type: one constructor per row of the opcode table.

The first 281 constructors are the encoded instructions; each argument is one field of the row's
encoding, under the table's letter and at its width. The other 85 are the part's EVENTS, the rows
without an encoding: steps of its engines and controllers, of the fabric, and inputs from outside. Their
arguments say where the event happens and carry what the outside or an open choice of the manual supplies.
No event is ever decoded; they reach the machine through `State.agenda` and through its own internal steps. -/

namespace Sys2Proof

/-- The instructions and events of the Denaux Mbazia. -/
inductive Instr where
  /-- ADD (R335): Adds the low w bits of two registers and writes the sign-extended result. -/
  | add (m : BitVec 1) (d : BitVec 5) (a : BitVec 5) (b : BitVec 5) (s : BitVec 2)
  /-- SUB (R335): Subtracts register b from register a at width w. -/
  | sub (m : BitVec 1) (d : BitVec 5) (a : BitVec 5) (b : BitVec 5) (s : BitVec 2)
  /-- AND (R335): Bitwise AND of two registers at width w. -/
  | and (m : BitVec 1) (d : BitVec 5) (a : BitVec 5) (b : BitVec 5) (s : BitVec 2)
  /-- OR (R335): Bitwise OR of two registers at width w. -/
  | or (m : BitVec 1) (d : BitVec 5) (a : BitVec 5) (b : BitVec 5) (s : BitVec 2)
  /-- XOR (R335): Bitwise XOR of two registers at width w. -/
  | xor (m : BitVec 1) (d : BitVec 5) (a : BitVec 5) (b : BitVec 5) (s : BitVec 2)
  /-- ANDN (R335): AND of a with the complement of b at width w. -/
  | andn (m : BitVec 1) (d : BitVec 5) (a : BitVec 5) (b : BitVec 5) (s : BitVec 2)
  /-- SLL (R335): Shifts a left by b mod w. -/
  | sll (m : BitVec 1) (d : BitVec 5) (a : BitVec 5) (b : BitVec 5) (s : BitVec 2)
  /-- SRL (R335): Logical right shift of a by b mod w. -/
  | srl (m : BitVec 1) (d : BitVec 5) (a : BitVec 5) (b : BitVec 5) (s : BitVec 2)
  /-- SRA (R335): Arithmetic right shift of a by b mod w. -/
  | sra (m : BitVec 1) (d : BitVec 5) (a : BitVec 5) (b : BitVec 5) (s : BitVec 2)
  /-- ROL (R335): Rotates a left within w bits by b mod w. -/
  | rol (m : BitVec 1) (d : BitVec 5) (a : BitVec 5) (b : BitVec 5) (s : BitVec 2)
  /-- ROR (R335): Rotates a right within w bits by b mod w. -/
  | ror (m : BitVec 1) (d : BitVec 5) (a : BitVec 5) (b : BitVec 5) (s : BitVec 2)
  /-- SLT (R335): Writes 1 when a is less than b as signed values, else 0. -/
  | slt (m : BitVec 1) (d : BitVec 5) (a : BitVec 5) (b : BitVec 5) (s : BitVec 2)
  /-- SLTU (R335): Writes 1 when a is less than b as unsigned values, else 0. -/
  | sltu (m : BitVec 1) (d : BitVec 5) (a : BitVec 5) (b : BitVec 5) (s : BitVec 2)
  /-- SEQ (R335): Writes 1 when a equals b, else 0. -/
  | seq (m : BitVec 1) (d : BitVec 5) (a : BitVec 5) (b : BitVec 5) (s : BitVec 2)
  /-- MIN (R335): Writes the signed lesser of a and b. -/
  | min (m : BitVec 1) (d : BitVec 5) (a : BitVec 5) (b : BitVec 5) (s : BitVec 2)
  /-- MAX (R335): Writes the signed greater of a and b. -/
  | max (m : BitVec 1) (d : BitVec 5) (a : BitVec 5) (b : BitVec 5) (s : BitVec 2)
  /-- MINU (R335): Writes the unsigned lesser of a and b. -/
  | minu (m : BitVec 1) (d : BitVec 5) (a : BitVec 5) (b : BitVec 5) (s : BitVec 2)
  /-- MAXU (R335): Writes the unsigned greater of a and b. -/
  | maxu (m : BitVec 1) (d : BitVec 5) (a : BitVec 5) (b : BitVec 5) (s : BitVec 2)
  /-- MUL (R336): Low w bits of the product of a and b. -/
  | mul (m : BitVec 1) (d : BitVec 5) (a : BitVec 5) (b : BitVec 5) (s : BitVec 2)
  /-- MULH (R336): High half of the signed 2w-bit product. -/
  | mulh (m : BitVec 1) (d : BitVec 5) (a : BitVec 5) (b : BitVec 5) (s : BitVec 2)
  /-- MULHU (R336): High half of the unsigned 2w-bit product. -/
  | mulhu (m : BitVec 1) (d : BitVec 5) (a : BitVec 5) (b : BitVec 5) (s : BitVec 2)
  /-- MADD (R336): Adds the product of a and b to d. -/
  | madd (m : BitVec 1) (d : BitVec 5) (a : BitVec 5) (b : BitVec 5) (s : BitVec 2)
  /-- DIV (R336): Signed truncating division with the non-trapping cases of R309. -/
  | div (m : BitVec 1) (d : BitVec 5) (a : BitVec 5) (b : BitVec 5) (s : BitVec 2)
  /-- DIVU (R336): Unsigned division with the non-trapping cases of R309. -/
  | divu (m : BitVec 1) (d : BitVec 5) (a : BitVec 5) (b : BitVec 5) (s : BitVec 2)
  /-- REM (R336): Signed remainder with the dividend's sign. -/
  | rem (m : BitVec 1) (d : BitVec 5) (a : BitVec 5) (b : BitVec 5) (s : BitVec 2)
  /-- REMU (R336): Unsigned remainder. -/
  | remu (m : BitVec 1) (d : BitVec 5) (a : BitVec 5) (b : BitVec 5) (s : BitVec 2)
  /-- CLZ (R336): Counts leading zeros of a within w bits. -/
  | clz (m : BitVec 1) (d : BitVec 5) (a : BitVec 5) (s : BitVec 2)
  /-- CTZ (R336): Counts trailing zeros of a within w bits. -/
  | ctz (m : BitVec 1) (d : BitVec 5) (a : BitVec 5) (s : BitVec 2)
  /-- POPC (R336): Counts set bits of a. -/
  | popc (m : BitVec 1) (d : BitVec 5) (a : BitVec 5) (s : BitVec 2)
  /-- BREV (R336): Reverses the bit order of a within w bits. -/
  | brev (m : BitVec 1) (d : BitVec 5) (a : BitVec 5) (s : BitVec 2)
  /-- BSWAP (R336): Reverses the byte order of a within w bits. -/
  | bswap (m : BitVec 1) (d : BitVec 5) (a : BitVec 5) (s : BitVec 2)
  /-- ADDI (R337): Adds a sign-extended 15-bit immediate to a. -/
  | addi (m : BitVec 1) (d : BitVec 5) (a : BitVec 5) (i : BitVec 15)
  /-- ANDI (R337): ANDs a with a sign-extended immediate. -/
  | andi (m : BitVec 1) (d : BitVec 5) (a : BitVec 5) (i : BitVec 15)
  /-- ORI (R337): ORs a with a sign-extended immediate. -/
  | ori (m : BitVec 1) (d : BitVec 5) (a : BitVec 5) (i : BitVec 15)
  /-- XORI (R337): XORs a with a sign-extended immediate. -/
  | xori (m : BitVec 1) (d : BitVec 5) (a : BitVec 5) (i : BitVec 15)
  /-- SLLI (R338): Shifts a left by an immediate count. -/
  | slli (m : BitVec 1) (d : BitVec 5) (a : BitVec 5) (s : BitVec 2) (h : BitVec 6)
  /-- SRLI (R338): Logical right shift by an immediate count. -/
  | srli (m : BitVec 1) (d : BitVec 5) (a : BitVec 5) (s : BitVec 2) (h : BitVec 6)
  /-- SRAI (R338): Arithmetic right shift by an immediate count. -/
  | srai (m : BitVec 1) (d : BitVec 5) (a : BitVec 5) (s : BitVec 2) (h : BitVec 6)
  /-- ROLI (R338): Rotates left by an immediate count. -/
  | roli (m : BitVec 1) (d : BitVec 5) (a : BitVec 5) (s : BitVec 2) (h : BitVec 6)
  /-- SLTI (R339): Signed compare of a with a sign-extended 14-bit immediate. -/
  | slti (m : BitVec 1) (d : BitVec 5) (a : BitVec 5) (i : BitVec 14)
  /-- SLTIU (R339): Unsigned compare of a with a sign-extended 14-bit immediate. -/
  | sltiu (m : BitVec 1) (d : BitVec 5) (a : BitVec 5) (i : BitVec 14)
  /-- LIM (R340): Writes the sign-extended 20-bit immediate shifted left by 12. -/
  | lim (m : BitVec 1) (d : BitVec 5) (i : BitVec 20)
  /-- ADDPC (R340): Writes its own address plus the shifted immediate. -/
  | addpc (m : BitVec 1) (d : BitVec 5) (i : BitVec 20)
  /-- FADD (R343): Floating-point addition rounded once into FMT. -/
  | fadd (m : BitVec 1) (d : BitVec 5) (a : BitVec 5) (b : BitVec 5) (r : BitVec 3) (f : BitVec 2)
  /-- FSUB (R343): Floating-point subtraction. -/
  | fsub (m : BitVec 1) (d : BitVec 5) (a : BitVec 5) (b : BitVec 5) (r : BitVec 3) (f : BitVec 2)
  /-- FMUL (R343): Floating-point multiplication. -/
  | fmul (m : BitVec 1) (d : BitVec 5) (a : BitVec 5) (b : BitVec 5) (r : BitVec 3) (f : BitVec 2)
  /-- FMA (R343): Fused multiply-add of a times b plus d with one rounding. -/
  | fma (m : BitVec 1) (d : BitVec 5) (a : BitVec 5) (b : BitVec 5) (r : BitVec 3) (f : BitVec 2)
  /-- FDIV (R343): Floating-point division. -/
  | fdiv (m : BitVec 1) (d : BitVec 5) (a : BitVec 5) (b : BitVec 5) (r : BitVec 3) (f : BitVec 2)
  /-- FSQRT (R343): Floating-point square root. -/
  | fsqrt (m : BitVec 1) (d : BitVec 5) (a : BitVec 5) (r : BitVec 3) (f : BitVec 2)
  /-- FMIN (R343): IEEE minimumNumber of a and b. -/
  | fmin (m : BitVec 1) (d : BitVec 5) (a : BitVec 5) (b : BitVec 5) (f : BitVec 2)
  /-- FMAX (R343): IEEE maximumNumber of a and b. -/
  | fmax (m : BitVec 1) (d : BitVec 5) (a : BitVec 5) (b : BitVec 5) (f : BitVec 2)
  /-- FCMP (R344): Compares a and b under condition cc and writes 1 or 0. -/
  | fcmp (m : BitVec 1) (d : BitVec 5) (a : BitVec 5) (b : BitVec 5) (c : BitVec 3) (f : BitVec 2)
  /-- FCVT (R345): Converts between floating-point and integer types as the b field selects. -/
  | fcvt (m : BitVec 1) (d : BitVec 5) (a : BitVec 5) (x : BitVec 1) (t : BitVec 4) (r : BitVec 3) (f : BitVec 2)
  /-- FCLASS (R346): Writes a one-hot class mask of a. -/
  | fclass (m : BitVec 1) (d : BitVec 5) (a : BitVec 5) (f : BitVec 2)
  /-- FMV (R346): Copies the low w bits of a unchanged, with the side bit. -/
  | fmv (m : BitVec 1) (d : BitVec 5) (a : BitVec 5) (f : BitVec 2)
  /-- CLMUL (R348): Low 64 bits of the carry-less product. -/
  | clmul (m : BitVec 1) (d : BitVec 5) (a : BitVec 5) (b : BitVec 5)
  /-- CLMULH (R348): High 64 bits of the carry-less product. -/
  | clmulh (m : BitVec 1) (d : BitVec 5) (a : BitVec 5) (b : BitVec 5)
  /-- EXTR (R348): Extracts a bit field of a, optionally sign-extended. -/
  | extr (m : BitVec 1) (d : BitVec 5) (a : BitVec 5) (b : BitVec 5) (x : BitVec 1)
  /-- INS (R348): Inserts a bit field of a into d. -/
  | ins (m : BitVec 1) (d : BitVec 5) (a : BitVec 5) (b : BitVec 5)
  /-- SEL (R348): Selects a or b according to condition register sC. -/
  | sel (m : BitVec 1) (d : BitVec 5) (a : BitVec 5) (b : BitVec 5) (c : BitVec 5)
  /-- BEQ (R349): Branches when a equals b; the marker's stream evaluates and pushes the outcome. -/
  | beq (m : BitVec 1) (a : BitVec 5) (b : BitVec 5) (o : BitVec 15)
  /-- BNE (R349): Branches when a differs from b. -/
  | bne (m : BitVec 1) (a : BitVec 5) (b : BitVec 5) (o : BitVec 15)
  /-- BLT (R349): Branches when a is less than b, signed. -/
  | blt (m : BitVec 1) (a : BitVec 5) (b : BitVec 5) (o : BitVec 15)
  /-- BGE (R349): Branches when a is at least b, signed. -/
  | bge (m : BitVec 1) (a : BitVec 5) (b : BitVec 5) (o : BitVec 15)
  /-- BLTU (R349): Branches when a is less than b, unsigned. -/
  | bltu (m : BitVec 1) (a : BitVec 5) (b : BitVec 5) (o : BitVec 15)
  /-- BGEU (R349): Branches when a is at least b, unsigned. -/
  | bgeu (m : BitVec 1) (a : BitVec 5) (b : BitVec 5) (o : BitVec 15)
  /-- JAL (R351): Links the next address into d and jumps to a fixed offset. -/
  | jal (m : BitVec 1) (d : BitVec 5) (i : BitVec 20)
  /-- JALR (R352): Links and jumps to a register plus offset, faulting on misalignment. -/
  | jalr (m : BitVec 1) (d : BitVec 5) (a : BitVec 5) (i : BitVec 15)
  /-- LOOP (R353): Pushes a hardware loop of sC passes over the following body. -/
  | loop (m : BitVec 1) (c : BitVec 5) (l : BitVec 10)
  /-- RPT (R355): Repeats the following frame an immediate number of passes with row stagger. -/
  | rpt (n : BitVec 4) (g : BitVec 4) (c : BitVec 10)
  /-- RPT_REGISTER_COUNT (R355): Repeats the following frame a register-given number of passes with row stagger. -/
  | rptRegisterCount (n : BitVec 4) (g : BitVec 4) (c : BitVec 5)
  /-- MOD (R317): Prefix that supplies ordering, scope, space, cache and notaint to the following memory instruction. -/
  | mod (o : BitVec 3) (s : BitVec 3) (p : BitVec 3) (c : BitVec 2) (n : BitVec 1)
  /-- LDL (R362): Loads a scalar from the core's local store, zero-extended. -/
  | ldl (d : BitVec 5) (a : BitVec 5) (s : BitVec 2) (i : BitVec 13)
  /-- STL (R362): Stores a scalar to the core's local store. -/
  | stl (d : BitVec 5) (a : BitVec 5) (s : BitVec 2) (i : BitVec 13)
  /-- LD (R362): Loads a scalar from device, remote or host memory. -/
  | ld (d : BitVec 5) (a : BitVec 5) (s : BitVec 2) (i : BitVec 13)
  /-- ST (R362): Stores a scalar to device, remote or host memory. -/
  | st (d : BitVec 5) (a : BitVec 5) (s : BitVec 2) (i : BitVec 13)
  /-- LQR (R364): Loads a 256-byte row, decoded through a format window if named, into a reserved LQ entry. -/
  | lqr (a : BitVec 5) (l : BitVec 1) (q : BitVec 2)
  /-- LQG (R365): Gathers strided elements into a row of an LQ. -/
  | lqg (a : BitVec 5) (b : BitVec 5) (l : BitVec 1) (q : BitVec 2) (s : BitVec 2)
  /-- SQW (R366): Pops an SQ head and writes it as a row, encoding through a window if named. -/
  | sqw (a : BitVec 5) (l : BitVec 1) (q : BitVec 1)
  /-- SQS (R367): Pops an SQ head and scatters its elements at a stride. -/
  | sqs (a : BitVec 5) (b : BitVec 5) (l : BitVec 1) (q : BitVec 1) (s : BitVec 2)
  /-- AMOADD (R369): Atomic add at the owner, returning the old value. -/
  | amoadd (d : BitVec 5) (a : BitVec 5) (b : BitVec 5) (s : BitVec 1)
  /-- AMOAND (R369): Atomic AND at the owner. -/
  | amoand (d : BitVec 5) (a : BitVec 5) (b : BitVec 5) (s : BitVec 1)
  /-- AMOOR (R369): Atomic OR at the owner. -/
  | amoor (d : BitVec 5) (a : BitVec 5) (b : BitVec 5) (s : BitVec 1)
  /-- AMOXOR (R369): Atomic XOR at the owner. -/
  | amoxor (d : BitVec 5) (a : BitVec 5) (b : BitVec 5) (s : BitVec 1)
  /-- AMOMIN (R369): Atomic signed minimum at the owner. -/
  | amomin (d : BitVec 5) (a : BitVec 5) (b : BitVec 5) (s : BitVec 1)
  /-- AMOMAX (R369): Atomic signed maximum at the owner. -/
  | amomax (d : BitVec 5) (a : BitVec 5) (b : BitVec 5) (s : BitVec 1)
  /-- AMOMINU (R369): Atomic unsigned minimum at the owner. -/
  | amominu (d : BitVec 5) (a : BitVec 5) (b : BitVec 5) (s : BitVec 1)
  /-- AMOMAXU (R369): Atomic unsigned maximum at the owner. -/
  | amomaxu (d : BitVec 5) (a : BitVec 5) (b : BitVec 5) (s : BitVec 1)
  /-- AMOSWP (R369): Atomic swap at the owner. -/
  | amoswp (d : BitVec 5) (a : BitVec 5) (b : BitVec 5) (s : BitVec 1)
  /-- AMOCAS (R369): Atomic compare-and-swap against d at the owner. -/
  | amocas (d : BitVec 5) (a : BitVec 5) (b : BitVec 5) (s : BitVec 1)
  /-- AMOFADD (R369): Atomic floating-point add rounded with RNE at the owner. -/
  | amofadd (d : BitVec 5) (a : BitVec 5) (b : BitVec 5) (s : BitVec 1)
  /-- FENCE (R129): Acts as ACQ and REL together and orders later loads after earlier stores' acknowledgements. -/
  | fence (s : BitVec 3)
  /-- ACQ (R129): Holds later accesses until earlier loads have performed and invalidates the L1 at wide scope. -/
  | acq (s : BitVec 3)
  /-- REL (R129): Holds later stores, atomics and engine commands until earlier accesses have performed and been acknowledged. -/
  | rel (s : BitVec 3)
  /-- TCLR (R374): Empties the taint set of a register or tile. -/
  | tclr (d : BitVec 5) (t : BitVec 1)
  /-- TMRG (R374): Unites the taint of a into d. -/
  | tmrg (d : BitVec 5) (a : BitVec 5) (t : BitVec 1)
  /-- TQRY (R374): Writes d with the encoded taint set of a. -/
  | tqry (d : BitVec 5) (a : BitVec 5) (t : BitVec 1)
  /-- QENQ (R377): Enqueues an 8-byte or row entry on a slice queue and returns a status. -/
  | qenq (d : BitVec 5) (a : BitVec 5) (b : BitVec 5) (q : BitVec 1) (r : BitVec 1)
  /-- QDEQ (R378): Dequeues an entry from a slice queue into a register or LQ and returns a status. -/
  | qdeq (d : BitVec 5) (a : BitVec 5) (b : BitVec 5) (q : BitVec 2) (r : BitVec 1)
  /-- QWAIT (R102): Sleeps in the slice's waiter table until the queue is non-empty. -/
  | qwait (a : BitVec 5)
  /-- QSTAT (R379): Reads the queue's state at one moment. -/
  | qstat (d : BitVec 5) (a : BitVec 5)
  /-- QINIT (R379): Resets a queue's HEAD and TAIL to zero at the slice. -/
  | qinit (a : BitVec 5)
  /-- CHSEND (R381): Sends a message from the local store on a dataflow channel once a slot is free. -/
  | chsend (a : BitVec 5) (c : BitVec 4)
  /-- CHRECV (R382): Frees the previous slot and waits for the next whole message, returning its address. -/
  | chrecv (d : BitVec 5) (c : BitVec 4)
  /-- CHPOLL (R383): Returns the free-slot or waiting-message count without waiting. -/
  | chpoll (d : BitVec 5) (c : BitVec 4)
  /-- SAADD (R163): Adds a 64-element row into a stream-accumulator vector and updates its sum of squares. -/
  | saadd (r : BitVec 7) (p : BitVec 2) (h : BitVec 5) (q : BitVec 1) (f : BitVec 1) (o : BitVec 5)
  /-- SANRM (R167): Reads a row of a vector normalised by a snapshot slot into an LQ entry. -/
  | sanrm (f : BitVec 1) (s : BitVec 1) (k : BitVec 2) (p : BitVec 2) (h : BitVec 5) (q : BitVec 1) (o : BitVec 5)
  /-- SACLR (R173): Clears a vector and its header and raises its generation. -/
  | saclr (p : BitVec 2) (h : BitVec 5) (q : BitVec 1)
  /-- SAFENCE (R171): Waits for earlier adds, acquires, optionally resquares and captures S into a slot. -/
  | safence (e : BitVec 1) (k : BitVec 1) (p : BitVec 2) (h : BitVec 5) (q : BitVec 1)
  /-- SAEVICT (R174): Evicts a resident vector to its backing area in the named format. -/
  | saevict (f : BitVec 2) (p : BitVec 2) (h : BitVec 5) (q : BitVec 1)
  /-- SALOAD (R176): Reloads an evicted vector. -/
  | saload (p : BitVec 2) (h : BitVec 5) (q : BitVec 1)
  /-- SAGAIN (R168): Sets the vector's gain address. -/
  | sagain (p : BitVec 2) (h : BitVec 5) (q : BitVec 1) (a : BitVec 5)
  /-- SASQ (R170): Reads the vector's current sum of squares into a scalar. -/
  | sasq (d : BitVec 5) (p : BitVec 2) (h : BitVec 5) (q : BitVec 1)
  /-- LMZERO (R69): Zeroes a local-store range inside its layer as an engine command. -/
  | lmzero (a : BitVec 5) (c : BitVec 5) (t : BitVec 3)
  /-- LMCOPY (R69): Copies a local-store range within its layer as an engine command. -/
  | lmcopy (a : BitVec 5) (b : BitVec 5) (c : BitVec 5) (t : BitVec 3)
  /-- LMCMP (R385): Compares two local-store ranges and writes the first difference. -/
  | lmcmp (a : BitVec 5) (b : BitVec 5) (c : BitVec 5) (t : BitVec 3)
  /-- LMFENCE (R70): Orders in-layer operations against the core's ordinary local-store accesses. -/
  | lmfence
  /-- MCRD (R388): Reads device memory once and delivers copies to the masked cores of a 2 by 2 block. -/
  | mcrd (a : BitVec 5) (b : BitVec 5) (c : BitVec 5) (t : BitVec 3)
  /-- REDSEND (R389): Contributes local-store elements to a reduction tree. -/
  | redsend (a : BitVec 5) (b : BitVec 5) (t : BitVec 3) (n : BitVec 2) (o : BitVec 2)
  /-- REDWAIT (R390): At the root, waits for a reduction's result and writes it to the local store. -/
  | redwait (a : BitVec 5) (b : BitVec 5) (n : BitVec 2)
  /-- XSEND (R391): Sends a message in scheduled exchange slots of a class. -/
  | xsend (a : BitVec 5) (b : BitVec 5) (c : BitVec 5) (t : BitVec 3) (k : BitVec 4)
  /-- XRECV (R392): Returns the bytes of a class that have arrived whole. -/
  | xrecv (d : BitVec 5) (k : BitVec 4)
  /-- BAR (R440): Enters WAIT at the barrier of a named level. -/
  | bar (n : BitVec 3)
  /-- BAR_DOMAIN (R440): Enters WAIT at the barrier of the task's superstep domain level. -/
  | barDomain
  /-- SSTEP (R202): Moves the task from COMPUTE to EXCHANGE, starting its exchange-buffer entries. -/
  | sstep
  /-- TLWAIT (R149): Waits until a timeline counter reaches n. -/
  | tlwait (b : BitVec 5) (t : BitVec 3) (s : BitVec 3)
  /-- FESET (R441): Releases, then sets a task's tile-buffer full bit. -/
  | feset (a : BitVec 5) (i : BitVec 2)
  /-- FECLR (R441): Releases, then clears a task's tile-buffer full bit. -/
  | feclr (a : BitVec 5) (i : BitVec 2)
  /-- FEWAIT (R441): Waits for the task's own bit to equal v, optionally inverting it, then acquires. -/
  | fewait (c : BitVec 1) (v : BitVec 1) (i : BitVec 2)
  /-- TLADV (R442): Issues a command that performs after all earlier engine commands and returns its number. -/
  | tladv (d : BitVec 5) (t : BitVec 3)
  /-- CPY (R443): Copies bytes between local store and memory or memory and memory. -/
  | cpy (a : BitVec 5) (b : BitVec 5) (c : BitVec 5) (t : BitVec 3) (d : BitVec 2) (p : BitVec 2)
  /-- CPY2D (R443): Copies rows with separate source and destination strides. -/
  | cpy2d (a : BitVec 5) (b : BitVec 5) (c : BitVec 4) (t : BitVec 3) (d : BitVec 2) (p : BitVec 2)
  /-- CPYGA (R443): Gathers elements from a table of memory addresses into the local store. -/
  | cpyga (a : BitVec 5) (b : BitVec 5) (c : BitVec 5) (t : BitVec 3) (p : BitVec 2)
  /-- CPYSC (R443): Scatters local-store elements to a table of memory addresses. -/
  | cpysc (a : BitVec 5) (b : BitVec 5) (c : BitVec 5) (t : BitVec 3) (p : BitVec 2)
  /-- CPYFI (R443): Appends bytes to an operand FIFO, waiting for room. -/
  | cpyfi (k : BitVec 2) (b : BitVec 5) (c : BitVec 5) (t : BitVec 3) (d : BitVec 1) (p : BitVec 2)
  /-- CPYCV (R443): Decodes or encodes rows between packed memory and raw local store through a format register. -/
  | cpycv (a : BitVec 5) (b : BitVec 5) (c : BitVec 5) (t : BitVec 3) (d : BitVec 1) (p : BitVec 2)
  /-- PREF (R443): Hints that lines be fetched into their home slices. -/
  | pref (b : BitVec 5) (c : BitVec 5) (p : BitVec 2)
  /-- LAUNCH (R445): Releases, then appends a launch record to a launch queue and returns a status. -/
  | launch (a : BitVec 5) (b : BitVec 5) (c : BitVec 5)
  /-- LDLOC (R394): Privileged local-store load. -/
  | ldloc (d : BitVec 5) (a : BitVec 5) (s : BitVec 2)
  /-- STLOC (R394): Privileged local-store store. -/
  | stloc (d : BitVec 5) (a : BitVec 5) (s : BitVec 2)
  /-- LDCTL (R394): Reads a dword of slice control space. -/
  | ldctl (d : BitVec 5) (a : BitVec 5)
  /-- STCTL (R394): Writes a slice descriptor dword, applied or refused by the slice as one step. -/
  | stctl (d : BitVec 5) (a : BitVec 5)
  /-- LDVIR (R394): Privileged device-virtual load in a named context. -/
  | ldvir (d : BitVec 5) (a : BitVec 5) (b : BitVec 5) (s : BitVec 2) (o : BitVec 1)
  /-- STVIR (R394): Privileged device-virtual store in a named context. -/
  | stvir (d : BitVec 5) (a : BitVec 5) (b : BitVec 5) (s : BitVec 2) (o : BitVec 1)
  /-- LDPHY (R394): Physical load at the home slice. -/
  | ldphy (d : BitVec 5) (a : BitVec 5) (s : BitVec 2)
  /-- STPHY (R394): Physical store at the home slice. -/
  | stphy (d : BitVec 5) (a : BitVec 5) (s : BitVec 2)
  /-- LDREM (R394): Privileged physical load on a remote device. -/
  | ldrem (d : BitVec 5) (a : BitVec 5) (b : BitVec 5) (s : BitVec 2)
  /-- STREM (R394): Privileged physical store on a remote device. -/
  | strem (d : BitVec 5) (a : BitVec 5) (b : BitVec 5) (s : BitVec 2)
  /-- LDHST (R394): Privileged host load without aperture check. -/
  | ldhst (d : BitVec 5) (a : BitVec 5) (s : BitVec 2)
  /-- STHST (R394): Privileged host store without aperture check. -/
  | sthst (d : BitVec 5) (a : BitVec 5) (s : BitVec 2)
  /-- VADD (R403): Per-lane FP32 addition. -/
  | vadd (d : BitVec 7) (a : BitVec 7) (b : BitVec 7)
  /-- VSUB (R403): Per-lane FP32 subtraction. -/
  | vsub (d : BitVec 7) (a : BitVec 7) (b : BitVec 7)
  /-- VMUL (R403): Per-lane FP32 multiplication. -/
  | vmul (d : BitVec 7) (a : BitVec 7) (b : BitVec 7)
  /-- VFMA (R403): Per-lane fused a times b plus d. -/
  | vfma (d : BitVec 7) (a : BitVec 7) (b : BitVec 7)
  /-- VFMS (R403): Per-lane fused a times b minus d. -/
  | vfms (d : BitVec 7) (a : BitVec 7) (b : BitVec 7)
  /-- VFNMA (R403): Per-lane fused d minus a times b. -/
  | vfnma (d : BitVec 7) (a : BitVec 7) (b : BitVec 7)
  /-- VMIN (R403): Per-lane minimumNumber. -/
  | vmin (d : BitVec 7) (a : BitVec 7) (b : BitVec 7)
  /-- VMAX (R403): Per-lane maximumNumber. -/
  | vmax (d : BitVec 7) (a : BitVec 7) (b : BitVec 7)
  /-- VABS (R403): Clears each lane's sign bit. -/
  | vabs (d : BitVec 7) (a : BitVec 7)
  /-- VNEG (R403): Inverts each lane's sign bit. -/
  | vneg (d : BitVec 7) (a : BitVec 7)
  /-- VCPS (R403): Copies b's sign bit onto a in each lane. -/
  | vcps (d : BitVec 7) (a : BitVec 7) (b : BitVec 7)
  /-- VDIV (R404): Per-lane correctly rounded division. -/
  | vdiv (d : BitVec 7) (a : BitVec 7) (b : BitVec 7)
  /-- VSQRT (R404): Per-lane square root. -/
  | vsqrt (d : BitVec 7) (a : BitVec 7)
  /-- VRSQ (R404): Per-lane reciprocal square root. -/
  | vrsq (d : BitVec 7) (a : BitVec 7)
  /-- VRCP (R404): Per-lane reciprocal. -/
  | vrcp (d : BitVec 7) (a : BitVec 7)
  /-- VEXP2 (R404): Per-lane power of two. -/
  | vexp2 (d : BitVec 7) (a : BitVec 7)
  /-- VLOG2 (R404): Per-lane base-2 logarithm. -/
  | vlog2 (d : BitVec 7) (a : BitVec 7)
  /-- VTANH (R404): Per-lane hyperbolic tangent. -/
  | vtanh (d : BitVec 7) (a : BitVec 7)
  /-- VSIG (R404): Per-lane logistic sigmoid. -/
  | vsig (d : BitVec 7) (a : BitVec 7)
  /-- VIADD (R405): Per-lane 32-bit integer addition. -/
  | viadd (d : BitVec 7) (a : BitVec 7) (b : BitVec 7)
  /-- VISUB (R405): Per-lane 32-bit integer subtraction. -/
  | visub (d : BitVec 7) (a : BitVec 7) (b : BitVec 7)
  /-- VIMUL (R405): Per-lane low 32 bits of the product. -/
  | vimul (d : BitVec 7) (a : BitVec 7) (b : BitVec 7)
  /-- VIMULH (R405): Per-lane high 32 bits of the signed or unsigned product. -/
  | vimulh (d : BitVec 7) (a : BitVec 7) (b : BitVec 7) (u : BitVec 1)
  /-- VIMIN (R405): Per-lane signed or unsigned minimum. -/
  | vimin (d : BitVec 7) (a : BitVec 7) (b : BitVec 7) (u : BitVec 1)
  /-- VIMAX (R405): Per-lane signed or unsigned maximum. -/
  | vimax (d : BitVec 7) (a : BitVec 7) (b : BitVec 7) (u : BitVec 1)
  /-- VIABS (R405): Per-lane signed absolute value. -/
  | viabs (d : BitVec 7) (a : BitVec 7)
  /-- VAND (R406): Per-lane AND. -/
  | vand (d : BitVec 7) (a : BitVec 7) (b : BitVec 7)
  /-- VOR (R406): Per-lane OR. -/
  | vor (d : BitVec 7) (a : BitVec 7) (b : BitVec 7)
  /-- VXOR (R406): Per-lane XOR. -/
  | vxor (d : BitVec 7) (a : BitVec 7) (b : BitVec 7)
  /-- VANDN (R406): Per-lane AND with complement. -/
  | vandn (d : BitVec 7) (a : BitVec 7) (b : BitVec 7)
  /-- VSHL (R406): Per-lane left shift. -/
  | vshl (d : BitVec 7) (a : BitVec 7) (b : BitVec 7)
  /-- VSHR (R406): Per-lane logical right shift. -/
  | vshr (d : BitVec 7) (a : BitVec 7) (b : BitVec 7)
  /-- VSRA (R406): Per-lane arithmetic right shift. -/
  | vsra (d : BitVec 7) (a : BitVec 7) (b : BitVec 7)
  /-- VPOPC (R406): Per-lane population count. -/
  | vpopc (d : BitVec 7) (a : BitVec 7)
  /-- VCLMUL (R406): Carry-less products of even lanes into lane pairs. -/
  | vclmul (d : BitVec 7) (a : BitVec 7) (b : BitVec 7)
  /-- VCMP_F32_EQ (R407): Per-lane FP32 equality mask. -/
  | vcmpF32Eq (d : BitVec 7) (a : BitVec 7) (b : BitVec 7)
  /-- VCMP_F32_LT (R407): Per-lane FP32 less-than mask. -/
  | vcmpF32Lt (d : BitVec 7) (a : BitVec 7) (b : BitVec 7)
  /-- VCMP_F32_LE (R407): Per-lane FP32 less-or-equal mask. -/
  | vcmpF32Le (d : BitVec 7) (a : BitVec 7) (b : BitVec 7)
  /-- VCMP_F32_UN (R407): Per-lane FP32 unordered mask. -/
  | vcmpF32Un (d : BitVec 7) (a : BitVec 7) (b : BitVec 7)
  /-- VCMP_I32_EQ (R407): Per-lane integer equality mask. -/
  | vcmpI32Eq (d : BitVec 7) (a : BitVec 7) (b : BitVec 7)
  /-- VCMP_I32_LT (R407): Per-lane signed less-than mask. -/
  | vcmpI32Lt (d : BitVec 7) (a : BitVec 7) (b : BitVec 7)
  /-- VCMP_I32_LE (R407): Per-lane signed less-or-equal mask. -/
  | vcmpI32Le (d : BitVec 7) (a : BitVec 7) (b : BitVec 7)
  /-- VCMP_N32_LT (R407): Per-lane unsigned less-than mask. -/
  | vcmpN32Lt (d : BitVec 7) (a : BitVec 7) (b : BitVec 7)
  /-- VCMP_N32_LE (R407): Per-lane unsigned less-or-equal mask. -/
  | vcmpN32Le (d : BitVec 7) (a : BitVec 7) (b : BitVec 7)
  /-- VSEL (R408): Selects lanes of a or b by the mask in d. -/
  | vsel (d : BitVec 7) (a : BitVec 7) (b : BitVec 7)
  /-- VMSK_EXPAND (R409): Expands scalar bits into a lane mask row. -/
  | vmskExpand (d : BitVec 7) (a : BitVec 5)
  /-- VMSK_PACK (R409): Packs nonzero lanes of a row into scalar bits. -/
  | vmskPack (d : BitVec 5) (a : BitVec 7)
  /-- VCVT (R410): Converts lanes between FP32, BF16, FP16 and 32-bit integers. -/
  | vcvt (d : BitVec 7) (a : BitVec 7) (h : BitVec 1) (v : BitVec 3)
  /-- VQNT (R411): Quantises a row into packed narrow blocks inside d. -/
  | vqnt (d : BitVec 7) (a : BitVec 7) (o : BitVec 4) (k : BitVec 3)
  /-- VDQNT (R412): Decodes packed narrow blocks of a into a row. -/
  | vdqnt (d : BitVec 7) (a : BitVec 7) (o : BitVec 4) (k : BitVec 3)
  /-- VAMAX (R413): Writes each block's largest magnitude into its lanes. -/
  | vamax (d : BitVec 7) (a : BitVec 7) (b : BitVec 2)
  /-- VSHUF (R414): Permutes lanes of a by an index row. -/
  | vshuf (d : BitVec 7) (a : BitVec 7) (b : BitVec 7)
  /-- VROT (R414): Rotates lanes of a by k. -/
  | vrot (d : BitVec 7) (a : BitVec 7) (k : BitVec 6)
  /-- VREDSUM (R415): Tree sum of all lanes into every lane. -/
  | vredsum (d : BitVec 7) (a : BitVec 7) (y : BitVec 2)
  /-- VREDMAX (R415): Greatest lane into every lane. -/
  | vredmax (d : BitVec 7) (a : BitVec 7) (y : BitVec 2)
  /-- VREDMIN (R415): Least lane into every lane. -/
  | vredmin (d : BitVec 7) (a : BitVec 7) (y : BitVec 2)
  /-- VSCAN (R415): Sequential prefix sum of lanes. -/
  | vscan (d : BitVec 7) (a : BitVec 7) (y : BitVec 2)
  /-- VXPOSE (R416): Transposes each 16 by 16 block of a whole tile. -/
  | vxpose (d : BitVec 3) (a : BitVec 3)
  /-- VCPY (R417): Copies a row with its side bit. -/
  | vcpy (d : BitVec 7) (a : BitVec 7)
  /-- VZERO (R417): Zeroes a row. -/
  | vzero (d : BitVec 7)
  /-- VBCAST (R417): Broadcasts a scalar's low bits to every element. -/
  | vbcast (d : BitVec 7) (a : BitVec 5) (w : BitVec 2)
  /-- VEXT (R417): Extracts one lane into a scalar. -/
  | vext (d : BitVec 5) (a : BitVec 7) (i : BitVec 6)
  /-- VINS (R417): Inserts a scalar into one lane. -/
  | vins (d : BitVec 7) (a : BitVec 5) (i : BitVec 6)
  /-- VIOTA (R417): Writes an arithmetic sequence into the lanes. -/
  | viota (d : BitVec 7) (a : BitVec 5) (s : BitVec 7)
  /-- VSQ (R418): Pushes a copy of a row into an SQ. -/
  | vsq (k : BitVec 1) (a : BitVec 7)
  /-- VADD_Q (R397): Queue-sourced VADD. -/
  | vaddQ (d : BitVec 7) (a : BitVec 7) (q : BitVec 5) (w : BitVec 1)
  /-- VSUB_Q (R397): Queue-sourced VSUB. -/
  | vsubQ (d : BitVec 7) (a : BitVec 7) (q : BitVec 5) (w : BitVec 1)
  /-- VMUL_Q (R397): Queue-sourced VMUL. -/
  | vmulQ (d : BitVec 7) (a : BitVec 7) (q : BitVec 5) (w : BitVec 1)
  /-- VFMA_Q (R397): Queue-sourced VFMA. -/
  | vfmaQ (d : BitVec 7) (a : BitVec 7) (q : BitVec 5)
  /-- VFMS_Q (R397): Queue-sourced VFMS. -/
  | vfmsQ (d : BitVec 7) (a : BitVec 7) (q : BitVec 5)
  /-- VFNMA_Q (R397): Queue-sourced VFNMA. -/
  | vfnmaQ (d : BitVec 7) (a : BitVec 7) (q : BitVec 5)
  /-- VMIN_Q (R397): Queue-sourced VMIN. -/
  | vminQ (d : BitVec 7) (a : BitVec 7) (q : BitVec 5) (w : BitVec 1)
  /-- VMAX_Q (R397): Queue-sourced VMAX. -/
  | vmaxQ (d : BitVec 7) (a : BitVec 7) (q : BitVec 5) (w : BitVec 1)
  /-- VABS_Q (R397): Queue-sourced VABS. -/
  | vabsQ (d : BitVec 7) (q : BitVec 5)
  /-- VNEG_Q (R397): Queue-sourced VNEG. -/
  | vnegQ (d : BitVec 7) (q : BitVec 5)
  /-- VCPS_Q (R397): Queue-sourced VCPS. -/
  | vcpsQ (d : BitVec 7) (a : BitVec 7) (q : BitVec 5) (w : BitVec 1)
  /-- VIADD_Q (R397): Queue-sourced VIADD. -/
  | viaddQ (d : BitVec 7) (a : BitVec 7) (q : BitVec 5) (w : BitVec 1)
  /-- VISUB_Q (R397): Queue-sourced VISUB. -/
  | visubQ (d : BitVec 7) (a : BitVec 7) (q : BitVec 5) (w : BitVec 1)
  /-- VIMUL_Q (R397): Queue-sourced VIMUL. -/
  | vimulQ (d : BitVec 7) (a : BitVec 7) (q : BitVec 5) (w : BitVec 1)
  /-- VIMULH_Q (R397): Queue-sourced VIMULH. -/
  | vimulhQ (d : BitVec 7) (a : BitVec 7) (q : BitVec 5) (w : BitVec 1) (u : BitVec 1)
  /-- VIMIN_Q (R397): Queue-sourced VIMIN. -/
  | viminQ (d : BitVec 7) (a : BitVec 7) (q : BitVec 5) (w : BitVec 1) (u : BitVec 1)
  /-- VIMAX_Q (R397): Queue-sourced VIMAX. -/
  | vimaxQ (d : BitVec 7) (a : BitVec 7) (q : BitVec 5) (w : BitVec 1) (u : BitVec 1)
  /-- VIABS_Q (R397): Queue-sourced VIABS. -/
  | viabsQ (d : BitVec 7) (q : BitVec 5)
  /-- VAND_Q (R397): Queue-sourced VAND. -/
  | vandQ (d : BitVec 7) (a : BitVec 7) (q : BitVec 5) (w : BitVec 1)
  /-- VOR_Q (R397): Queue-sourced VOR. -/
  | vorQ (d : BitVec 7) (a : BitVec 7) (q : BitVec 5) (w : BitVec 1)
  /-- VXOR_Q (R397): Queue-sourced VXOR. -/
  | vxorQ (d : BitVec 7) (a : BitVec 7) (q : BitVec 5) (w : BitVec 1)
  /-- VANDN_Q (R397): Queue-sourced VANDN. -/
  | vandnQ (d : BitVec 7) (a : BitVec 7) (q : BitVec 5) (w : BitVec 1)
  /-- VSHL_Q (R397): Queue-sourced VSHL. -/
  | vshlQ (d : BitVec 7) (a : BitVec 7) (q : BitVec 5) (w : BitVec 1)
  /-- VSHR_Q (R397): Queue-sourced VSHR. -/
  | vshrQ (d : BitVec 7) (a : BitVec 7) (q : BitVec 5) (w : BitVec 1)
  /-- VSRA_Q (R397): Queue-sourced VSRA. -/
  | vsraQ (d : BitVec 7) (a : BitVec 7) (q : BitVec 5) (w : BitVec 1)
  /-- VPOPC_Q (R397): Queue-sourced VPOPC. -/
  | vpopcQ (d : BitVec 7) (q : BitVec 5)
  /-- VCLMUL_Q (R397): Queue-sourced VCLMUL. -/
  | vclmulQ (d : BitVec 7) (a : BitVec 7) (q : BitVec 5) (w : BitVec 1)
  /-- VCVT_Q (R397): Queue-sourced VCVT. -/
  | vcvtQ (d : BitVec 7) (h : BitVec 1) (v : BitVec 3) (q : BitVec 5)
  /-- VQNT_Q (R397): Queue-sourced VQNT. -/
  | vqntQ (d : BitVec 7) (o : BitVec 4) (k : BitVec 3) (q : BitVec 5)
  /-- VDQNT_Q (R397): Queue-sourced VDQNT. -/
  | vdqntQ (d : BitVec 7) (o : BitVec 4) (k : BitVec 3) (q : BitVec 5)
  /-- VAMAX_Q (R397): Queue-sourced VAMAX. -/
  | vamaxQ (d : BitVec 7) (b : BitVec 2) (q : BitVec 5)
  /-- MMA (R430): Gang matrix multiply-accumulate of FIFO operands into an accumulator. -/
  | mma (c : BitVec 2) (s : BitVec 3) (a : BitVec 2) (b : BitVec 2) (z : BitVec 1) (m : BitVec 3)
  /-- MMA64 (R430): Gang FP64 matrix multiply-accumulate into an accumulator pair. -/
  | mma64 (c : BitVec 1) (s : BitVec 3) (a : BitVec 2) (b : BitVec 2) (z : BitVec 1) (m : BitVec 3)
  /-- MMAC (R430): Gang complex matrix multiply-accumulate into an accumulator pair. -/
  | mmac (c : BitVec 1) (s : BitVec 3) (a : BitVec 2) (b : BitVec 2) (z : BitVec 1) (m : BitVec 3)
  /-- MMAS (R430): Gang 2:4 sparse matrix multiply-accumulate using a metadata set. -/
  | mmas (c : BitVec 2) (s : BitVec 3) (a : BitVec 2) (b : BitVec 2) (e : BitVec 2) (z : BitVec 1) (m : BitVec 3)
  /-- GANG (R428): Sets the core's gang armed flag. -/
  | gang
  /-- MSHP (R422): Writes a shape record from two scalars after checking it. -/
  | mshp (k : BitVec 3) (a : BitVec 5) (b : BitVec 5)
  /-- MZERO (R431): Zeroes the core's rows of an accumulator. -/
  | mzero (c : BitVec 2)
  /-- MLDA (R431): Loads the core's accumulator rows from a tile. -/
  | mlda (c : BitVec 2) (t : BitVec 3)
  /-- MSTA (R431): Stores the core's accumulator rows to a tile. -/
  | msta (c : BitVec 2) (t : BitVec 3)
  /-- MEPI (R435): Engine command that applies bias, activation and conversion to accumulator rows and stages them for the local store. -/
  | mepi (c : BitVec 2) (s : BitVec 3) (a : BitVec 5) (t : BitVec 3)
  /-- MDLD (R432): Loads and validates a sparsity metadata set from a tile row. -/
  | mdld (e : BitVec 2) (r : BitVec 7)
  /-- MFST (R427): Reads an operand FIFO's state, optionally flushing it. -/
  | mfst (f : BitVec 2) (l : BitVec 1) (d : BitVec 5)
  /-- QPSET (R448): Binds a solver problem block and resets its status. -/
  | qpset (a : BitVec 5)
  /-- QPFAC (R452): Forms and factors the KKT matrix of the bound block. -/
  | qpfac
  /-- QPITER (R453): Runs ADMM iterations from the block's state until a status is reached. -/
  | qpiter
  /-- QPSHIFT (R454): Shifts the block's x, z and y by stages for a warm start. -/
  | qpshift (a : BitVec 5) (b : BitVec 5)
  /-- QPRES (R455): Writes the block's residuals and tolerances. -/
  | qpres
  /-- QPSTAT (R455): Reads the block's status, iteration count and factor flag. -/
  | qpstat (c : BitVec 5)
  /-- FCHOL (R450): Cholesky-factors an n by n matrix in place. -/
  | fchol (a : BitVec 5) (b : BitVec 5) (c : BitVec 5)
  /-- FTRS (R451): Triangular solve with a factor, forward, backward or both. -/
  | ftrs (a : BitVec 5) (b : BitVec 5) (c : BitVec 5)
  /-- TRAP (R456): Raises SYSCALL with a 15-bit code. -/
  | trap (m : BitVec 1) (x : BitVec 15)
  /-- BKPT (R456): Raises BREAK with a 15-bit code. -/
  | bkpt (m : BitVec 1) (x : BitVec 15)
  /-- ERET (R272): Returns from a trap to the lower privilege level. -/
  | eret (m : BitVec 1)
  /-- MFC (R457): Reads a control register into a scalar. -/
  | mfc (m : BitVec 1) (d : BitVec 5) (c : BitVec 10)
  /-- MTC (R457): Writes a control register from a scalar. -/
  | mtc (m : BitVec 1) (a : BitVec 5) (c : BitVec 10)
  /-- PHINT (R285): A pre-emption point supplying a liveness word. -/
  | phint (m : BitVec 1) (a : BitVec 5)
  /-- YIELD (R456): Acts as a full-save PHINT when a pre-emption request is pending. -/
  | yield (m : BitVec 1)
  /-- WFE (R459): Waits for the core's event flag, clears it and acquires. -/
  | wfe (m : BitVec 1)
  /-- SEV (R459): Releases, then sets the event flag of a core or of all four cores of the square. -/
  | sev (m : BitVec 1) (a : BitVec 5)
  /-- HALT (R460): Waits for older work, then ends the task without a trap. -/
  | halt (m : BitVec 1)
  /-- TLBI (R461): Sends a range invalidation for an ASID and retires when it is complete. -/
  | tlbi (m : BitVec 1) (d : BitVec 5) (a : BitVec 5) (b : BitVec 5)
  /-- LEASE (R461): Revokes a range from the leases of every task of a context. -/
  | lease (m : BitVec 1) (d : BitVec 5) (a : BitVec 5) (b : BitVec 5)
  /-- MCREAD (R462): Reads a machine-check record dword or an error-block register. -/
  | mcread (m : BitVec 1) (d : BitVec 5) (a : BitVec 5)
  /-- SCMARK (R462): Appends or checks a KIND 9 scoresheet entry. -/
  | scmark (m : BitVec 1) (a : BitVec 5)
  /-- CLKRD (R456): Reads the game clock into a scalar. -/
  | clkrd (m : BitVec 1) (d : BitVec 5)
  /-- SA_SLICE_APPLY (R475): The home slice checks and applies an SA operation and returns its verdict. -/
  | saSliceApply (core : Nat)
  /-- SA_EVICTION_RETRY (R175): Retries a failed eviction every 2^20 cycles. -/
  | saEvictionRetry (slice : Nat)
  /-- GANG_START (R428): Starts a gang operation once all four cores have issued it and tempo tokens are available. -/
  | gangStart (sq : Nat)
  /-- GANG_RESIDUE_CHECK (R434): The array's trailing residue checks complete, releasing staged MEPI rows or replaying or raising a machine check. -/
  | gangResidueCheck (sq failed : Nat) (row : BitVec 6) (expct obs : BitVec 3)
  /-- FIFO_TIMEOUT (R426): A gang operation short of FIFO bytes for 2^16 cycles with no fill outstanding traps FIFO. -/
  | fifoTimeout (sq : Nat)
  /-- INSTRUCTION_FORWARD (R187): A follower receives a leader's instruction LAG cycles after issue and executes it. -/
  | instructionForward (core : Nat)
  /-- COLD_RESET (R266): Boots the package: verifies firmware, tests and carves buses, zeroes memory and trains links. -/
  | coldReset (ecdsaOk lmsOk : Bool) (version fused : Nat) (selfTestOk memOk : Bool) (failedBuses : List Nat)
  /-- ATTESTATION_REPORT (R265): Produces a dual-signed attestation report for a host nonce. -/
  | attestationReport (nonce : Nat)
  /-- CHECKPOINT (R263): Writes local stores, slices and HBM to the checkpoint tier with GMAC tags. -/
  | checkpoint (done : Bool)
  /-- CHECKPOINT_RESTORE (R263): Restores device memory from the checkpoint tier, checking every tag. -/
  | checkpointRestore (blocks : List (Nat × List Byte × BitVec 128)) (broken : Option Nat)
  /-- RSIG (R474): A host write restarts every lease walk waiting on a residency request of the context. -/
  | rsig (v : Dword)
  /-- LNQCTL (R217): A write of a launch queue's control register, including TAIL, which appends records or is refused. -/
  | lnqctl (q : Nat) (v : Dword)
  /-- LPWR (R57): A write of the layer power register begins or records a power transition. -/
  | lpwr (core : Nat) (v : Dword)
  /-- LAYER_POWER_DOWN (R57): Once accepted accesses have drained, the layer powers down and loses its data. -/
  | layerPowerDown (core : Nat) (layer : Bool)
  /-- LAYER_TRANSITION_DONE (R57): A power transition ends; a powered-up layer is zeroed and accepts accesses, and a recorded further transition starts. -/
  | layerTransitionDone (core : Nat) (layer : Bool)
  /-- XSTAT (R249): An MTC of any value clears MISS and SLOTMISS. -/
  | xstat (core : Nat)
  /-- ECNT (R111): A write of any value clears both error counters. -/
  | ecnt (level : Nat)
  /-- ELOG (R112): A write to any log register clears all eight. -/
  | elog (level : Nat)
  /-- ESCR (R110): A write sets scrub control, raising PERIOD to its minimum. -/
  | escr (level : Nat) (v : Dword)
  /-- CTMP (R229): The host writes the tempo refill rate, limited to the thermal ceiling. -/
  | ctmp (col : Nat) (v : Dword)
  /-- AFPCFG (R251): A write of an Afjan port's configuration, refused when out of range. -/
  | afpcfg (port : Nat) (v : Dword)
  /-- AFMW (R256): A write of the matching window and guard, refused when out of range. -/
  | afmw (v : Dword)
  /-- REGISTER_WRITE (R457): A write of a register that has no behaviour of its own. -/
  | registerWrite (cr own : Nat) (v : Dword)
  /-- BANK_DEMOTE (R74): A management command demotes a promoted bank while no task runs. -/
  | bankDemote (core bank : Nat)
  /-- FREEZE_CLEAR (R77): The host clears a column's undervolting freeze flag. -/
  | freezeClear (col : Nat)
  /-- SQUARE_WITHHOLD (R156): The management controller withholds a square, evicting its vectors and invalidating their descriptors. -/
  | squareWithhold (sq : Nat)
  /-- SCHEDULER_SELECT (R218): The scheduler selects an eligible queue head by priority and asks for its placement. -/
  | schedulerSelect (placement : List Nat)
  /-- LEASE_WALK (R33): The scheduler walks every page of a head's leases and pins them, waits or fails the launch. -/
  | leaseWalk (q : Nat)
  /-- TASK_BIND (R219): An eligible task is bound to its core and starts with task-start state. -/
  | taskBind (launch task : Nat)
  /-- REMOTE_TENSOR_FILL (R258): The base die reads a task's remote tensor into its tile buffer. -/
  | remoteTensorFill (launch task buf dev : Nat) (data : List Byte) (bad : List Nat)
  /-- PREEMPTION_REQUEST (R285): A scheduler or host request to pre-empt every task of a launch. -/
  | preemptionRequest (launch : Nat)
  /-- PREEMPTION_DEADLINE (R285): DL cycles pass without a PHINT and a full-save stop is requested. -/
  | preemptionDeadline (core : Nat)
  /-- LOOP_CONTEXT_DISCARD (R357): A deadline stop still waiting after a further PREDL cycles is taken and the level-0 sequencer context discarded. -/
  | loopContextDiscard (core : Nat)
  /-- CORE_STOP (R270): An asynchronous stop is taken at the oldest instruction that has not passed its commit point. -/
  | coreStop (core : Nat)
  /-- SAVE (R287): Once every core of the launch has stopped, the save engine writes each task's image. -/
  | save (launch : Nat)
  /-- SAVE_RESUME (R291): The host signals the mapping repaired and the save continues from the faulting block. -/
  | saveResume (launch : Nat)
  /-- RESTORE (R292): Checks every image block's tag, then loads state into the cores and resumes the launch. -/
  | restore (launch : Nat) (placement : List Nat)
  /-- REFUSAL_RETRY (R90): A refused request's retry timer expires and it is resent to its slice. -/
  | refusalRetry (core : Nat) (req : Machine.Attempt)
  /-- SLICE_FILL_DONE (R87): An HBM fill of a sector lands, answering waiting and late-joining requests. -/
  | sliceFillDone (line : Nat) (link : Machine.LinkReport)
  /-- WRITE_BACK_DONE (R89): A write-back finishes, the line ceases to be busy and reservations are served. -/
  | writeBackDone (back : Machine.WriteBack)
  /-- REHOME (R92): The placement engine moves a 2 MiB region's home slices. -/
  | rehome (region : Nat) (group : List Nat)
  /-- SCRUB (R108): The scrubber reads, corrects and writes back a word, poisoning what it cannot correct. -/
  | scrub (level own loc outcome : Nat) (syn : BitVec 8)
  /-- ERROR_WINDOW_START (R74): A bank or way's corrected-error counting window expires and restarts at zero. -/
  | errorWindowStart (level own idx : Nat)
  /-- BANK_PROMOTION_START (R75): A bank pending promotion starts DEC-TED re-encoding once its journal entries are freed. -/
  | bankPromotionStart (core bank : Nat)
  /-- BUS_REPAIR (R62): A lane declared faulty stops new transfers and, once in-flight transfers drain, is steered to a spare. -/
  | busRepair (core bus : Nat)
  /-- BUS_RETRAIN_DONE (R62): Retraining ends and the bus resumes, or the bus fails. -/
  | busRetrainDone (core bus : Nat) (ok : Bool)
  /-- TLB_FILL (R31): A unit fills a TLB entry from its context's tables. -/
  | tlbFill (kind own ctx : Nat) (va : Dword)
  /-- INVALIDATION_REQUEST (R42): A unit receives an invalidation and drops every overlapping entry of the ASID. -/
  | invalidationRequest (id unit : Nat)
  /-- INVALIDATION_ACK (R42): A unit acknowledges once every access resolved through a dropped entry has performed. -/
  | invalidationAck (id unit : Nat)
  /-- REVOCATION_REQUEST (R461): An issuing unit receives a lease revocation and acknowledges once it rejects new accesses. -/
  | revocationRequest (id unit : Nat)
  /-- ENGINE_COMMAND_PERFORM (R145): An engine command performs and its timeline counter advances over the complete prefix. -/
  | engineCommandPerform (core : Nat) (cmd : Machine.Attempt)
  /-- EXCHANGE_ENTRY_PERFORM (R203): An exchange-buffer entry performs at the start of the exchange phase. -/
  | exchangeEntryPerform (sq : Nat) (core : Machine.Attempt)
  /-- BARRIER_COMPLETE (R204): With every task in WAIT and the pending-byte counter at zero, the barrier completes. -/
  | barrierComplete (launch level inst : Nat)
  /-- TEMPO_ACCRUE (R229): Tempo tokens accrue each nanosecond at the column's rate. -/
  | tempoAccrue
  /-- THERMAL_SAMPLE (R268): The thermal controller reads coolant state every millisecond and sets the rate ceiling. -/
  | thermalSample (ceiling : BitVec 12) (inLimits : Bool) (cols : List Nat)
  /-- PROBE_ORIGINATE (R227): A queue full and blocked for 256 cycles sends a check probe. -/
  | probeOriginate (queue waitsOn : Nat)
  /-- PROBE_ARRIVE (R227): A queue receives a probe and forwards, drops or, at its origin, grants one reserve item. -/
  | probeArrive (probe : Nat) (waitsOn : Option Nat)
  /-- QUEUE_DEADLOCK (R228): A cycle with all reserves held stays blocked 2^20 cycles; contexts are stopped and QUEUE_DEADLOCK posted. -/
  | queueDeadlock (queue : Nat) (contexts : List Nat)
  /-- ROUTER_FORWARD (R235): A router takes a packet at an input and sends it on by its class's dimension order. -/
  | routerForward (msg : Nat)
  /-- MESSAGE_DELIVERY (R59): An incoming message is written into a local store, or held while its layer is off. -/
  | messageDelivery (msg : Nat)
  /-- SLOT_RETURN (R240): A slot return arrives and raises the sender's free-slot count. -/
  | slotReturn (msg : Nat)
  /-- REDUCTION_COMBINE (R242): A combine point receives an input, and when all are present combines and sends one partial. -/
  | reductionCombine (red node : Nat)
  /-- REDWAIT_TIMEOUT (R244): The root's time-out passes and it sends a flush down the tree. -/
  | redwaitTimeout (core : Nat)
  /-- FLUSH_ARRIVE (R244): A flush reaches a combine point, closing the reduction there; at the root it ends in FLAG_FALL. -/
  | flushArrive (red node : Nat)
  /-- SLOT_START (R247): An exchange slot begins; the square transmits held messages or misses the slot. -/
  | slotStart (sq : Nat)
  /-- CLOCK_DISCIPLINE (R245): Each microsecond a square disciplines its game clock from the base die. -/
  | clockDiscipline (sq : Nat) (time : Dword) (offset : Int)
  /-- PTP_SYNC (R262): An IEEE 1588 message arrives and adjusts the device's time. -/
  | ptpSync (src : Nat) (msg : Machine.PtpMessage)
  /-- MATCHING_WINDOW (R255): At a window boundary the matched circuits take effect. -/
  | matchingWindow (m : Machine.Matching)
  /-- CIRCUIT_LIT (R250): Both ends train on a circuit, and unacknowledged frames are resent. -/
  | circuitLit (port : Nat)
  /-- TOKEN_ARRIVE (R252): A reader's token reaches a writer, which absorbs it to send or passes it on. -/
  | tokenArrive (port : Nat) (token : Machine.Token) (cut : Option Nat)
  /-- TOKEN_LOSS (R253): A reader's token is absent for TLOSS ns and a new generation is emitted. -/
  | tokenLoss (port : Nat)
  /-- FRAME_RECEIVE (R254): A reader receives a frame, delivers it in sequence or discards a duplicate. -/
  | frameReceive (dev : Nat) (seqNo : BitVec 32) (crcOk : Bool) (what : Machine.Payload)
  /-- FRAME_ACK (R254): A cumulative acknowledgement frees frames from the sender's replay window. -/
  | frameAck (dev : Nat) (ack : Machine.FrameAck)
  /-- REPLAY_TIMEOUT (R254): 20 µs without an acknowledgement resends unacknowledged frames. -/
  | replayTimeout (dev : Nat)
  /-- WATCHDOG_RESET (R259): An optical microcontroller's watchdog resets it, darkening its circuit. -/
  | watchdogReset (port : Nat)
  /-- REMOTE_ACCESS (R45): A target device checks a remote access's key and translation and performs or rejects it. -/
  | remoteAccess (dev : Nat) (key : Dword) (ofs : Nat) (kind : Machine.PayloadKind) (size : Nat) (data : List Byte)
  /-- REMOTE_REJECTION (R45): A rejection returns: a load is poisoned or a store discarded, counted and posted. -/
  | remoteRejection (core acc : Nat)
  /-- HOST_ACCESS (R260): A host access through BAR2 performs at its home slice. -/
  | hostAccess (place : Machine.BarPlace) (store : Bool) (size : Nat) (data : List Byte)
  /-- DOUBLED_HASH_COMPARE (R211): A shadow's hash arrives and the primary's router compares and forwards the message once. -/
  | doubledHashCompare (core : Nat) (hash : Dword)
  /-- DOUBLED_HASH_TIMEOUT (R212): A hash absent for 2^16 cycles raises DOUBLED_MISMATCH. -/
  | doubledHashTimeout (core : Nat)
  /-- REPLAY_FORCE_TIMEOUT (R214): A forced replay choice not made within 2^20 cycles stops the context. -/
  | replayForceTimeout (launch sq : Nat)
  /-- HOME_SLICE_REQUEST (R89): A home slice takes a load, store, atomic, queue or multicast request and serves it, joins it to a fill, or refuses it with a wait hint. -/
  | homeSliceRequest (core acc : Nat) (hint : BitVec 12)
  /-- ACCESS_RESPONSE (R137): A data response or acknowledgement reaches its issuing unit: the load value is bound, its slot and taint references are freed, or the store is counted as acknowledged. -/
  | accessResponse (core acc : Nat) (data : List Byte)
  /-- LANE_GROUP_ARBITRATION (R222): Each cycle the square's arbiter runs its deficit round robin, binds micro-operation entries to free lane groups and releases groups whose entries have completed. -/
  | laneGroupArbitration (sq : Nat)
  /-- TORUS_LINK_FAILURE (R236): A torus link or bond group fails and the management controller writes fault-region entries and withholds unreachable squares. -/
  | torusLinkFailure (link : Nat) (entries : List (Nat × Dword)) (withheld : List Nat)
  deriving DecidableEq, Repr

namespace Instr

/-- Whether a row is an event, a row without an encoding. -/
def isEvent : Instr → Bool
  | .saSliceApply .. => true
  | .saEvictionRetry .. => true
  | .gangStart .. => true
  | .gangResidueCheck .. => true
  | .fifoTimeout .. => true
  | .instructionForward .. => true
  | .coldReset .. => true
  | .attestationReport .. => true
  | .checkpoint .. => true
  | .checkpointRestore .. => true
  | .rsig .. => true
  | .lnqctl .. => true
  | .lpwr .. => true
  | .layerPowerDown .. => true
  | .layerTransitionDone .. => true
  | .xstat .. => true
  | .ecnt .. => true
  | .elog .. => true
  | .escr .. => true
  | .ctmp .. => true
  | .afpcfg .. => true
  | .afmw .. => true
  | .registerWrite .. => true
  | .bankDemote .. => true
  | .freezeClear .. => true
  | .squareWithhold .. => true
  | .schedulerSelect .. => true
  | .leaseWalk .. => true
  | .taskBind .. => true
  | .remoteTensorFill .. => true
  | .preemptionRequest .. => true
  | .preemptionDeadline .. => true
  | .loopContextDiscard .. => true
  | .coreStop .. => true
  | .save .. => true
  | .saveResume .. => true
  | .restore .. => true
  | .refusalRetry .. => true
  | .sliceFillDone .. => true
  | .writeBackDone .. => true
  | .rehome .. => true
  | .scrub .. => true
  | .errorWindowStart .. => true
  | .bankPromotionStart .. => true
  | .busRepair .. => true
  | .busRetrainDone .. => true
  | .tlbFill .. => true
  | .invalidationRequest .. => true
  | .invalidationAck .. => true
  | .revocationRequest .. => true
  | .engineCommandPerform .. => true
  | .exchangeEntryPerform .. => true
  | .barrierComplete .. => true
  | .tempoAccrue .. => true
  | .thermalSample .. => true
  | .probeOriginate .. => true
  | .probeArrive .. => true
  | .queueDeadlock .. => true
  | .routerForward .. => true
  | .messageDelivery .. => true
  | .slotReturn .. => true
  | .reductionCombine .. => true
  | .redwaitTimeout .. => true
  | .flushArrive .. => true
  | .slotStart .. => true
  | .clockDiscipline .. => true
  | .ptpSync .. => true
  | .matchingWindow .. => true
  | .circuitLit .. => true
  | .tokenArrive .. => true
  | .tokenLoss .. => true
  | .frameReceive .. => true
  | .frameAck .. => true
  | .replayTimeout .. => true
  | .watchdogReset .. => true
  | .remoteAccess .. => true
  | .remoteRejection .. => true
  | .hostAccess .. => true
  | .doubledHashCompare .. => true
  | .doubledHashTimeout .. => true
  | .replayForceTimeout .. => true
  | .homeSliceRequest .. => true
  | .accessResponse .. => true
  | .laneGroupArbitration .. => true
  | .torusLinkFailure .. => true
  | _ => false

end Instr

end Sys2Proof
end

