-- ==== Sys2Proof/Machine/State.lean ====
section
/-! DEFINITION. The state of one MBZ-2048 package, the reasons a step can stop, and the state after reset.

Sparse maps list only what differs from a default or what exists; the default of each is named where it is
read. Fields marked MODEL are the model's own (notes/assumptions/5.md), every other field is the spec's. -/

namespace Sys2Proof.Machine

/-- Why the machine stops with a fault. -/
inductive Fault where
  /-- Raised by `step` alone, once firmware verification or self-test has failed: boot stops and the device
  serves only BOOTST (R264). Safe: the spec gives the device no further step. -/
  | bootStopped
  deriving DecidableEq, Repr

/-- Why the machine gives an instruction no meaning. -/
inductive Refusal where
  /-- Raised by an arm of `exec` whose instruction has no meaning yet. Safe: the run stops. -/
  | notModelled (mnemonic : String)
  deriving DecidableEq, Repr

/-! ## Cores -/

/-- A taint set (R135): up to eight slots, ascending, or the saturation mark. -/
structure Taint where
  refs : List Nat := []
  mark : Option Nat := none
  deriving DecidableEq, Repr

/-- An entry of a load or store queue (R186). -/
structure QEntry where
  serial : Nat
  data : Row
  pois : Bool
  taint : Taint
  /-- false: reserved and not yet filled. -/
  filled : Bool
  deriving DecidableEq, Repr

/-- An entry of a loop stack (R353). -/
structure LoopEntry where
  start : Dword
  stop : Dword
  left : Nat
  deriving DecidableEq, Repr

/-- A repeat context (R356). -/
structure RptCtx where
  addr : Dword
  count : Nat
  pass : Nat
  word : Nat
  len : Nat
  stagger : Nat
  deriving DecidableEq, Repr

/-- A sequencer context (R356): the loop stack, top first, and the repeat context. -/
structure SeqCtx where
  loops : List LoopEntry := []
  rpt : Option RptCtx := none
  deriving DecidableEq, Repr

/-- The part of a core's state that a take-back restores (R205). -/
structure Arch where
  pc : Dword
  /-- s1 to s31; default 0. -/
  regs : Map Dword
  side : BitVec 32
  /-- Row r of tile t at 16 t + r; default 0. -/
  rows : Map Row
  rowSide : BitVec 128
  /-- LQ0 to LQ3 at 0 to 3, SQ0 and SQ1 at 4 and 5, head first. -/
  queues : Map (List QEntry)
  /-- F1 to F7. -/
  fmts : Map Dword
  rmode : Dword
  mdef : Dword
  /-- m0 to m7. -/
  shapes : Map (BitVec 128)
  /-- The core's own row r of accumulator k at 16 k + r; default 0. -/
  accs : Map Row
  /-- Valid sparsity metadata sets (R432), 16 dwords each. -/
  metas : Map (List Dword)
  seq0 : SeqCtx
  /-- Issue counts of tl0 to tl7 (R145). -/
  tlIssued : Map Nat
  /-- Counters of tl0 to tl7. -/
  tlCount : Map Nat
  /-- Numbers performed ahead of the complete prefix, as 2^64 t + n. -/
  tlAhead : List Nat
  /-- Reductions sent and awaited per tree (R389, R390), and messages sent in this superstep (R209). -/
  redSent : Map Nat
  redAwaited : Map Nat
  sendNo : Nat
  deriving DecidableEq, Repr

/-- Where a load's value goes. -/
inductive Dest where
  | discard
  | reg (r : Nat)
  /-- The reserved entry of queue `q` with this serial number. -/
  | queue (q serial : Nat)
  deriving DecidableEq, Repr

/-- What an access in flight does. -/
inductive AccKind where
  | load
  | store
  | atomic (op : Rmw)
  /-- A REL that waits for the accesses before it (R129). -/
  | rel
  deriving DecidableEq, Repr

/-- A single-copy atomic part of an access (R23, R96). -/
structure Part where
  va : Nat
  pa : Nat
  size : Nat
  ca : Nat
  /-- Place of the part's first byte in the access's data. -/
  idx : Nat
  isDone : Bool
  data : List Byte
  pois : Bool
  refusals : Nat
  /-- The bytes that a request to another device or the host asks for: first byte and count. -/
  ask : Nat × Nat
  /-- Target device and export key of a space-3 access; or its address is physical there, with no key (R394). -/
  dev : Nat
  key : Dword
  physical : Bool
  deriving DecidableEq, Repr

/-- An access that has issued and not yet performed (R118). -/
structure Access where
  id : Nat
  pc : Dword
  kind : AccKind
  space : Nat
  ord : Nat
  scope : Nat
  width : Nat
  dest : Dest
  slot : Option Nat
  parts : List Part
  data : List Byte
  pois : Bool
  opnd : Dword
  comp : Dword
  /-- The context it was issued in, and the launch and task. -/
  ctx : Nat
  owner : Option (Nat × Nat)
  /-- The request has left the device and awaits its target. -/
  sent : Bool
  /-- The loads that it waits for: the taint of its operands (R138). -/
  taint : Taint
  deriving DecidableEq, Repr

/-- A MOD prefix's fields (R317). -/
structure ModFields where
  ord : Nat
  space : Nat
  scope : Nat
  cache : Nat
  nt : Bool
  deriving DecidableEq, Repr

/-- A memory layer of a core (R49 to R67). -/
structure Layer where
  /-- AON or BON as written (R56). -/
  want : Bool
  /-- The state the layer has reached. -/
  on : Bool
  busy : Bool
  /-- The transition in progress is a power-down. -/
  down : Bool
  /-- Live buses. -/
  live : BitVec 4
  /-- The remap entries of a carved layer, in ascending region (R66). -/
  carved : Option (List Nat)
  /-- A bus has failed and the layer waits to be carved (R65). -/
  carvePending : Bool
  deriving DecidableEq, Repr

/-- Error state of a local-store bank (R72 to R77). -/
structure Bank where
  count : Nat
  promoted : Bool
  waiting : Bool
  fresh : Bool
  deriving DecidableEq, Repr

/-- State of a vertical bus (R61, R62). -/
structure Bus where
  lanes : Nat
  spares : Nat
  repairing : Bool
  deriving DecidableEq, Repr

/-- What an L1 line's address lies in (R81): its space, and for space 3 the target device and the export key. -/
structure L1Tag where
  space : Nat
  dev : Nat := 0
  key : Dword := 0
  deriving DecidableEq, Repr

/-- A line of an L1 (R81). -/
structure L1Line where
  tag : L1Tag
  line : Nat
  way : Nat
  data : BitVec 1024
  /-- Bytes held. -/
  held : BitVec 128
  pois : BitVec 4
  deriving DecidableEq, Repr

/-- A TLB entry (R30). -/
structure TlbEntry where
  /-- 0 access stream, 1 fetch, 2 copy engine. -/
  unit : Nat
  asid : Nat
  va : Nat
  size : Nat
  leaf : Dword
  deriving DecidableEq, Repr

/-- An engine command's work (R145). -/
inductive CmdKind where
  | lmzero (a len : Nat)
  | lmcopy (a b len : Nat)
  | lmcmp (a b len r : Nat)
  | mcrd (a ofs len mask bx by' bz cache : Nat)
  | redsend (tree rop a count ordinal : Nat)
  | xsend (cls a len peer ofs : Nat)
  | tladv
  | cpy (dir sp a b len : Nat)
  | cpy2d (dir sp a b bytes rows : Nat) (dstStride srcStride : Int)
  | cpyga (sp a b count lg : Nat)
  | cpysc (sp a b count lg : Nat)
  | cpyfi (fifo : Nat) (fromLocal : Bool) (sp b len : Nat)
  /-- `fmt` is the format register and `mode` the rounding mode as they were at issue. -/
  | cpycv (decoding : Bool) (sp a b rows : Nat) (fmt : Dword) (mode : Nat)
  | mepi (acc a : Nat)
  deriving DecidableEq, Repr

/-- An issued engine command that has not performed. -/
structure Cmd where
  id : Nat
  pc : Dword
  word : CmdKind
  tl : Nat
  num : Nat
  /-- Local ranges: first byte, length, written. -/
  ranges : List (Nat × Nat × Bool)
  privileged : Bool
  slot : Option Nat
  /-- The superstep and the first number of its messages (R209). -/
  step : Nat
  number : Nat
  /-- Lines of an MCRD, by place, that have been sent, and those whose request a fill will answer (R93, R94); the chunks
  that an in-layer operation has written (R70). -/
  got : List Nat
  asked : List Nat
  /-- Refusals of its request for each line (R91). -/
  refusals : Map Nat
  /-- The cache field that its checks used (R79). -/
  cache : Nat
  /-- Requests to another device or the host sent and unanswered: 0 none, 1 its reads, 2 its writes; 3 where a residue
  mismatch has stopped the command (R279). -/
  sent : Nat
  /-- Rows that MEPI has staged: address, and bytes with the poison of each (R435); the 64-byte chunks that an in-layer
  operation has read: place in its range, and bytes (R70). -/
  staged : Option (List (Nat × List (Byte × Bool)))
  /-- The translations its checks used (R470): page, bytes, leaf. -/
  via : List (Nat × Nat × Nat)
  /-- Flags the command sets in RMODE when it performs. -/
  flags : Dword
  deriving DecidableEq, Repr

/-- A gang operation as one core issued it (R420). -/
structure GangIssue where
  form : Nat
  acc : Nat
  shape : Nat
  fifoA : Nat
  fifoB : Nat
  zero : Bool
  mb : Nat
  sel : Nat
  /-- The core's armed flag when it issued. -/
  armed : Bool
  deriving DecidableEq, Repr

/-- A stream-accumulator operation sent to its home slice, awaiting the verdict (R475). -/
structure SaReq where
  op : Nat
  /-- The handle and offset registers. -/
  handle : Dword
  ofs : Dword
  slot : Nat
  /-- FMT of R437, e of SAFENCE, or f of SAEVICT. -/
  fmt : Nat
  scope : Nat
  /-- Destination: register of SASQ, queue of SANRM. -/
  dest : Nat
  row : Row
  pois : Bool
  /-- SAGAIN's address; SAEPS sampled at issue. -/
  addr : Dword
  eps : Nat
  /-- The gain row as the core translated it at issue: physical address and bytes of each part, nothing for unit gain
  (R168); none where the slice's checks failed then. -/
  gain : Option (List (Nat × Nat))
  deriving DecidableEq, Repr

/-- Why a core sleeps (R102, R459). -/
inductive Sleep where
  | wfe
  | qwait (handle : Nat)
  /-- The wait has ended: the instruction returns at its next turn. -/
  | woken
  deriving DecidableEq, Repr

/-- An asynchronous stop request (R277). -/
inductive StopReq where
  /-- Pre-emption; `due` once DL cycles have passed, `late` after a further PREDL (R285, R357). -/
  | preempt (due late : Bool)
  | slotMiss (cls : Nat)
  | scrub (addr : Nat)
  | engine (cause : BitVec 8) (walk : Bool) (faddr fstart : Dword)
  /-- A residue mismatch in an engine, or in a slice for a buffered SAADD, with the address of what issued the work
  (R279). -/
  | residue (unit lane : Nat) (expct obs : BitVec 3) (pc : Dword) (engine : Bool)
  | deferred (cause : BitVec 8) (walk : Bool) (epc faddr fstart : Dword)
  deriving DecidableEq, Repr

/-- An error that a check finds in an instruction or an engine command: an input (R278, R62, R106). An address that
the instruction does not touch meets nothing. -/
inductive Upset where
  /-- A residue mismatch of a unit and lane, and whether it survives the replays (R25, R279). -/
  | residue (unit lane : Nat) (expct obs : BitVec 3) (persists : Bool)
  /-- A word of a register, by R112's code (R106). -/
  | register (reg : Nat) (syn : BitVec 8) (fixed : Bool)
  /-- A transfer of a vertical bus whose retries are exhausted, at a local-store offset (R63, R64). -/
  | layerBus (addr : Nat)
  /-- A word of the local store, at its offset (R72, R106). -/
  | localWord (addr : Nat) (syn : BitVec 8) (fixed : Bool)
  /-- A parity error of the L1 line that holds a byte of a space: 2, 3 or 4 (R84). -/
  | l1Parity (space addr : Nat)
  /-- An HBM granule, at a physical address, that an access reads or writes past its slice: the link mended the transfer, or
  the granule is lost (R105). -/
  | granule (addr : Nat) (lost : Bool)
  /-- A 128-bit word of the vector that an SA instruction names, by its place in the vector (R178). -/
  | saWord (word : Nat) (syn : BitVec 8) (fixed : Bool)
  /-- A word of a cache slice, at its physical address (R106, R107). -/
  | sliceWord (addr : Nat) (syn : BitVec 8) (fixed : Bool)
  /-- A queue entry whose stored copy does not read back good (R103). -/
  | queueStore
  /-- A queue entry that a dequeue finds bad (R103). -/
  | queueEntry
  /-- A parity error in a taint set (R144): of scalar register r at r, of tile t at 32 + t, of the head entry of queue q
  (LQ0 to LQ3, SQ0, SQ1) at 40 + q. -/
  | taintParity (reg : Nat)
  deriving DecidableEq, Repr

/-- A load that performs before an older instruction (R124, R138, R139, R38): its address registers, and the access as far
as it has performed. Space 0 is an MFST that reads an operand FIFO while the array pops it (R427). -/
structure Early where
  regs : List Nat
  acc : Access
  deriving DecidableEq, Repr

/-- A forwarded instruction (R187, R189). -/
structure Forward where
  pc : Dword
  words : List Word
  nextPc : Dword
  seq : SeqCtx
  arrived : Bool
  deriving DecidableEq, Repr

/-- A channel end (R240). -/
structure Chan where
  /-- Free slots at a sender; position of the next slot at a receiver. -/
  count : Nat
  /-- Whole messages waiting at a receiver, beyond the held slot. -/
  waiting : Nat
  /-- The slot the last CHRECV returned. -/
  held : Option Nat
  deriving DecidableEq, Repr

/-- An entry of the micro-operation queue (R221). -/
structure Uop where
  groups : Nat
  cost : Nat
  deriving DecidableEq, Repr

/-- How a bound core stopped for a save (R285). -/
structure Stopped where
  /-- The liveness word; none: a full save. -/
  live : Option Dword
  /-- The live ranges of its list: first byte and length (R286). -/
  ranges : List (Nat × Nat)
  cause : BitVec 8
  deriving DecidableEq, Repr

/-- One core. -/
structure Core where
  arch : Arch
  level : Fin 3
  epc : Dword
  ecause : Dword
  faddr : Dword
  fstart : Dword
  xepc : Dword
  xcause : Dword
  xfaddr : Dword
  xfstart : Dword
  seq1 : SeqCtx
  seq2 : SeqCtx
  xstat : Dword
  lsecc : Dword
  /-- Taint of register r at r, of tile t at 32 + t. -/
  taint : Map Taint
  /-- Outstanding-load table: slot to sequence number (R134). -/
  loads : Map Nat
  loadSeq : Nat
  /-- Registers whose youngest writer has not yet performed: register to slot. -/
  pend : Map Nat
  inflight : List Access
  serial : Nat
  pendMod : Option ModFields
  /-- MODEL. The last word of the instruction being executed, for the records of R273, R280 and R316. -/
  word : Word
  layerA : Layer
  layerB : Layer
  /-- Banks A0 to A15 at 0 to 15, B0 to B15 at 16 to 31. -/
  banks : Map Bank
  /-- Buses of layer A at 0 to 3, of layer B at 4 to 7. -/
  buses : Map Bus
  /-- Local store; default 0. -/
  ls : List Host.Cell
  /-- Poisoned 32-byte granules of the local store. -/
  lsPois : Map Bool
  l1 : List L1Line
  l1Errors : Map Nat
  l1Off : List Nat
  tlb : List TlbEntry
  armed : Bool
  gangWait : Option GangIssue
  eventFlag : Bool
  sleep : Option Sleep
  cmds : List Cmd
  snapshot : Option Arch
  /-- Old contents of 128-byte sectors written since the snapshot (R206), and the bank whose reserve holds each (R75). -/
  journal : Map (List Byte × List Bool × Nat)
  mcRecord : BitVec 256
  early : List Early
  uops : List Uop
  deficit : Nat
  chans : Map Chan
  /-- Bytes of each exchange class arrived (R392). -/
  xbytes : Map Nat
  /-- Messages accepted: sending task, superstep, number (R209). -/
  accepted : List (Nat × Nat × Nat)
  /-- The bound problem block (R448). -/
  qp : Option Nat
  /-- A stream-accumulator operation whose verdict is awaited (R475). -/
  saWait : Option SaReq
  /-- The bound task: launch and task index. -/
  task : Option (Nat × Nat)
  lastCtx : Option Nat
  /-- Asynchronous stop requests, oldest first. -/
  stopReq : List StopReq
  stopped : Option Stopped
  following : Bool
  inbox : List Forward
  /-- The outgoing message of a doubled core that waits for its hash, and whether its hash has been found equal. -/
  hashWait : Option Dword
  hashPass : Option Bool
  /-- A task that ended here in the revocable superstep, and whether it followed: a take-back binds it again (R207). -/
  ended : Option (Nat × Nat × Bool)
  /-- The reduction that a REDWAIT with a time-out waits for: tree, ordinal (R244). -/
  redWait : Option (Nat × Nat)
  deriving DecidableEq, Repr

/-! ## Squares, slices, contexts, launches -/

/-- An operand FIFO (R425): bytes and the poison bit of each 32-byte granule, head first. -/
structure Fifo where
  bytes : List Byte
  pois : List Bool
  /-- Bytes popped since the snapshot, oldest first, kept for a take-back (R205). -/
  keptBytes : List Byte
  keptPois : List Bool
  /-- Bytes held at the snapshot. -/
  snapLen : Nat
  deriving DecidableEq, Repr

/-- What an exchange-buffer entry does. -/
inductive XKind where
  | store (space : Nat) (data : List Byte) (pois : Bool)
  | atomic (op : Rmw) (width : Nat) (opnd comp : Dword) (pois : Bool)
  | saadd (handle ofs : Nat) (bf16 : Bool) (row : Row) (pois : Bool)
  deriving DecidableEq, Repr

/-- An entry of a square's exchange buffer (R203). -/
structure XEntry where
  core : Nat
  launch : Nat
  task : Nat
  pc : Dword
  va : Nat
  /-- Where its translation at issue led, for the loads of R83. -/
  pa : Nat
  start : Nat
  size : Nat
  privileged : Bool
  kind : XKind
  /-- The task's superstep when it placed the entry. -/
  step : Nat
  /-- Its place in the core's order, and the cache field of its prefix (R79). -/
  id : Nat
  cache : Nat
  /-- The slot that a buffered atomic holds, and its load's sequence number (R134). -/
  slot : Option (Nat × Nat)
  refusals : Nat
  deriving DecidableEq, Repr

/-- A gang operation whose trailing checks are outstanding (R434). -/
structure GangOp where
  op : GangIssue
  /-- Each core's program counter and loops at the operation. -/
  pcs : List (Dword × SeqCtx)
  /-- Each core's next number: what it issues from here on is younger (R436). -/
  marks : List Nat
  /-- Old accumulator rows: 1024 core + 16 acc + row. -/
  old : Map Row
  flags : List Dword
  replays : Nat
  /-- A MEPI has read the accumulator since (R436). -/
  epilogue : Bool
  deriving DecidableEq, Repr

/-- A message held for an exchange slot (R247). -/
structure SlotMsg where
  core : Nat
  /-- The XSEND that it performs for. -/
  cmd : Nat
  launch : Nat
  task : Nat
  /-- Its superstep and number (R209). -/
  step : Nat
  number : Nat
  cls : Nat
  peer : Nat
  ofs : Nat
  data : List Byte
  pois : List Bool
  /-- Slots of its class missed. -/
  missed : Nat
  /-- Of a doubled task: the hashes of the message and of its shadow's, until they are compared (R211). -/
  hashes : Option (Dword × Dword)
  deriving DecidableEq, Repr

/-- One square. -/
structure Square where
  fifos : Map Fifo
  xbuf : List XEntry
  gang : Option GangOp
  revocable : Bool
  takeBacks : Nat
  superstep : Nat
  arbP : Nat
  /-- Cycles for which each lane group stays occupied, group i in bits 8 i + 7 to 8 i (R222). -/
  busyGroups : Nat
  tlb : List TlbEntry
  clockAdj : Int
  offset : Int
  faults : Map Dword
  withheld : Bool
  slotMsgs : List SlotMsg
  /-- The end of the last exchange slot whose start it has judged, and whether it misses that slot (R248). -/
  slotEnd : Nat
  slotOut : Bool
  /-- Its gang operation has asked for tempo: see `State.tempoQueue` (R230). -/
  tempoAsked : Bool
  /-- The log position of its virtual square at the snapshot (R214). -/
  logMark : Nat
  deriving DecidableEq, Repr

/-- One context's registers (R18): values written, and values in force for the latched ones, by number. -/
structure Context where
  written : Map Dword
  inForce : Map Dword
  remoteErrors : Nat
  /-- Revoked ranges: base, length (R461). -/
  revoked : List (Nat × Nat)
  unrestorable : Bool
  notRunnable : Bool
  deriving DecidableEq, Repr

/-- A slice queue's descriptor (R100). -/
structure QDesc where
  ctx : Nat
  tail : Nat
  head : Nat
  logd : Nat
  rows : Bool
  valid : Bool
  base : Nat
  /-- What fields shown as zero hold, at their places; nothing reads them while V = 1 but LDCTL. -/
  zeros : Nat
  deriving DecidableEq, Repr

/-- A stream-accumulator vector (R157) with its resident elements. -/
structure SaVec where
  gaddr : Nat
  back : Nat
  nr : Nat
  compact : Bool
  st : Nat
  ctx : Nat
  valid : Bool
  lossy : Bool
  sv1 : Bool
  sv0 : Bool
  gen : Nat
  cnt : Nat
  slot1 : Dword
  slot0 : Dword
  sumSq : Dword
  /-- Elements while resident; default 0. -/
  elems : Map (BitVec 40)
  /-- The lent way that holds it while resident, 0 for the highest-numbered live way (R161). -/
  way : Nat
  /-- Last use, for least recently used. -/
  used : Nat
  /-- No longer chosen for eviction (R175). -/
  noEvict : Bool
  /-- What fields shown as zero hold, at their places (R158). -/
  zeros : Nat
  deriving DecidableEq, Repr

/-- One slice. -/
structure Slice where
  queues : Map QDesc
  /-- The queue array, in 8-byte units; default 0. -/
  array : Map Dword
  arrayPois : Map Bool
  /-- Waiting cores: core and queue index (R102). -/
  waiters : List (Nat × Nat)
  /-- Stream-accumulator descriptors by index. -/
  vecs : Map SaVec
  /-- Reservations in order: line, core, access or command (R91). -/
  reservations : List (Nat × Nat × Nat)
  offWays : List Nat
  wayErrors : Map Nat
  wayFresh : List Nat
  /-- Ways that have crossed their threshold and wait for their vectors to leave (R107). -/
  leaving : List Nat
  /-- Ways that were disabled when lending was last computed (R161). -/
  offThen : Nat
  /-- Lent ways disabled since: lending fell with them (R107). -/
  lentLost : Nat
  /-- The pseudo-LRU record of each set (R87): a tree of 15 bits. -/
  plru : Map Nat
  deriving DecidableEq, Repr

/-- A cached line's state (R85): the data themselves are in device memory's map, which the slices keep coherent. -/
structure Line where
  valid : BitVec 8
  dirty : BitVec 8
  filling : BitVec 8
  writing : BitVec 8
  /-- The fill in progress is a multicast read's (R94). -/
  mcast : Bool
  stream : Bool
  way : Nat
  deriving DecidableEq, Repr

/-- A task's phase in its superstep domain (R202). -/
inductive Phase where
  | compute
  | exchange
  | wait (level : Nat)
  deriving DecidableEq, Repr

/-- A task of a launch. -/
structure Task where
  phase : Phase
  bound : Bool
  begun : Bool
  ended : Bool
  /-- Cause of the trap that ended it; 0 for none. -/
  cause : BitVec 8
  /-- Times its superstep has passed SSTEP. -/
  steps : Nat
  saveSlot : Option Nat
  deriving DecidableEq, Repr

/-- What a save keeps of a task beside its image (notes/assumptions/22.md): state that R289 gives no place, or whose
layout in the image the spec does not give. -/
structure Kept where
  ranges : List (Nat × Nat)
  entries : List XEntry
  chans : Map Chan
  accepted : List (Nat × Nat × Nat)
  redSent : Map Nat
  redAwaited : Map Nat
  sendNo : Nat
  qp : Option Nat
  eventFlag : Bool
  following : Bool
  /-- Stop requests that the task has yet to take. -/
  stops : List StopReq
  deriving DecidableEq, Repr

/-- Where the save engine stands in a launch (R291): SEQ of the first image, the image's place among the tasks to be
saved, its block, and whether a fault has stopped it. -/
structure Saving where
  seq : Nat
  image : Nat
  block : Nat
  faulted : Bool
  deriving DecidableEq, Repr

/-- A launch that the scheduler has accepted (R219). -/
structure Launch where
  record : BitVec 2048
  queue : Nat
  /-- Physical square of each virtual square of the box, by index (R195); with DBL = 1 the shadows' squares follow
  (R210). -/
  place : List Nat
  tasks : Map Task
  /-- Full/empty bits: 4 task + buffer (R194). -/
  full : Map Bool
  /-- Pending-byte counters: 8192 level + instance (R204). -/
  pending : Map Nat
  /-- Ends in the order recorded (R197): task, cause. -/
  ends : List (Nat × BitVec 8)
  /-- Scoresheet position per virtual square (R213). -/
  logPos : Map Nat
  /-- Slice arbitrations logged (notes/assumptions/21.md). -/
  arbNo : Nat
  /-- Pre-emption requested; saved and to be resumed. -/
  preempting : Bool
  saved : Bool
  saving : Option Saving
  /-- Since it became a resumable entry, in tenths of a cycle (R218, R220). -/
  age : Nat
  kept : Map Kept
  deriving DecidableEq, Repr

/-- What the scheduler knows of the record at a queue's head (R218). -/
structure Head where
  /-- none: not yet walked; some true: resolved; some false: waits on a residency answer or a migration. -/
  leases : Option Bool
  waitsCtx : Option Nat
  /-- The address whose walk waits. -/
  waitsVa : Nat
  /-- The wait is on a residency request rather than on a migration. -/
  asked : Bool
  /-- Since the record became its queue's head, in tenths of a cycle of 1.2 GHz (R218, R7). -/
  age : Nat
  deriving DecidableEq, Repr

/-- A launch queue (R216). -/
structure LaunchQueue where
  base : Dword
  tail : Nat
  head : Nat
  logd : Nat
  pre : Bool
  prio : Nat
  enabled : Bool
  count : Nat
  deriving DecidableEq, Repr

/-! ## Fabric -/

/-- A copy of a multicast packet on its way (R93): its task, where it is, its waypoint and its virtual channel. Copies
whose routes have not parted are one packet. -/
structure Copy where
  task : Nat
  here : Nat
  waypoint : Option Nat
  vc : Nat
  deriving DecidableEq, Repr

/-- What a message carries (R233), to which task of which launch; `srcCore` and `srcCmd` name the engine command it
performs for. -/
inductive MsgBody where
  | chan (launch task ch : Nat) (data : List Byte) (pois : List Bool)
  | slotReturn (launch task ch : Nat)
  | mcast (launch : Nat) (copies : List Copy) (ofs : Nat) (data : List Byte) (pois : List Bool) (srcCore srcCmd : Nat)
  | xslot (launch task cls ofs : Nat) (data : List Byte) (pois : List Bool) (srcCore srcCmd : Nat)
  deriving DecidableEq, Repr

/-- A message in flight. -/
structure Msg where
  cls : Nat
  /-- Sending task and superstep, for duplicates (R209). -/
  launch : Nat
  task : Nat
  superstep : Nat
  number : Nat
  ctx : Nat
  src : Nat
  here : Nat
  dst : Nat
  /-- The waypoint it heads for, or 2,048 once it has passed one (R236). -/
  waypoint : Option Nat
  /-- Its virtual channel: 1 once it has crossed a dateline (R233). -/
  vc : Nat
  body : MsgBody
  deriving DecidableEq, Repr

/-- A reduction partial (R242): arrival mask, elements and which of them are poison. -/
structure Partial where
  mask : BitVec 64
  vals : List (BitVec 32)
  pois : List Bool
  deriving DecidableEq, Repr

/-- A reduction in progress (R242 to R244). -/
structure Red where
  launch : Nat
  tree : Nat
  inst : Nat
  ordinal : Nat
  /-- Contributions by member: operation, elements. -/
  given : Map (Nat × Partial)
  /-- Partials sent on, by virtual square 256 z + 16 y + x. -/
  sent : Map Partial
  /-- Combine points the flush has reached. -/
  flushed : List Nat
  flushing : Bool
  timedOut : Bool
  isOver : Bool
  deriving DecidableEq, Repr

/-- An invalidation or a revocation under way (R42, R461). -/
structure Inval where
  core : Nat
  revoke : Bool
  base : Nat
  len : Nat
  asid : Nat
  /-- Units that have not yet received it, and units that have not yet acknowledged. Unit u below 8,192 is
  core u with its TLBs and copy engines; 8,192 + s is the TLB of square s; 10,240 is the scheduler's walker with
  the save engine and the eviction engines. -/
  toReach : List Nat
  toAck : List Nat
  deriving DecidableEq, Repr

/-- An Afjan port (R250 to R259). -/
structure Port where
  cfg : Dword
  lit : Bool
  /-- The newest generation of this reader port's own token (R253). -/
  gen : BitVec 16
  /-- Its token, held while the receive buffer lacks room (R252). -/
  held : Bool
  /-- The device its circuit leads to, and the game clock at which that changed (R255). -/
  circuit : Option Nat
  changed : Dword
  /-- Game clock at its last resets, newest first (R259). -/
  resets : List Dword
  down : Bool
  deriving DecidableEq, Repr

/-- The frame streams with another device (R254): the next number to send, the unacknowledged frames, the next number
awaited. -/
structure Peer where
  nextSend : BitVec 32
  window : List (BitVec 32 × Payload)
  nextRecv : BitVec 32
  /-- The newest generation of its token that this device has seen as a writer (R253). -/
  gen : BitVec 16
  /-- Unacknowledged frames that the next token sends again (R254). -/
  again : List (BitVec 32 × Payload)
  deriving DecidableEq, Repr

/-- An error block (R109). -/
structure ErrBlock where
  escr : Dword
  cor : Nat
  unc : Nat
  eslc : Dword
  /-- Newest first. -/
  log : List Dword
  deriving DecidableEq, Repr

/-- A transfer that waits to leave for a device; 2^18 is the host, 2^19 + p the checkpoint tier behind port p. -/
structure Outgoing where
  dev : Nat
  what : Payload
  deriving DecidableEq, Repr

/-- An access from outside that has arrived and not performed (R89, R263): where it came from, its physical parts, and
what it asks. -/
structure Inbound where
  id : Nat
  dev : Nat
  /-- Its parts, each with its refusals (R91). -/
  parts : List Part
  what : Payload
  deriving DecidableEq, Repr

/-- A payload delivered from another device: the port whose receive buffer holds it (R252), the device, what it is. -/
structure Delivered where
  port : Nat
  dev : Nat
  what : Payload
  deriving DecidableEq, Repr

/-- An attestation report (R265): the nonce, the device identity, the measurement of each boot stage, the LMS index,
and both signatures. -/
structure Report where
  nonce : Nat
  identity : List Byte
  stages : List (BitVec 384)
  index : Nat
  ecdsa : List Byte
  lms : List Byte
  deriving DecidableEq, Repr

/-- A host event (R261). -/
structure HostEvent where
  code : BitVec 8
  ctx : BitVec 6
  arg : Dword
  clock : Dword
  deriving DecidableEq, Repr

/-- A blocked-queue probe (R227). -/
structure Probe where
  origin : Nat
  here : Nat
  hops : Nat
  seen : List Nat
  deriving DecidableEq, Repr

/-- An undo record of an atomic (R88) or of an SA operation (R179). -/
inductive Undo where
  | atomic (slice sq pa width : Nat) (op : Rmw) (opnd comp : Dword) (old : List Byte)
  /-- The 64 old elements, the old header, the added row. -/
  | saAdd (slice sq index ofs : Nat) (bf16 : Bool) (row : Row) (pois : Bool) (elems : List (BitVec 40)) (header : Nat)
  /-- The old slot, and for an exact fence the old sum (notes/assumptions/50.md). -/
  | saFence (slice sq index slot : Nat) (exact : Bool) (valid : Bool) (val sum : Dword)
  /-- The old elements, header and ST; of an evicted vector also what its image holds: elements and header. -/
  | saClear (slice sq index records : Nat) (elems : Map (BitVec 40)) (header st : Nat)
      (image : Option (Map (BitVec 40) × Nat))
  deriving DecidableEq, Repr

/-- A column (R10, R229). -/
structure Column where
  rate : Nat
  /-- LEVEL in thousandths of a token. -/
  milli : Nat
  /-- Core supply in millivolts. -/
  volts : Nat
  frozen : Bool
  deriving DecidableEq, Repr

/-- An export table entry (R45): key, context, base, length, stores permitted. -/
structure Export where
  key : Dword
  ctx : Nat
  base : Nat
  len : Nat
  writes : Bool
  deriving DecidableEq, Repr

/-- One package. -/
structure State where
  /-- By physical core number; default `Core.reset`. -/
  cores : Map Core
  squares : Map Square
  contexts : Map Context
  slices : Map Slice
  /-- The sum of WAYS when lending was last computed (R161). -/
  lending : Nat
  /-- Leaves with M = 1 that transfers of the walker, the save engine and the eviction engines met (R37). -/
  heldLeaves : List TlbEntry
  /-- Cached lines by line number. -/
  lines : Map Line
  /-- Device memory; an unlisted byte reads as 0 (R266). -/
  mem : List Host.Cell
  /-- Poisoned 32-byte granules of device memory. -/
  memPois : Map Bool
  /-- Granules that are poison in the stack under a sector that its slice holds (R108). -/
  hbmPois : Map Bool
  /-- Device memory was lost by an abandoned restore: the abandonment's number (R263). -/
  lost : Option Nat
  columns : Map Column
  /-- Gang operations waiting for tempo: squares in request order (R230). -/
  tempoQueue : List Nat
  ceiling : Nat
  clock : Dword
  /-- The device's own offset estimate (R255, R262). -/
  offset : Int
  queues : Map LaunchQueue
  heads : Map Head
  lastQueue : Nat
  launches : Map Launch
  launchId : Nat
  /-- Regions given to a group of slices: 2 MiB region to slices (R92). -/
  rehomed : Map (List Nat)
  /-- Regions on their way to new homes: requests for them are refused (R92). -/
  moving : Map (List Nat)
  invals : Map Inval
  msgs : Map Msg
  msgId : Nat
  reds : Map Red
  redId : Nat
  undo : List Undo
  ports : Map Port
  peers : Map Peer
  afmw : Dword
  errs : Map ErrBlock
  heqb : Dword
  heqctl : Dword
  hapb : Dword
  bootst : Dword
  bootFailed : Bool
  fusedVersion : Nat
  hostEvents : List HostEvent
  /-- Transfers handed to the base die for other devices and the host. -/
  outbox : List Outgoing
  /-- Frames sent on the optical circuits: device, number, payload. -/
  sentFrames : List (Nat × BitVec 32 × Payload)
  /-- Payloads delivered from other devices, in order (R254): requests that have not performed and answers that nothing has
  taken. -/
  delivered : List Delivered
  /-- Acknowledgements sent: device, newest number received, whether a CRC error is reported (R254). -/
  sentAcks : List (Nat × BitVec 32 × Bool)
  /-- Tokens emitted: port, reader if it is another device, generation (R252, R253). -/
  sentTokens : List (Nat × Option Nat × BitVec 16)
  /-- Accesses from outside that a slice has refused or a checkpoint holds. -/
  inbound : List Inbound
  /-- Accesses that have arrived from outside. -/
  inboundNo : Nat
  /-- MSI-X vectors signalled (R260, R261). -/
  msix : List Nat
  /-- The device that the host has named grandmaster (R262). -/
  grandmaster : Nat
  /-- The device whose Sync message last gave the time; none since the grandmaster was named (R262). -/
  timeSource : Option Nat
  /-- Sync messages sent: port and time (R262). -/
  sentSyncs : List (Nat × Dword)
  /-- Grants given to the requests of other devices for circuits to this one (R255): round, device. -/
  sentGrants : List (Nat × Nat)
  /-- The export table (R45). DESIGN CHOICE (notes/assumptions/56.md): empty at reset, and no event fills it. -/
  exports : Map Export
  /-- Devices that the management registers admit to privileged access here (R394). DESIGN CHOICE
  (notes/assumptions/56.md): none at reset, and no event admits one. -/
  admitted : List Nat
  /-- Domains beyond the device that the host has joined it to: 6 GROUP, 7 SYSTEM (R193). -/
  joined : List Nat
  saveSeq : Nat
  coldResets : Nat
  lmsIndex : Nat
  reports : List Report
  checkpointing : Bool
  probes : Map Probe
  probeId : Nat
  /-- Covered queues whose reserve entry has been granted and not yet taken (R227): queue `i` of square `q` is
  128 q + i, with i in R226's order: router buffers 0 to 63, slice requests 64, copy commands 65 to 68, micro-operations
  69 to 72, LQ0 to LQ3 and SQ0 to SQ1 of each core 73 to 96, branch outcomes 97 to 100. -/
  reserves : List Nat
  failedLinks : List Nat
  /-- MODEL. Events that happen next, in order. -/
  agenda : List Instr
  /-- MODEL. The core whose turn it is. -/
  cur : Nat
  /-- MODEL. The cores whose turns come next; with none, `cur` keeps its turn until it waits. -/
  turns : List Nat
  /-- MODEL. The core of this turn waits. -/
  stalled : Bool
  /-- MODEL. Whether each coming device access performs later than it issues; none left: it does not. -/
  delays : List Bool
  /-- MODEL. The error, if any, that each coming instruction or engine command meets; none left: none. -/
  errors : List (Option Upset)
  /-- MODEL. The same for the shadows of doubled tasks, for each instruction and command that they execute (R210, R212). -/
  shadowErrors : List (Option Upset)
  /-- MODEL. For each coming wait of a core, how many words ahead a load performs early; none left: none. -/
  peeks : List Nat
  /-- MODEL. Free values drawn so far. -/
  freeCount : Nat
  deriving DecidableEq, Repr

/-! ## Reset -/

def SeqCtx.reset : SeqCtx := { loops := [], rpt := none }

def Taint.clean : Taint := { refs := [], mark := Option.none }

def Arch.reset : Arch :=
  { pc := 0, regs := [], side := 0, rows := [], rowSide := 0, queues := [], fmts := [], rmode := 0,
    mdef := 0xC0, shapes := [], accs := [], metas := [], seq0 := SeqCtx.reset, tlIssued := [], tlCount := [],
    tlAhead := [], redSent := [], redAwaited := [], sendNo := 0 }

def Layer.reset : Layer :=
  { want := true, on := true, busy := false, down := false, live := 0xF, carved := none, carvePending := false }

def Bank.reset : Bank := { count := 0, promoted := false, waiting := false, fresh := false }

def Bus.reset : Bus := { lanes := 0, spares := 4, repairing := false }

/-- A core after reset (R266, R267): no task bound; LSECC holds WEXP 30 and THR 64, MDEF device scope. -/
def Core.reset : Core :=
  { arch := Arch.reset, level := 0, epc := 0, ecause := 0, faddr := 0, fstart := 0, xepc := 0, xcause := 0,
    xfaddr := 0, xfstart := 0, seq1 := SeqCtx.reset, seq2 := SeqCtx.reset, xstat := 0, lsecc := 0x1E0040,
    taint := [], loads := [], loadSeq := 0, pend := [], inflight := [], serial := 0, pendMod := none, word := 0,
    layerA := Layer.reset, layerB := Layer.reset, banks := [], buses := [], ls := [], lsPois := [], l1 := [],
    l1Errors := [], l1Off := [], tlb := [], armed := false, gangWait := none, eventFlag := false, sleep := none,
    cmds := [], snapshot := none, journal := [], mcRecord := 0, early := [], uops := [], deficit := 0,
    chans := [], xbytes := [], accepted := [], qp := none, saWait := none, task := none, lastCtx := none,
    stopReq := [], stopped := none, following := false, inbox := [], hashWait := none, hashPass := none, ended := none, redWait := none }

def Fifo.reset : Fifo := { bytes := [], pois := [], keptBytes := [], keptPois := [], snapLen := 0 }

def Square.reset : Square :=
  { fifos := [], xbuf := [], gang := none, revocable := false, takeBacks := 0, superstep := 0, arbP := 0,
    busyGroups := 0, tlb := [], clockAdj := 0, offset := 0, faults := [], withheld := false, slotMsgs := [], slotEnd := 0, slotOut := false,
    tempoAsked := false, logMark := 0 }

def Context.reset : Context :=
  { written := [], inForce := [], remoteErrors := 0, revoked := [], unrestorable := false, notRunnable := false }

def QDesc.reset : QDesc :=
  { ctx := 0, tail := 0, head := 0, logd := 0, rows := false, valid := false, base := 0, zeros := 0 }

def SaVec.reset : SaVec :=
  { gaddr := 0, back := 0, nr := 0, compact := false, st := 0, ctx := 0, valid := false, lossy := false,
    sv1 := false, sv0 := false, gen := 0, cnt := 0, slot1 := 0, slot0 := 0, sumSq := 0, elems := [], way := 0, used := 0,
    noEvict := false, zeros := 0 }

def Slice.reset : Slice :=
  { queues := [], array := [], arrayPois := [], waiters := [], vecs := [], reservations := [], offWays := [],
    wayErrors := [], wayFresh := [], leaving := [], offThen := 0, lentLost := 0, plru := [] }

def Line.reset : Line :=
  { valid := 0, dirty := 0, filling := 0, writing := 0, mcast := false, stream := false, way := 0 }

def Task.reset : Task :=
  { phase := .compute, bound := false, begun := false, ended := false, cause := 0, steps := 0, saveSlot := none }

def LaunchQueue.reset : LaunchQueue :=
  { base := 0, tail := 0, head := 0, logd := 0, pre := false, prio := 0, enabled := false, count := 0 }

def Head.reset : Head := { leases := none, waitsCtx := none, waitsVa := 0, asked := false, age := 0 }

def Chan.reset : Chan := { count := 0, waiting := 0, held := none }

/-- AFPCFG resets to TLOSS 4,000 and BURST 64 with EN = 0; CKPT is 1 for ports 22 to 31 (R251, R266). -/
def Port.reset (p : Nat) : Port :=
  { cfg := if 22 ≤ p then 0x00000FA000400002 else 0x00000FA000400000, lit := false, gen := 0, held := false, circuit := none, changed := 0, resets := [], down := false }

def Peer.reset : Peer := { nextSend := 0, window := [], nextRecv := 0, gen := 0, again := [] }

/-- ESCR and ESLC of a level after reset (R110, R111): LSTORE, SLICE and HBM scrub, LOGM is 1. -/
def ErrBlock.reset (level : Nat) : ErrBlock :=
  { escr :=
      if level = 1 ∨ level = 3 then 0x04000011 else if level = 5 then 0x40000011 else 0x10,
    cor := 0, unc := 0, eslc := if level = 3 then 0x1E0040 else 0, log := [] }

/-- CTMP resets to RATE 1,536 and LEVEL 4,096 (R229); the supply is 0.50 V nominal (R10). -/
def Column.reset : Column := { rate := 1536, milli := 4096000, volts := 500, frozen := false }

/-- The package after cold reset (R266): every context holds no task. -/
def State.reset : State :=
  { cores := [], squares := [], contexts := [], slices := [], lending := 0, heldLeaves := [], lines := [], mem := [], memPois := [], hbmPois := [], lost := none,
    columns := [], tempoQueue := [], ceiling := 4095, clock := 0, offset := 0, queues := [], heads := [], lastQueue := 15,
    launches := [], launchId := 0, rehomed := [], moving := [], invals := [], msgs := [], msgId := 0, reds := [], redId := 0,
    undo := [], ports := [], peers := [], afmw := 0x140032, errs := [], heqb := 0, heqctl := 0, hapb := 0,
    bootst := 0, bootFailed := false, fusedVersion := 0, hostEvents := [], outbox := [], sentFrames := [], delivered := [],
    sentAcks := [], sentTokens := [], inbound := [], inboundNo := 0, msix := [], grandmaster := 0, timeSource := none, sentSyncs := [], sentGrants := [], exports := [], admitted := [],
    joined := [], saveSeq := 0, coldResets := 0, lmsIndex := 0, reports := [], checkpointing := false,
    probes := [], probeId := 0, reserves := [], failedLinks := [],
    agenda := [], cur := 0, turns := [], stalled := false, delays := [], errors := [], shadowErrors := [], peeks := [], freeCount := 0 }

end Sys2Proof.Machine
end

