-- ==== Sys2Proof/Machine/Operands.lean ====
section
/-! DEFINITION. Operand forms and integer arithmetic (R312, R334 to R340, R347 to R349, R405, R406, R309). -/

namespace Sys2Proof.Machine

/-- Width in bits that an SZ field selects (R334). -/
def szBits (s : BitVec 2) : Nat := 8 * 2 ^ s.toNat

/-- The low `w` bits of a dword. -/
def lowBits (w : Nat) (x : Dword) : Nat := x.toNat % 2 ^ w

/-- Sx: `w` bits read as two's complement (R335). -/
def sx (w a : Nat) : Int := if 2 * a < 2 ^ w then a else (a : Int) - 2 ^ w

/-- SignExtend(R mod 2^w, w) into a dword (R335). -/
def signExt (w : Nat) (r : Int) : Dword := BitVec.ofInt 64 (sx w (r % 2 ^ w).toNat)

/-- A predicate's result, 1 or 0. -/
def boolDword (p : Bool) : Dword := if p then 1 else 0

/-- A 15-, 14- or 20-bit immediate sign-extended to a dword (R312). -/
def immDword {n : Nat} (i : BitVec n) : Dword := i.signExtend 64

/-- Bits of `a` rotated left by `k` within `w` bits. -/
def rotl (w a k : Nat) : Nat := (a * 2 ^ k + a / 2 ^ (w - k)) % 2 ^ w

/-- The operations of R335 in their order. -/
inductive IntOp where
  | add | sub | and | or | xor | andn | sll | srl | sra | rol | ror | slt | sltu | seq
  | min | max | minu | maxu
  deriving DecidableEq, Repr

/-- R335: the value written for width `w`. -/
def IntOp.eval (op : IntOp) (w : Nat) (x y : Dword) : Dword :=
  let a := lowBits w x
  let b := lowBits w y
  match op with
  | .add => signExt w (a + b)
  | .sub => signExt w (a - b)
  | .and => signExt w (a &&& b : Nat)
  | .or => signExt w (a ||| b : Nat)
  | .xor => signExt w (a ^^^ b : Nat)
  | .andn => signExt w (a &&& (2 ^ w - 1 - b) : Nat)
  | .sll => signExt w (a * 2 ^ (b % w) : Nat)
  | .srl => signExt w (a / 2 ^ (b % w) : Nat)
  | .sra => signExt w (sx w a / 2 ^ (b % w))
  | .rol => signExt w (rotl w a (b % w))
  | .ror => signExt w (rotl w a ((w - b % w) % w))
  | .slt => boolDword (decide (sx w a < sx w b))
  | .sltu => boolDword (decide (a < b))
  | .seq => boolDword (decide (a = b))
  | .min => signExt w (if sx w a ≤ sx w b then a else b : Nat)
  | .max => signExt w (if sx w a ≥ sx w b then a else b : Nat)
  | .minu => signExt w (if a ≤ b then a else b : Nat)
  | .maxu => signExt w (if a ≥ b then a else b : Nat)

/-- The operations of R336 in their order. -/
inductive MulOp where
  | mul | mulh | mulhu | madd | div | divu | rem | remu
  deriving DecidableEq, Repr

/-- Truncated division of R336 and R309, of `w`-bit values. -/
def divT (w : Nat) (a b : Int) : Int := if b = 0 then 2 ^ w - 1 else a.tdiv b
def remT (a b : Int) : Int := if b = 0 then a else a.tmod b

/-- R336: the value written; `z` is the destination's old value. -/
def MulOp.eval (op : MulOp) (w : Nat) (x y z : Dword) : Dword :=
  let a := lowBits w x
  let b := lowBits w y
  match op with
  | .mul => signExt w (a * b)
  | .mulh => signExt w (sx w a * sx w b / 2 ^ w)
  | .mulhu => signExt w (a * b / 2 ^ w : Nat)
  | .madd => signExt w (lowBits w z + a * b)
  | .div => signExt w (divT w (sx w a) (sx w b))
  | .divu => signExt w (divT w a b)
  | .rem => signExt w (remT (sx w a) (sx w b))
  | .remu => signExt w (remT a b)

/-- Trailing zeros of `a` below bit `k`; `k` when there is none set. -/
def ctzTo (a : Nat) : Nat → Nat → Nat
  | 0, i => i
  | k + 1, i => if a.testBit i then i else ctzTo a k (i + 1)

/-- Set bits among the low `k`. -/
def popTo (a : Nat) : Nat → Nat
  | 0 => 0
  | k + 1 => (if a.testBit k then 1 else 0) + popTo a k

/-- The low `k` bits reversed. -/
def revTo (a : Nat) : Nat → Nat
  | 0 => 0
  | k + 1 => (if a.testBit k then 1 else 0) + 2 * revTo a k

/-- The low `k` bytes reversed. -/
def swapTo (a : Nat) : Nat → Nat
  | 0 => 0
  | k + 1 => a / 256 ^ k % 256 + 256 * swapTo a k

/-- The unary operations of R336. -/
inductive CountOp where
  | clz | ctz | popc | brev | bswap
  deriving DecidableEq, Repr

def CountOp.eval (op : CountOp) (w : Nat) (x : Dword) : Dword :=
  let a := lowBits w x
  match op with
  | .clz => signExt w (if a = 0 then w else w - 1 - a.log2 : Nat)
  | .ctz => signExt w (ctzTo a w 0)
  | .popc => signExt w (popTo a w)
  | .brev => signExt w (revTo a w)
  | .bswap => signExt w (swapTo a (w / 8))

/-- The carry-less product of `a` with the low `k` bits of `b`. -/
def clmulTo (a b : Nat) : Nat → Nat
  | 0 => 0
  | k + 1 => clmulTo a b k ^^^ (if b.testBit k then a * 2 ^ k else 0)

/-- EXTR (R348). -/
def extrVal (a b : Dword) (x : Bool) : Dword :=
  let pos := bitsOf b.toNat 0 6
  let len := bitsOf b.toNat 8 6 + 1
  let f := bitsOf a.toNat pos len
  if x then signExt len f else BitVec.ofNat 64 f

/-- INS (R348). -/
def insVal (d a b : Dword) : Dword :=
  let pos := bitsOf b.toNat 0 6
  let len := bitsOf b.toNat 8 6 + 1
  let m : Dword := BitVec.ofNat 64 ((2 ^ len - 1) * 2 ^ pos)
  (d &&& ~~~m) ||| ((a <<< pos) &&& m)

/-- The six branch conditions (R349). -/
inductive Cond where
  | eq | ne | lt | ge | ltu | geu
  deriving DecidableEq, Repr

def Cond.holds (c : Cond) (a b : Dword) : Bool :=
  match c with
  | .eq => decide (a = b)
  | .ne => decide (a ≠ b)
  | .lt => a.slt b
  | .ge => !a.slt b
  | .ltu => a.ult b
  | .geu => !a.ult b

/-- The target of a branch or jump `off` words away (R312). -/
def wordTarget (pc off : Dword) : Dword := pc + (off <<< 2)

/-! ## Lanes -/

/-- Lane `i` of a row (R6). -/
def lane (r : Row) (i : Nat) : Nat := bitsOf r.toNat (32 * i) 32

/-- The 64 lanes of a row, lane 0 first. -/
def lanes (r : Row) : List Nat := (List.range 64).map (lane r)

/-- The 128 halves of a row. -/
def halves (r : Row) : List Nat := (List.range 128).map (fun i => bitsOf r.toNat (16 * i) 16)

/-- A row from its lanes. -/
def rowOfLanes (ls : List Nat) : Row := BitVec.ofNat 2048 (packCodes 32 ls)

/-- The bytes of a row, byte 0 first. -/
def rowBytes (r : Row) : List Byte := natBytes 256 r.toNat

/-- A row from its bytes. -/
def rowOfBytes (bs : List Byte) : Row := BitVec.ofNat 2048 (bytesNat bs)

/-- A row with every lane `v`. -/
def rowSplat (v : Nat) : Row := rowOfLanes (List.replicate 64 v)

/-- Integer lane operations of R405 and R406. -/
inductive LaneOp where
  | add | sub | mul | mulh | mulhu | min | minu | max | maxu | and | or | xor | andn | shl | shr | sra
  deriving DecidableEq, Repr

def LaneOp.eval (op : LaneOp) (a b : Nat) : Nat :=
  let m (i : Int) : Nat := (i % 2 ^ 32).toNat
  match op with
  | .add => (a + b) % 2 ^ 32
  | .sub => m ((a : Int) - b)
  | .mul => a * b % 2 ^ 32
  | .mulh => m (sx 32 a * sx 32 b / 2 ^ 32)
  | .mulhu => a * b / 2 ^ 32
  | .min => if sx 32 a ≤ sx 32 b then a else b
  | .minu => if a ≤ b then a else b
  | .max => if sx 32 a ≥ sx 32 b then a else b
  | .maxu => if a ≥ b then a else b
  | .and => a &&& b
  | .or => a ||| b
  | .xor => a ^^^ b
  | .andn => a &&& (2 ^ 32 - 1 - b)
  | .shl => a * 2 ^ (b % 32) % 2 ^ 32
  | .shr => a / 2 ^ (b % 32)
  | .sra => m (sx 32 a / 2 ^ (b % 32))

/-- Atomic operations of R369 on `w`-bit values; `d` is AMOCAS's compare value. Not AMOFADD. -/
def Rmw.eval (op : Rmw) (w m b d : Nat) : Nat :=
  match op with
  | .add => (m + b) % 2 ^ w
  | .and => m &&& b
  | .or => m ||| b
  | .xor => m ^^^ b
  | .min => if sx w m ≤ sx w b then m else b
  | .max => if sx w m ≥ sx w b then m else b
  | .minu => if m ≤ b then m else b
  | .maxu => if m ≥ b then m else b
  | .swp => b
  | .cas => if m = d then b else m
  | .fadd =>
    let f := if w = 64 then Fmt.f64 else Fmt.f32
    if m = f.poison ∨ b = f.poison then f.poison else (f.round .rne (FVal.add .rne (f.val m) (f.val b))).bits

end Sys2Proof.Machine
end

