-- ==== Sys2Proof/Machine/Mem.lean ====
section
/-! DEFINITION. Access to the parts of State: units, registers, taint, memories with poison, host events. -/

namespace Sys2Proof.Machine

/-! ## Units -/

/-- The core of a physical core number (R3). -/
def State.core (s : State) (c : Nat) : Core := Map.get Core.reset s.cores c
def State.setCore (s : State) (c : Nat) (k : Core) : State := { s with cores := Map.put s.cores c k }
def State.modCore (s : State) (c : Nat) (f : Core → Core) : State := s.setCore c (f (s.core c))
/-- The core whose turn it is. -/
def State.me (s : State) : Core := s.core s.cur
def State.setMe (s : State) (k : Core) : State := s.setCore s.cur k
def State.modMe (s : State) (f : Core → Core) : State := s.setMe (f s.me)

/-- The square of a core (R3). -/
def squareOf (c : Nat) : Nat := c / 4
/-- The cores of a square. -/
def coresOf (sq : Nat) : List Nat := (List.range 4).map (4 * sq + ·)
/-- The column of a square: its x and y (R10). -/
def columnOf (sq : Nat) : Nat := sq % 256

def State.square (s : State) (q : Nat) : Square := Map.get Square.reset s.squares q
def State.setSquare (s : State) (q : Nat) (k : Square) : State := { s with squares := Map.put s.squares q k }
def State.modSquare (s : State) (q : Nat) (f : Square → Square) : State := s.setSquare q (f (s.square q))
def State.context (s : State) (n : Nat) : Context := Map.get Context.reset s.contexts n
def State.modContext (s : State) (n : Nat) (f : Context → Context) : State :=
  { s with contexts := Map.put s.contexts n (f (s.context n)) }
def State.slice (s : State) (n : Nat) : Slice := Map.get Slice.reset s.slices n
def State.modSlice (s : State) (n : Nat) (f : Slice → Slice) : State :=
  { s with slices := Map.put s.slices n (f (s.slice n)) }
def State.column (s : State) (n : Nat) : Column := Map.get Column.reset s.columns n
def State.modColumn (s : State) (n : Nat) (f : Column → Column) : State :=
  { s with columns := Map.put s.columns n (f (s.column n)) }
def State.launch? (s : State) (id : Nat) : Option Launch := Map.find? s.launches id
def State.modLaunch (s : State) (id : Nat) (f : Launch → Launch) : State :=
  match s.launch? id with
  | some l => { s with launches := Map.put s.launches id (f l) }
  | none => s
def State.lqueue (s : State) (q : Nat) : LaunchQueue := Map.get LaunchQueue.reset s.queues q
def State.modLqueue (s : State) (q : Nat) (f : LaunchQueue → LaunchQueue) : State :=
  { s with queues := Map.put s.queues q (f (s.lqueue q)) }
def State.err (s : State) (l : Nat) : ErrBlock := Map.get (ErrBlock.reset l) s.errs l
def State.modErr (s : State) (l : Nat) (f : ErrBlock → ErrBlock) : State :=
  { s with errs := Map.put s.errs l (f (s.err l)) }
def State.port (s : State) (i : Nat) : Port := Map.get (Port.reset i) s.ports i
def State.modPort (s : State) (i : Nat) (f : Port → Port) : State :=
  { s with ports := Map.put s.ports i (f (s.port i)) }
def Launch.task (l : Launch) (i : Nat) : Task := Map.get Task.reset l.tasks i
def Launch.modTask (l : Launch) (i : Nat) (f : Task → Task) : Launch :=
  { l with tasks := Map.put l.tasks i (f (l.task i)) }

/-! ## The launch record (R191 to R195) -/

/-- Bits [lo + len - 1 : lo] of the record. -/
def Launch.fld (l : Launch) (lo len : Nat) : Nat := bitsOf l.record.toNat lo len
def Launch.ctx (l : Launch) : Nat := l.fld 34 6
def Launch.nlvl (l : Launch) : Nat := l.fld 8 4
def Launch.gang (l : Launch) : Bool := l.fld 17 1 == 1
def Launch.dbl (l : Launch) : Bool := l.fld 18 1 == 1
def Launch.tb (l : Launch) : Bool := l.fld 19 1 == 1
def Launch.sxc (l : Launch) : Bool := l.fld 20 1 == 1
def Launch.solv (l : Launch) : Bool := l.fld 21 1 == 1
def Launch.scr (l : Launch) : Nat := l.fld 22 2
def Launch.phx (l : Launch) : Nat := l.fld 24 2
def Launch.lag (l : Launch) : Nat := l.fld 26 4
def Launch.weight (l : Launch) : Nat := l.fld 30 4
def Launch.entry (l : Launch) : Nat := 4 * l.fld 66 62
def Launch.arg (l : Launch) : Nat := l.fld 128 64
def Launch.nx (l : Launch) : Nat := l.fld 524 4 + 1
def Launch.ny (l : Launch) : Nat := l.fld 528 4 + 1
def Launch.nz (l : Launch) : Nat := l.fld 532 3 + 1
def Launch.nc (l : Launch) : Nat := l.fld 536 2 + 1
def Launch.squares (l : Launch) : Nat := l.nx * l.ny * l.nz
def Launch.count (l : Launch) : Nat := l.squares * l.nc
def Launch.cmpl (l : Launch) : Nat := l.fld 896 64
def Launch.chtab (l : Launch) : Nat := l.fld 768 64
/-- Level descriptor i (R192): domain, scope, BARR. -/
def Launch.dom (l : Launch) (i : Nat) : Nat := l.fld (256 + 32 * i) 4
def Launch.lscope (l : Launch) (i : Nat) : Nat := l.fld (260 + 32 * i) 3
def Launch.barr (l : Launch) (i : Nat) : Bool := decide (i < l.nlvl) && l.fld (263 + 32 * i) 1 == 1
/-- Tile-buffer descriptor i (R194). -/
def Launch.tbRole (l : Launch) (i : Nat) : Nat := l.fld (640 + 32 * i + 25) 2
def Launch.tbRem (l : Launch) (i : Nat) : Bool := l.fld (640 + 32 * i + 27) 1 == 1
def Launch.tbLen (l : Launch) (i : Nat) : Nat := 256 * l.fld (640 + 32 * i + 13) 12
def Launch.tbBase (l : Launch) (i : Nat) : Nat := 256 * l.fld (640 + 32 * i) 13

/-- The superstep domain's level: the lowest with BARR = 1 (R201). -/
def Launch.domainLevel (l : Launch) : Option Nat := (List.range 8).find? l.barr
/-- The global level: the highest with BARR = 1 (R201). -/
def Launch.globalLevel (l : Launch) : Option Nat := (List.range 8).reverse.find? l.barr

/-- Virtual square index of task `t`, and its offset in the box (R195). -/
def Launch.sqIndex (l : Launch) (t : Nat) : Nat := t / l.nc
def Launch.offX (l : Launch) (t : Nat) : Nat := l.sqIndex t % l.nx
def Launch.offY (l : Launch) (t : Nat) : Nat := l.sqIndex t / l.nx % l.ny
def Launch.offZ (l : Launch) (t : Nat) : Nat := l.sqIndex t / (l.nx * l.ny)
def Launch.vx (l : Launch) (t : Nat) : Nat := (l.fld 512 4 + l.offX t) % 16
def Launch.vy (l : Launch) (t : Nat) : Nat := (l.fld 516 4 + l.offY t) % 16
def Launch.vz (l : Launch) (t : Nat) : Nat := (l.fld 520 3 + l.offZ t) % 8
def Launch.coreIx (l : Launch) (t : Nat) : Nat := t % l.nc
/-- The virtual global core number of a task (R3, R195). -/
def Launch.vcore (l : Launch) (t : Nat) : Nat :=
  ((l.vz t * 16 + l.vy t) * 16 + l.vx t) * 4 + l.coreIx t
/-- The task on a virtual global core, if the box holds it. -/
def Launch.taskAt (l : Launch) (v : Nat) : Option Nat := (List.range l.count).find? (fun t => l.vcore t == v)
/-- Whether every task of a launch has ended. -/
def Launch.isOver (l : Launch) : Bool := (List.range l.count).all (fun t => (l.task t).ended)
/-- The physical core of a task (R198). -/
def Launch.pcore (l : Launch) (t : Nat) : Nat := 4 * (l.place.getD (l.sqIndex t) 0) + l.coreIx t

/-- The instance of level `lv` that holds task `t`, as a number (R192). -/
def Launch.instOf (l : Launch) (lv t : Nat) : Nat :=
  match l.dom lv with
  | 0 => t
  | 1 => l.sqIndex t
  | 2 => l.vz t * 16 + l.vy t
  | 3 => l.vz t
  | _ => 0
/-- The tasks of an instance, ascending. -/
def Launch.instTasks (l : Launch) (lv inst : Nat) : List Nat :=
  (List.range l.count).filter (fun t => l.instOf lv t == inst)

/-- The leases of R32: base, bytes, stores permitted. -/
def Launch.leases (l : Launch) : List (Nat × Nat × Bool) :=
  (List.range 8).filterMap (fun i =>
    let lo := 1024 + 128 * i
    if l.fld (lo + 106) 1 = 1 then
      some (65536 * l.fld (lo + 16) 48, 65536 * l.fld (lo + 64) 41, l.fld (lo + 105) 1 == 1)
    else none)

/-- The launch and task bound to a core. -/
def State.launchOf (s : State) (c : Nat) : Option (Nat × Nat × Launch) :=
  match (s.core c).task with
  | some (id, t) => (s.launch? id).map (fun l => (id, t, l))
  | none => none
/-- The context that runs on a core; 0 where none does. -/
def State.ctxOf (s : State) (c : Nat) : Nat :=
  match s.launchOf c with
  | some (_, _, l) => l.ctx
  | none => 0

/-! ## Registers -/

/-- A scalar register; s0 reads zero (R182). -/
def Core.x (k : Core) (r : R5) : Dword := if r = 0 then 0 else Map.get 0 k.arch.regs r.toNat
/-- Its side bit; s0's is clear (R333). -/
def Core.sideOf (k : Core) (r : R5) : Bool := r != 0 && k.arch.side.getLsbD r.toNat
/-- The taint of a register; s0's is empty (R135). -/
def Core.taintOf (k : Core) (r : Nat) : Taint := if r = 0 then Taint.clean else Map.get Taint.clean k.taint r

/-- Bit `i` of a vector set to `p`. -/
def setBit {n : Nat} (v : BitVec n) (i : Nat) (p : Bool) : BitVec n :=
  if p then v ||| BitVec.twoPow n i else v &&& ~~~(BitVec.twoPow n i)

def Core.setTaint (k : Core) (r : Nat) (t : Taint) : Core :=
  if r = 0 then k else { k with taint := Map.set Taint.clean k.taint r t }

/-- Writes a scalar register, its side bit and its taint; a write to s0 is discarded (R182). A load that has read its
address there early performs again (R138). -/
def Core.setX (k : Core) (r : R5) (v : Dword) (p : Bool) (t : Taint) : Core :=
  if r = 0 then k
  else
    let k := k.setTaint r.toNat t
    { k with
      early := k.early.filter (fun e => !e.regs.contains r.toNat)
      arch := { k.arch with regs := Map.set 0 k.arch.regs r.toNat v, side := setBit k.arch.side r.toNat p } }

/-- Row designator's number: 16 tile + row (R312). -/
def rowNo (r : R7) : Nat := r.toNat
def Core.row (k : Core) (r : Nat) : Row := Map.get 0 k.arch.rows r
def Core.rowSideOf (k : Core) (r : Nat) : Bool := k.arch.rowSide.getLsbD r
def tileTaint (r : Nat) : Nat := 32 + r / 16
def Core.setRow (k : Core) (r : Nat) (v : Row) (p : Bool) : Core :=
  { k with arch := { k.arch with rows := Map.set 0 k.arch.rows r v, rowSide := setBit k.arch.rowSide r p } }

/-- The union of two taint sets (R135): more than eight references saturate. -/
def Taint.union (loads : Map Nat) (a b : Taint) : Taint :=
  let refs := (List.range 32).filter (fun i => a.refs.contains i || b.refs.contains i)
  let marks := (a.mark.toList ++ b.mark.toList)
  if marks.isEmpty && decide (refs.length ≤ 8) then { refs := refs, mark := none }
  else { refs := [], mark := some ((marks ++ refs.map (Map.get 0 loads)).foldl max 0) }

/-- The union of the taints of several registers (R136). -/
def Core.taints (k : Core) (rs : List Nat) : Taint :=
  rs.foldl (fun t r => t.union k.loads (k.taintOf r)) Taint.clean

def Taint.isEmpty (t : Taint) : Bool := t.refs.isEmpty && t.mark.isNone

/-- A taint set after the load in `slot` has performed (R137). -/
def Taint.drop (slot : Nat) (loads : Map Nat) (t : Taint) : Taint :=
  { refs := t.refs.filter (· != slot),
    mark := match t.mark with
      | some n => if loads.any (fun e => e.1 != slot && decide (e.2 ≤ n)) then some n else none
      | none => none }

/-- Frees a slot: every reference to it is removed (R137). -/
def Core.freeSlot (k : Core) (slot : Nat) : Core :=
  let loads' := Map.erase k.loads slot
  let qs := k.arch.queues.map (fun e => (e.1, e.2.map (fun q => { q with taint := q.taint.drop slot k.loads })))
  { k with
    loads := loads',
    taint := (k.taint.map (fun e => (e.1, e.2.drop slot k.loads))).filter (fun e => !e.2.isEmpty),
    inflight := k.inflight.map (fun a => { a with taint := a.taint.drop slot k.loads }),
    arch := { k.arch with queues := qs } }

/-- A free slot of the outstanding-load table (R134), the lowest-numbered (notes/assumptions/43.md). -/
def Core.freeSlotNo (k : Core) : Option Nat := (List.range 32).find? (fun i => !Map.has k.loads i)

/-- Takes a slot for a load: its number, and the core with the slot taken. -/
def Core.takeSlot (k : Core) : Option (Nat × Core) :=
  k.freeSlotNo.map (fun i =>
    (i, { k with loads := Map.put k.loads i (k.loadSeq + 1), loadSeq := k.loadSeq + 1 }))

def Core.queue (k : Core) (q : Nat) : List QEntry := Map.get [] k.arch.queues q
def Core.setQueue (k : Core) (q : Nat) (es : List QEntry) : Core :=
  { k with arch := { k.arch with queues := Map.set [] k.arch.queues q es } }

/-- A parity error in a taint set (R144), of a scalar register, a tile (32 + t) or the head entry of a queue (40 + q): it
saturates, its mark at the youngest issued load; with no load outstanding every load up to the mark has performed. -/
def Core.saturate (k : Core) (r : Nat) : Core :=
  let t : Taint := if k.loads.isEmpty then Taint.clean else { refs := [], mark := some k.loadSeq }
  if r < 40 then k.setTaint r t
  else match k.queue (r - 40) with
    | e :: es => k.setQueue (r - 40) ({ e with taint := t } :: es)
    | [] => k

/-- Sets flags in RMODE (R303, R306). -/
def Core.orFlags (k : Core) (f : Dword) : Core := { k with arch := { k.arch with rmode := k.arch.rmode ||| f } }

/-! ## Device memory (R14, R105, R283) -/

/-- What an unlisted address reads as: 0 (R266), or a free byte once memory has been lost (R263). -/
def unlisted (lost : Option Nat) (a : Nat) : Byte :=
  match lost with
  | none => 0
  | some n => Config.lostByte n a

/-- The canonical form of a memory: addresses rise strictly, no entry equals what it reads as unlisted. -/
def Memory.wf (lost : Option Nat) (m : List Host.Cell) : Bool :=
  Map.sortedFrom 0 m && m.all (fun e => decide (e.2 ≠ unlisted lost e.1))

/-- Reads one byte. -/
def Memory.read (lost : Option Nat) (m : List Host.Cell) (a : Nat) : Byte := Map.get (unlisted lost a) m a
/-- Writes one byte. -/
def Memory.write (lost : Option Nat) (m : List Host.Cell) (a : Nat) (v : Byte) : List Host.Cell :=
  Map.set (unlisted lost a) m a v

/-- Writes consecutive bytes. -/
def Memory.writeAll (lost : Option Nat) : List Host.Cell → Nat → List Byte → List Host.Cell
  | m, _, [] => m
  | m, a, b :: bs => Memory.writeAll lost (Memory.write lost m a b) (a + 1) bs

def State.rd (s : State) (pa : Nat) : Byte := Memory.read s.lost s.mem pa
def State.rdPois (s : State) (pa : Nat) : Bool := Map.get false s.memPois (pa / 32)
def State.rdBytes (s : State) (pa n : Nat) : PBytes :=
  (List.range n).map (fun i => (s.rd (pa + i), s.rdPois (pa + i)))
/-- An 8-byte little-endian read. -/
def State.rd8 (s : State) (pa : Nat) : Nat := bytesNat ((s.rdBytes pa 8).map (·.1))

/-- The poison bits of granules after a write of `bs` at `a` (R283): whole granules take their data's poison,
parts only set it. -/
def poisonAfter (m : Map Bool) (a : Nat) (bs : PBytes) : Map Bool :=
  let lo := a / 32
  let hi := (a + bs.length + 31) / 32
  (List.range (hi - lo)).foldl (fun m i =>
    let g := lo + i
    let from' := if 32 * g < a then 0 else 32 * g - a
    let upto := 32 * g + 32 - a
    let p := ((bs.take upto).drop from').any (·.2)
    let whole := decide (a ≤ 32 * g) && decide (32 * g + 32 ≤ a + bs.length)
    if p then Map.set false m g true else if whole then Map.set false m g false else m) m

/-- Writes bytes with their poison to device memory. -/
def State.wrBytes (s : State) (pa : Nat) (bs : PBytes) : State :=
  { s with mem := Memory.writeAll s.lost s.mem pa (bs.map (·.1)), memPois := poisonAfter s.memPois pa bs }

/-! ## Local store (R49 to R60) -/

def Core.lsRd (k : Core) (a : Nat) : Byte := Memory.read none k.ls a
def Core.lsRdPois (k : Core) (a : Nat) : Bool := Map.get false k.lsPois (a / 32)
def Core.lsBytes (k : Core) (a n : Nat) : PBytes :=
  (List.range n).map (fun i => (k.lsRd (a + i), k.lsRdPois (a + i)))
def Core.lsWrite (k : Core) (a : Nat) (bs : PBytes) : Core :=
  { k with ls := Memory.writeAll none k.ls a (bs.map (·.1)), lsPois := poisonAfter k.lsPois a bs }

/-- Usable bytes of a layer (R66, R67). -/
def Layer.usable (l : Layer) : Nat :=
  match l.carved with
  | none => 0x100000
  | some rs => 0x40000 * rs.length

def Core.layer (k : Core) (b : Bool) : Layer := if b then k.layerB else k.layerA
def Core.setLayer (k : Core) (b : Bool) (l : Layer) : Core :=
  if b then { k with layerB := l } else { k with layerA := l }
def Core.bank (k : Core) (i : Nat) : Bank := Map.get Bank.reset k.banks i
def Core.bus (k : Core) (i : Nat) : Bus := Map.get Bus.reset k.buses i

/-- The bank that holds a byte of the local store (R50, R66): bank `i` of layer B is 16 + `i`. -/
def Core.bankAt (k : Core) (a : Nat) : Nat :=
  let b := decide (2 ^ 20 ≤ a)
  let o := a % 2 ^ 20
  (if b then 16 else 0) + match (k.layer b).carved with
    | none => 4 * bitsOf o 6 2 + bitsOf o 18 2
    | some rs => 4 * rs.getD (bitsOf o 18 2) 0 + bitsOf o 16 2

/-- Whether a bank's reserve serves the journal (R76): it is powered, behind a live bus, neither promoted nor about to
be. -/
def Core.bankServes (k : Core) (i : Nat) : Bool :=
  let l := k.layer (decide (16 ≤ i))
  l.on && l.live.getLsbD (i % 16 / 4) && !(k.bank i).promoted && !(k.bank i).waiting

/-- Journal capacity (R76): 64 sectors for each bank that serves it. -/
def Core.jcap (k : Core) : Nat := 64 * ((List.range 32).filter k.bankServes).length

/-- Journal entries that a bank's reserve holds (R75). -/
def Core.reserveHolds (k : Core) (i : Nat) : Nat := (k.journal.filter (fun e => e.2.2.2 == i)).length

/-- The bank whose reserve takes the next journal entry: the lowest-numbered with room (notes/assumptions/44.md). -/
def Core.journalBank (k : Core) : Option Nat :=
  (List.range 32).find? (fun i => k.bankServes i && decide (k.reserveHolds i < 64))

/-- LSSIZE (R67). -/
def Core.lssize (k : Core) : Dword :=
  let sz (l : Layer) := match l.carved with | none => 4 | some rs => rs.length
  BitVec.ofNat 64 (k.jcap + 2 ^ 16 * sz k.layerA + 2 ^ 20 * sz k.layerB
    + 2 ^ 24 * k.layerA.live.toNat + 2 ^ 28 * k.layerB.live.toNat)
/-- LSPRM (R73). -/
def Core.lsprm (k : Core) : Dword :=
  BitVec.ofNat 64 (((List.range 32).filter (fun i => (k.bank i).promoted)).foldl (fun a i => a + 2 ^ i) 0)
/-- LPWR (R56). -/
def Core.lpwr (k : Core) : Dword :=
  let b (p : Bool) (i : Nat) := if p then 2 ^ i else 0
  BitVec.ofNat 64 (b k.layerA.want 0 + b k.layerB.want 1 + b k.layerA.busy 2 + b k.layerB.busy 3)

/-! ## Host events and error logs -/

/-- The game clock of a square (R245). -/
def State.clockOf (s : State) (sq : Nat) : Dword := s.clock + BitVec.ofInt 64 (s.square sq).clockAdj

/-- A 32-byte entry of the host ring (R261). -/
def HostEvent.bytes (e : HostEvent) : List Byte :=
  natBytes 32 (e.code.toNat + 256 * e.ctx.toNat + 2 ^ 64 * e.arg.toNat + 2 ^ 128 * e.clock.toNat)

/-- The spans of [va, va + size) between multiples of `unit`: start, size, place. -/
def spans (unit va size : Nat) : List (Nat × Nat × Nat) :=
  let first := va / unit
  let last := (va + size - 1) / unit
  if size = 0 then []
  else (List.range (last + 1 - first)).map (fun i =>
    let lo := max va ((first + i) * unit)
    let hi := min (va + size) ((first + i + 1) * unit)
    (lo, hi - lo, lo - va))

/-- Data cut into payloads of `m` bytes at the most; `n` bounds their number (R250, R260). -/
def payloads (m : Nat) : Nat → Nat → List Byte → List (Nat × List Byte)
  | 0, _, _ => []
  | n + 1, ofs, bs => if bs.length ≤ m then [(ofs, bs)] else (ofs, bs.take m) :: payloads m n (ofs + m) (bs.drop m)

/-- A transfer as the payloads of its frames, at most 4,096 bytes each (R254); to and from the host at most 512 bytes, and
4,096 in a read request (R260). -/
def Outgoing.pieces (o : Outgoing) : List Outgoing :=
  let host := o.dev == 2 ^ 18
  let m := if host then 512 else 4096
  if host && o.what.kind == .load then
    (spans 4096 o.what.ofs o.what.size).map (fun sp => { o with what := { o.what with ofs := sp.1, size := sp.2.1 } })
  else if o.what.data.length ≤ m then [o]
  else (payloads m (o.what.data.length / m + 1) o.what.ofs o.what.data).map (fun e =>
    { o with what := { o.what with ofs := e.1, size := e.2.length, data := e.2 } })

/-- Hands transfers to the base die. -/
def State.sendOut (s : State) (os : List Outgoing) : State := { s with outbox := s.outbox ++ os.flatMap Outgoing.pieces }

/-- Posts an event to the host ring and signals MSI-X vector 0 (R261); a full ring drops and counts it.
DESIGN CHOICE (notes/assumptions/63.md): the count wraps. -/
def State.post (s : State) (code ctx : Nat) (arg : Dword) : State :=
  let v := s.heqctl.toNat
  let tail := bitsOf v 48 16
  let used := (tail + 65536 - bitsOf v 32 16) % 65536
  if 2 ^ bitsOf v 20 4 ≤ used then
    { s with heqctl := BitVec.ofNat 64 (v - bitsOf v 1 15 * 2 + (bitsOf v 1 15 + 1) % 32768 * 2) }
  else
    let e : HostEvent := { code := BitVec.ofNat 8 code, ctx := BitVec.ofNat 6 ctx, arg := arg, clock := s.clock }
    let slot := s.heqb.toNat / 4096 * 4096 + 32 * (tail % 2 ^ bitsOf v 20 4)
    { s with
      heqctl := BitVec.ofNat 64 (v - tail * 2 ^ 48 + (tail + 1) % 65536 * 2 ^ 48),
      hostEvents := s.hostEvents ++ [e], msix := s.msix ++ [0],
      outbox := s.outbox ++ [{ dev := 2 ^ 18, what := { kind := .store, key := 0, ofs := slot, size := 32, data := e.bytes } }] }

/-- Logs an event at an error level (R111, R112, R282). `src` is SRC. -/
def State.logError (s : State) (level : Nat) (unc : Bool) (src syn addr : Nat) : State :=
  let n := if unc then 1 else 0
  s.modErr level (fun b =>
    let logm := bitsOf b.escr.toNat 4 2
    let keep := if unc then decide (logm = 0 ∨ logm = 1) else decide (logm = 1)
    let entry : Dword := BitVec.ofNat 64 (2 ^ 63 + n * 2 ^ 62 + src * 2 ^ 60 + syn * 2 ^ 48 + addr % 2 ^ 48)
    { b with
      cor := if unc then b.cor else min (b.cor + 1) (2 ^ 32 - 1),
      unc := if unc then min (b.unc + 1) (2 ^ 32 - 1) else b.unc,
      log := if keep then (entry :: b.log).take 8 else b.log })

/-! ## Context registers (R18, R19, R457) -/

/-- The reset value of a context register. -/
def ctxCrReset (n : Nat) : Dword := if n = 0x49 then 240000 else if n = 0x0B then 0x358637BD else 0
def Context.cr (k : Context) (n : Nat) : Dword := Map.get (ctxCrReset n) k.written n
/-- The value in force of a latched register. -/
def Context.inf (k : Context) (n : Nat) : Dword := Map.get (ctxCrReset n) k.inForce n
/-- Whether a register is latched as HWB is (R19, R47, R160, R234, R273). -/
def isLatched (n : Nat) : Bool :=
  (decide (0x40 ≤ n) && decide (n ≤ 0x47)) || n == 0x4A || n == 0x4B || (decide (0x58 ≤ n) && decide (n ≤ 0x5F))

/-- Whether a context has a bound task. -/
def State.hasTask (s : State) (ctx : Nat) : Bool :=
  s.cores.any (fun e => match e.2.task with
    | some (id, _) => (match s.launch? id with | some l => l.ctx == ctx | none => false)
    | none => false)

/-- Written values take effect (R19). -/
def State.applyLatched (s : State) (ctx : Nat) : State :=
  s.modContext ctx (fun k => { k with inForce := k.written.filter (fun e => isLatched e.1) })

/-- A reserve entry's item has left its queue (R227). -/
def State.freeGrant (s : State) (queue : Nat) : State := { s with reserves := s.reserves.erase queue }

/-- The covered queues of R226 by number, 128 a square: router buffers from 0, the slice-request queue, each core's
copy-command, micro-operation, LQ and SQ, and branch-outcome queues. -/
def sliceReserve (sl : Nat) : Nat := 128 * sl + 64
def copyReserve (c : Nat) : Nat := 128 * (c / 4) + 65 + c % 4
def outcomeReserve (c : Nat) : Nat := 128 * (c / 4) + 97 + c % 4

/-- A queue descriptor of a slice (R100). -/
def Slice.qdesc (k : Slice) (q : Nat) : QDesc := Map.get QDesc.reset k.queues q

/-! ## Lines and their home slices (R86, R89, R92) -/

def Line.busy (l : Line) : Bool := l.filling != 0 || l.writing != 0
def State.line (s : State) (n : Nat) : Line := Map.get Line.reset s.lines n
def State.setLine (s : State) (n : Nat) (l : Line) : State := { s with lines := Map.set Line.reset s.lines n l }

/-- The home slice of a line, hashed as R86 or re-homed (R92). -/
def State.homeOf (s : State) (line : Nat) : Nat :=
  let h := (line % 2048) ^^^ (line / 2048 % 2048) ^^^ (line / 2 ^ 22 % 2048) ^^^ (line / 2 ^ 33 % 32)
  match Map.find? s.rehomed (line / 2048) with
  | some g => g.getD (h % max g.length 1) h
  | none => h

end Sys2Proof.Machine
end

