-- ==== Sys2Proof/Machine/Translate.lean ====
section
/-! DEFINITION. Translation and the checks of an access (R15 to R48, R52, R96). -/

namespace Sys2Proof.Machine

/-- What a trap records (R273): cause, sub-code, flags, and whether EPC names the next instruction. -/
structure TrapInfo where
  code : Nat
  sub : Nat := 0
  wrap : Bool := false
  walk : Bool := false
  deferred : Bool := false
  engine : Bool := false
  faddr : Dword := 0
  fstart : Dword := 0
  next : Bool := false
  /-- The stop falls between instructions, before the one at the program counter, which has not run. -/
  between : Bool := false
  deriving DecidableEq, Repr

namespace Cause
def illegal : Nat := 0x01
def priv : Nat := 0x02
def align : Nat := 0x03
def noncanon : Nat := 0x04
def lease : Nat := 0x05
def bounds : Nat := 0x06
def layerOff : Nat := 0x07
def shape : Nat := 0x08
def format : Nat := 0x09
def queue : Nat := 0x0A
def channel : Nat := 0x0B
def phase : Nat := 0x0C
def slotMiss : Nat := 0x0D
def flagFall : Nat := 0x0E
def break' : Nat := 0x0F
def syscall : Nat := 0x10
def poison : Nat := 0x11
def preempt : Nat := 0x12
def fifo : Nat := 0x13
def sa : Nat := 0x14
def qp : Nat := 0x15
def mismatch : Nat := 0x16
def phalanx : Nat := 0x19
def machineCheck : Nat := 0x1F
end Cause

/-- A trap with FADDR and FSTART. -/
def trapAt (code fa fs : Nat) : TrapInfo :=
  { code := code, faddr := BitVec.ofNat 64 fa, fstart := BitVec.ofNat 64 fs }

/-- Kinds of access that the checks tell apart (R22). -/
inductive Kind where
  | load | store | atomic | fetch
  deriving DecidableEq, Repr

def Kind.writes : Kind → Bool
  | .store => true
  | .atomic => true
  | _ => false

/-- Where the translation of an access stands: the part, with a hold on M = 1, or the trap. -/
inductive Checked (α : Type) where
  | ok (a : α)
  | hold
  | fault (t : TrapInfo)
  deriving Repr

/-- Canonical device-virtual addresses (R15). -/
def canonical (va : Nat) : Bool := decide (va < 2 ^ 56) || (decide (2 ^ 64 - 2 ^ 56 ≤ va) && decide (va < 2 ^ 64))

/-- The canonical check over every byte (R16). -/
def checkCanonical (va size start : Nat) : Option TrapInfo :=
  if !canonical va then some (trapAt Cause.noncanon va start)
  else if va < 2 ^ 56 then
    (if 2 ^ 56 < va + size then some (trapAt Cause.noncanon (2 ^ 56) start) else none)
  else if 2 ^ 64 < va + size then some { trapAt Cause.noncanon start start with wrap := true }
  else none

/-! ## Page tables (R26 to R29) -/

/-- The result of a walk. -/
inductive Walk where
  | leaf (pte : Nat) (size : Nat)
  | invalid
  | malformed
  deriving DecidableEq, Repr

def pteV (p : Nat) : Bool := p.testBit 0
def pteLeaf (p : Nat) : Bool := p.testBit 1
def pteW (p : Nat) : Bool := p.testBit 2
def pteX (p : Nat) : Bool := p.testBit 3
def pteP (p : Nat) : Bool := p.testBit 4
def pteSa (p : Nat) : Bool := p.testBit 5
def pteM (p : Nat) : Bool := p.testBit 6
def ptePa (p : Nat) : Nat := 256 * bitsOf p 8 40
def pteCa (p : Nat) : Nat := bitsOf p 48 2

/-- Page size of a leaf at a level. -/
def leafSize (level : Nat) : Nat := if level = 0 then 2 ^ 16 else if level = 1 then 2 ^ 21 else 2 ^ 30

/-- Whether a valid entry of a level is malformed (R28). -/
def pteBad (level p : Nat) : Bool :=
  let tableSize := if level = 1 then 256 else 4096
  bitsOf p 50 14 != 0 || p.testBit 7
    || (if pteLeaf p then
          decide (2 < level) || ptePa p % leafSize level != 0 || decide (Config.memTop < ptePa p + leafSize level)
        else
          level == 0 || pteCa p != 0 || pteM p || pteSa p || pteP p || pteX p || pteW p
            || ptePa p % tableSize != 0 || decide (Config.memTop < ptePa p + tableSize))

/-- The index of an address at a level (R26). -/
def pteIndex (level va : Nat) : Nat := if level = 0 then bitsOf va 16 5 else bitsOf va (12 + 9 * level) 9

/-- Walks the table at `table`, of level `fuel − 1`. -/
def walkFrom (s : State) (va : Nat) : Nat → Nat → Walk
  | 0, _ => .malformed
  | level + 1, table =>
    let p := s.rd8 (table + 8 * pteIndex level va)
    if !pteV p then .invalid
    else if pteBad level p then .malformed
    else if pteLeaf p then .leaf p (leafSize level)
    else walkFrom s va level (ptePa p)

/-- The walk from a context's root in force. -/
def State.walk (s : State) (ctx va : Nat) : Walk :=
  let root := 4096 * bitsOf ((s.context ctx).inf 0x43).toNat 12 36
  if Config.memTop < root + 4096 then .malformed else walkFrom s va 5 root

def State.asid (s : State) (ctx : Nat) : Nat := ((s.context ctx).inf 0x44).toNat % 65536

/-- A TLB entry that covers an address, in a unit's own TLB or the square's. -/
def tlbFind (es : List TlbEntry) (unit asid va : Nat) : Option TlbEntry :=
  es.find? (fun e => e.unit == unit && e.asid == asid && decide (e.va ≤ va) && decide (va < e.va + e.size))

/-- The kind under which a unit keeps the leaf that a held access met (R37), apart from its TLB proper. -/
def heldKind (unit : Nat) : Nat := unit + 8

/-- A walk for a transfer of the walker, the save engine or an eviction engine: a leaf that it holds stays until an
invalidation drops it (R37). -/
def State.walked (s : State) (ctx va : Nat) : Walk :=
  match tlbFind s.heldLeaves 0 (s.asid ctx) va with
  | some e => .leaf e.leaf.toNat e.size
  | none => s.walk ctx va

/-- TLB lookup, or a walk (R22, R30). `unit`: 0 access stream, 1 fetch, 2 copy engine, 4 an engine of the device. A unit
that holds an access keeps its leaf until an invalidation drops it (R37). DESIGN CHOICE (notes/assumptions/57.md): a context
whose ASID is 0, which LDVIR and STVIR may name, walks like any other. -/
def State.lookup (s : State) (core unit ctx va : Nat) : Walk :=
  let asid := s.asid ctx
  -- an entry of the square's that an invalidation which has reached this core will drop there
  let stale (e : TlbEntry) : Bool := s.invals.any (fun v => !v.2.revoke && v.2.asid == e.asid
    && decide (e.va < v.2.base + v.2.len) && decide (v.2.base < e.va + e.size)
    && !v.2.toReach.contains core && v.2.toReach.contains (8192 + squareOf core))
  if unit = 4 then s.walked ctx va
  else match (tlbFind (s.core core).tlb (heldKind unit) asid va).or (tlbFind (s.core core).tlb unit asid va) with
  | some e => .leaf e.leaf.toNat e.size
  | none =>
    match tlbFind (s.square (squareOf core)).tlb 3 asid va with
    | some e => if stale e then s.walk ctx va else .leaf e.leaf.toNat e.size
    | none => s.walk ctx va

/-- Such a transfer waits: it keeps the leaves with M = 1 that it met (R37). -/
def State.keepWalked (s : State) (ctx va size : Nat) : State :=
  (spans 65536 va size).foldl (fun s sp => match s.walked ctx sp.1 with
    | .leaf p n =>
      if pteM p && (tlbFind s.heldLeaves 0 (s.asid ctx) sp.1).isNone then
        { s with heldLeaves := s.heldLeaves ++
          [{ unit := 0, asid := s.asid ctx, va := sp.1 / n * n, size := n, leaf := BitVec.ofNat 64 p }] }
      else s
    | _ => s) s

/-! ## The checks of one part -/

/-- The heap window in force of a context: base, bytes, offset, read-only, attribute (R19). -/
def State.window (s : State) (ctx : Nat) : Nat × Nat × Nat × Bool × Nat :=
  let k := s.context ctx
  let hwl := (k.inf 0x41).toNat
  ((k.inf 0x40).toNat, 65536 * bitsOf hwl 16 41, (k.inf 0x42).toNat, hwl.testBit 3, hwl % 4)

/-- InWindow of R22. -/
def State.inWindow (s : State) (ctx va size : Nat) : Bool :=
  let (b, n, _, _, _) := s.window ctx
  n != 0 && decide (b ≤ va) && decide (va + size ≤ b + n)

/-- Whether a part lies in the leases of R32 less the revocations of R41. -/
def leased (ls : List (Nat × Nat × Bool)) (revs : List (Nat × Nat)) (k : Kind) (va size : Nat) : Bool :=
  ls.any (fun (b, n, w) => decide (b ≤ va) && decide (va + size ≤ b + n) && (w || !k.writes))
    && !revs.any (fun (b, n) => decide (b < va + size) && decide (va < b + n))

/-- The permission checks of a leaf (R29). -/
def leafCheck (p : Nat) (k : Kind) (privileged : Bool) : Option Nat :=
  if k.writes && !pteW p then some Cause.priv
  else if k == .fetch && !pteX p then some Cause.priv
  else if !privileged && pteP p then some Cause.priv
  else if k != .fetch && pteSa p then some Cause.sa
  else none

/-- The revocations of a context that core `c` rejects: one that has not reached it yet is not among them (R461). -/
def State.revokedFor (s : State) (c ctx : Nat) : List (Nat × Nat) :=
  (s.context ctx).revoked.filter (fun r => !s.invals.any (fun e =>
    e.2.revoke && e.2.asid == ctx && e.2.base == r.1 && e.2.len == r.2 && e.2.toReach.contains c))

/-- Who makes an access: core, TLB unit, context, privilege, leases. -/
structure Who where
  core : Nat
  unit : Nat
  ctx : Nat
  privileged : Bool
  leases : List (Nat × Nat × Bool)
  /-- Translations that an issued engine command keeps (R470): page, bytes, leaf. -/
  via : List (Nat × Nat × Nat) := []
  /-- The cache field of an engine command's accesses (R79). -/
  cache : Nat := 0
  deriving DecidableEq, Repr

/-- One part of a space-2 access (R22): physical address and attribute. -/
def State.checkPart (s : State) (w : Who) (k : Kind) (cache va size start : Nat) : Checked (Nat × Nat) :=
  let bound (pa ca : Nat) (hold : Bool) : Checked (Nat × Nat) :=
    if Config.memTop < pa + size then .fault (trapAt Cause.bounds va start)
    else if hold then .hold else .ok (pa, ca)
  if k != .fetch && s.inWindow w.ctx va size then
    let (_, _, ofs, ro, ca) := s.window w.ctx
    if k.writes && ro then .fault (trapAt Cause.priv va start)
    else bound ((va + ofs) % 2 ^ 64) (max ca cache) false
  else match w.via.find? (fun e => decide (e.1 ≤ va) && decide (va < e.1 + e.2.1)) with
  | some e =>
    match leafCheck e.2.2 k w.privileged with
    | some c => .fault (trapAt c va start)
    | none => bound (ptePa e.2.2 + va % e.2.1) (max (pteCa e.2.2) cache) (pteM e.2.2)
  | none =>
  if !w.privileged && !leased w.leases (s.revokedFor w.core w.ctx) k va size then
    .fault (trapAt Cause.lease va start)
  else
    match s.lookup w.core w.unit w.ctx va with
    | .leaf p size' =>
      match leafCheck p k w.privileged with
      | some c => .fault (trapAt c va start)
      | none => bound (ptePa p + va % size') (max (pteCa p) cache) (pteM p)
    | _ => .fault { trapAt Cause.lease va start with walk := true }

/-- A new part. -/
def mkPart (va pa size ca idx : Nat) : Part :=
  { va := va, pa := pa, size := size, ca := ca, idx := idx, isDone := false, data := [], pois := false, refusals := 0,
    ask := (pa, size), dev := 0, key := 0, physical := false }

/-- The part with a request for its whole 128-byte line, which a load that allocates in the L1 asks for where the line
is open to it (R81). -/
def Part.askLine (p : Part) (opens : Nat → Nat → Bool) : Part :=
  let a := p.pa / 128 * 128
  if p.ca < 2 && opens a 128 then { p with ask := (a, 128) } else p

/-- Checks parts in ascending order: the first fault, or a hold, or all of them. A hold counts only when no part
faults (R48). -/
def collect (f : Nat → Nat → Nat → Checked Part) : List (Nat × Nat × Nat) → Checked (List Part)
  | [] => .ok []
  | (va, n, i) :: rest =>
    match f va n i with
    | .fault t => .fault t
    | .hold =>
      match collect f rest with
      | .fault t => .fault t
      | _ => .hold
    | .ok p =>
      match collect f rest with
      | .ok ps => .ok (p :: ps)
      | r => r

/-- A space-2 access, every byte (R22). -/
def State.check2 (s : State) (w : Who) (k : Kind) (cache va size idx : Nat) : Checked (List Part) :=
  if k == .atomic && va % size != 0 then .fault (trapAt Cause.align va va)
  else match checkCanonical va size va with
    | some t => .fault t
    | none =>
      collect (fun a n i =>
        match s.checkPart w k cache a n va with
        | .ok (pa, ca) => .ok (mkPart a pa n ca (idx + i))
        | .hold => .hold
        | .fault t => .fault t) (spans 128 va size)

/-- An entry of the remote window table (R45): valid, stores permitted, device, key, length. -/
structure RemoteWindow where
  v : Bool
  w : Bool
  dev : Nat
  key : Dword
  len : Nat
  deriving DecidableEq, Repr

def State.remoteWindow (s : State) (ctx i : Nat) : RemoteWindow :=
  let base := 2048 * bitsOf ((s.context ctx).inf 0x45).toNat 11 37
  if Config.memTop < base + 2048 then { v := false, w := true, dev := 0, key := 0, len := 0 }
  else
    let a := base + 32 * i
    let d0 := s.rd8 a
    { v := d0.testBit 0, w := d0.testBit 1, dev := bitsOf (s.rd8 (a + 8)) 0 18,
      key := BitVec.ofNat 64 (s.rd8 (a + 16)), len := s.rd8 (a + 24) }

/-- A space-3 access (R45): the entry of its first byte judges every byte, also where LENB lets the access pass the end
of the 2^58-byte window (notes/assumptions/45.md). -/
def State.check3 (s : State) (ctx : Nat) (k : Kind) (cache va size idx : Nat) : Checked (List Part) :=
  if k == .atomic && va % size != 0 then .fault (trapAt Cause.align va va)
  else
    let w := s.remoteWindow ctx (va / 2 ^ 58)
    let ofs := va % 2 ^ 58
    collect (fun a n i =>
      if k.writes && !w.w then .fault (trapAt Cause.priv a va)
      else if !w.v then .fault (trapAt Cause.bounds a va)
      else if w.len < ofs + i + n then .fault (trapAt Cause.bounds (va - ofs + max (ofs + i) w.len) va)
      else
        let p := { mkPart a (ofs + i) n cache (idx + i) with dev := w.dev, key := w.key }
        .ok (if k == .load then p.askLine (fun b m => decide (b + m ≤ w.len)) else p)) (spans 128 va size)

/-- The host apertures of a context: base, length, stores permitted (R46). -/
def State.apertures (s : State) (ctx : Nat) : List (Nat × Nat × Bool) :=
  (List.range 4).map (fun i =>
    let l := ((s.context ctx).inf (0x5C + i)).toNat
    (((s.context ctx).inf (0x58 + i)).toNat, l % 2 ^ 63, l.testBit 63))

/-- A space-4 access (R46): PRIV before BOUNDS within a part (R48). Addresses and aperture ends are compared as natural
numbers, without wrapping at 2^64 (notes/assumptions/45.md). -/
def State.check4 (s : State) (ctx : Nat) (k : Kind) (cache va size idx : Nat) : Checked (List Part) :=
  if k == .atomic && va % size != 0 then .fault (trapAt Cause.align va va)
  else
    let aps := s.apertures ctx
    let inAp (a : Nat) (w : Bool) := aps.any (fun (b, n, st) => decide (b ≤ a) && decide (a < b + n) && (st || !w))
    collect (fun a n i =>
      let bytes := (List.range n).map (a + ·)
      match bytes.find? (fun x => k.writes && inAp x false && !inAp x true) with
      | some x => .fault (trapAt Cause.priv x va)
      | none =>
        match bytes.find? (fun x => !inAp x false) with
        | some x => .fault (trapAt Cause.bounds x va)
        | none =>
          let p := mkPart a a n cache (idx + i)
          .ok (if k == .load then p.askLine (fun b m => (List.range m).all (fun j => inAp (b + j) false)) else p))
      (spans 128 va size)

/-- A space-5 access (R14). DESIGN CHOICE (notes/assumptions/58.md): FADDR of one that crosses the end names the first byte
beyond it. -/
def check5 (va size idx : Nat) : Checked (List Part) :=
  if Config.memTop < va + size then .fault (trapAt Cause.bounds (max va Config.memTop) va)
  else .ok ((spans 128 va size).map (fun (a, n, i) => mkPart a a n 3 (idx + i)))

/-- The checks of an access to any of spaces 2 to 5. -/
def State.checkSpace (s : State) (w : Who) (space : Nat) (k : Kind) (cache va size idx : Nat) :
    Checked (List Part) :=
  if space = 2 then s.check2 w k cache va size idx
  else if space = 3 then s.check3 w.ctx k cache va size idx
  else if space = 4 then s.check4 w.ctx k cache va size idx
  else check5 va size idx

/-! ## Local store (R49 to R58) -/

/-- The checks of R52 over [va, va + size), `va` an address operand. A layer in transition or under repair makes
the access wait (R57, R62). -/
def Core.checkLocal (k : Core) (va size : Nat) : Checked Unit :=
  let ofs := va % 2 ^ 21
  let rec go : List (Nat × Nat × Nat) → Checked Unit
    | [] => .ok ()
    | (o, _, i) :: rest =>
      if 2 ^ 24 ≤ va || 2 ^ 21 ≤ o then .fault (trapAt Cause.bounds (va + i) va)
      else
        let b := decide (2 ^ 20 ≤ o)
        let l := k.layer b
        if l.usable ≤ o % 2 ^ 20 then .fault (trapAt Cause.bounds (va + i) va)
        else if l.busy || (List.range 4).any (fun j => (k.bus (j + if b then 4 else 0)).repairing) then
          (match go rest with | .fault t => .fault t | _ => .hold)
        else if !l.on then .fault (trapAt Cause.layerOff (va + i) va)
        else go rest
  go (spans 256 ofs size)

/-- Who a core's access stream is, at its present level. -/
def State.whoOf (s : State) (c unit : Nat) : Who :=
  match s.launchOf c with
  | some (_, _, l) =>
    { core := c, unit := unit, ctx := l.ctx, privileged := (s.core c).level != 0, leases := l.leases }
  | none => { core := c, unit := unit, ctx := 0, privileged := (s.core c).level != 0, leases := [] }

/-! ## Refusals of the slices (R89 to R92) -/

/-- Whether the request of a reservation still waits for its line: an access, a command or an exchange-buffer entry of a
core, or, with `Config.cores`, an access from outside. -/
def State.stillWaits (s : State) (line c id : Nat) : Bool :=
  if c = Config.cores then s.inbound.any (fun b => b.id == id && b.parts.any (fun p => p.pa / 1024 == line))
  else
    let k := s.core c
    (k.inflight ++ k.early.map (·.acc)).any (fun a =>
        a.id == id && a.parts.any (fun p => !p.isDone && p.pa / 1024 == line))
      || k.cmds.any (fun x => x.id == id && Map.has x.refusals line)
      || (s.square (squareOf c)).xbuf.any (fun e => e.core == c && e.id == id && decide (4 ≤ e.refusals))

/-- The reservations of a slice whose requests still wait, in their order (R91). -/
def State.reservedAt (s : State) (sl : Nat) : List (Nat × Nat × Nat) :=
  (s.slice sl).reservations.filter (fun r => s.stillWaits r.1 r.2.1 r.2.2)

/-- A request takes a reservation for a line while its slice has room (R91). -/
def State.reserveLine (s : State) (line c id : Nat) : State :=
  let sl := s.homeOf line
  let held := s.reservedAt sl
  if held.contains (line, c, id) ∨ 32 ≤ held.length then s
  else s.modSlice sl (fun k => { k with reservations := held ++ [(line, c, id)] })

/-- Whether the home slice answers core `c`'s request for `pa` with a refusal: a busy line (R89), a region that is being
re-homed (R92), or another request's reservation before it (R91). -/
def State.refuses (s : State) (c id pa : Nat) : Bool :=
  let n := pa / 1024
  (s.line n).busy || Map.has s.moving (n / 2048) ||
    match List.find? (fun r => r.1 == n) (s.reservedAt (s.homeOf n)) with
    | some r => !(r.2.1 == c && r.2.2 == id)
    | none => false

/-- Whether a slice refuses a transfer of an engine of the device, which asks again without a reservation
(notes/assumptions/37.md). -/
def State.lineRefused (s : State) (pa n : Nat) : Bool :=
  (List.range ((pa % 1024 + n + 1023) / 1024)).any (fun i => s.refuses Config.cores (2 ^ 64) (pa + 1024 * i))

end Sys2Proof.Machine
end

