-- ==== Sys2Proof/Machine/Scoresheet.lean ====
section
/-! DEFINITION. The scoresheet: recording and replaying the choices of a launch (R213, R214, R91, R180). -/

namespace Sys2Proof.Machine

/-- The next scoresheet entry's device-virtual address for a task's virtual square. -/
def Launch.logAt (l : Launch) (t : Nat) : Nat :=
  let sq := l.sqIndex t
  4096 * l.fld 204 52 + sq * 65536 * 2 ^ l.fld 192 4 + Map.get 0 l.logPos sq

def Launch.logFull (l : Launch) (t : Nat) : Bool :=
  decide (65536 * 2 ^ l.fld 192 4 < Map.get 0 l.logPos (l.sqIndex t) + 16)

/-- The device's own translation in a context: privileged, without leases. -/
def State.deviceWho (ctx core : Nat) : Who :=
  { core := core, unit := 4, ctx := ctx, privileged := true, leases := [] }

/-- A device store to a context's virtual memory; nothing where translation fails or holds. -/
def State.deviceStore (s : State) (ctx core va : Nat) (bs : PBytes) : State :=
  match s.check2 (State.deviceWho ctx core) .store 0 va bs.length 0 with
  | .ok ps => ps.foldl (fun s p => s.wrBytes p.pa ((bs.drop p.idx).take p.size)) s
  | _ => s

/-- A device load from a context's virtual memory; zeros where translation fails. -/
def State.deviceLoad (s : State) (ctx core va n : Nat) : PBytes :=
  match s.check2 (State.deviceWho ctx core) .load 0 va n 0 with
  | .ok ps => ps.flatMap (fun p => s.rdBytes p.pa p.size)
  | _ => List.replicate n (0, false)

/-- Requests a stop of every task of a context as a pre-emption deadline does (R213, R214, R228). -/
def State.stopContext (s : State) (ctx : Nat) : State :=
  let s : State := { s with launches := s.launches.map (fun (e : Nat × Launch) =>
    (e.1, if e.2.ctx = ctx ∧ !e.2.saved then { e.2 with preempting := true } else e.2)) }
  s.cores.foldl (fun s e =>
    if (s.core e.1).task.isSome && s.ctxOf e.1 == ctx && !(s.core e.1).stopReq.contains (.preempt true false) then
      s.modCore e.1 (fun k => { k with stopReq := k.stopReq ++ [.preempt true false] })
    else s) s

/-- What a scoresheet does to a choice (R213, R214). -/
inductive Logged where
  /-- The choice stands (recorded, or not logged). -/
  | chosen (s : State) (v : Nat)
  /-- The context has been stopped: full log, or a choice that replay does not find. -/
  | stopped (s : State)
  deriving Repr

/-- The entry of a log at a position. -/
def State.logEntry (s : State) (l : Launch) (core t pos : Nat) : Nat :=
  bytesNat ((s.deviceLoad l.ctx core (4096 * l.fld 204 52 + l.sqIndex t * 65536 * 2 ^ l.fld 192 4 + pos) 16).map Prod.fst)

/-- The end of a run of entries after `pos` that a KIND 8 entry revokes, looking `fuel` entries ahead from `q`: its VAL
counts the entries of the superstep that was taken back (notes/assumptions/21.md). -/
def State.logRevoked (s : State) (l : Launch) (core t pos : Nat) : Nat → Nat → Option Nat
  | 0, _ => none
  | fuel + 1, q =>
    let e := s.logEntry l core t q
    if bitsOf e 56 8 = 0 then none
    else if bitsOf e 56 8 = 8 ∧ q ≤ pos + 16 * bitsOf e 0 54 then some (q + 16)
    else State.logRevoked s l core t pos fuel (q + 16)

/-- The next position that replay reads: revoked runs are skipped (R214). -/
def State.logSkip (s : State) (l : Launch) (core t : Nat) : Nat → Nat → Nat
  | 0, pos => pos
  | fuel + 1, pos =>
    let n := 4096 * 2 ^ l.fld 192 4 - pos / 16
    match s.logRevoked l core t pos n pos with
    | some q => State.logSkip s l core t fuel q
    | none => pos

/-- The log position of a task's virtual square. -/
def Launch.logPosOf (l : Launch) (t : Nat) : Nat := Map.get 0 l.logPos (l.sqIndex t)
def State.setLogPos (s : State) (id t pos : Nat) : State :=
  s.modLaunch id (fun l => { l with logPos := Map.put l.logPos (l.sqIndex t) pos })

/-- Records a choice: the entry is appended, or a full log stops the context (R213). -/
def State.record (s : State) (core id t kind val : Nat) (l : Launch) : Logged :=
  if l.logFull t then
    .stopped (if (s.core core).stopReq.contains (.preempt true false) then s
      else (s.post 0x05 l.ctx (BitVec.ofNat 64 (l.sqIndex t))).stopContext l.ctx)
  else
    let e := val % 2 ^ 56 + kind * 2 ^ 56 + (s.clockOf (squareOf core)).toNat * 2 ^ 64
    .chosen ((s.deviceStore l.ctx core (l.logAt t) (markBytes false (natBytes 16 e))).setLogPos id t
      (l.logPosOf t + 16)) val

/-- Replay could not make a choice: REPLAY_DIVERGE with the log position, once (R214). -/
def State.diverge (s : State) (core : Nat) (l : Launch) (pos : Nat) : State :=
  if (s.core core).stopReq.contains (.preempt true false) then s
  else (s.post 0x06 l.ctx (BitVec.ofNat 64 pos)).stopContext l.ctx

/-- A choice whose value replay takes from the log, which names the core of the square too (notes/assumptions/21.md). In
replay it waits while another choice is the log's next one, until `REPLAY_FORCE_TIMEOUT` (R214). Of KIND 5 the value is the
entry's clock. -/
def State.logged (s : State) (core kind val : Nat) : Logged :=
  match s.launchOf core with
  | none => .chosen s val
  | some (id, t, l) =>
    if l.scr = 1 then
      match s.record core id t kind (val % 2 ^ 54 + core % 4 * 2 ^ 54) l with
      | .chosen s _ => .chosen s val
      | r => r
    else if l.scr = 2 then
      let pos := s.logSkip l core t 64 (l.logPosOf t)
      let e := s.logEntry l core t pos
      if bitsOf e 56 8 = kind ∧ bitsOf e 54 2 = core % 4 then
        .chosen (s.setLogPos id t (pos + 16)) (if kind = 5 then bitsOf e 64 64 else bitsOf e 0 54)
      else .stopped s
    else .chosen s val

/-! ## Choices of order (R91, R155, R180, R213, R214) -/

/-- VAL of a choice of order: what is chosen, the core of the square that asked, and the choice's number among those of its
launch (notes/assumptions/21.md). -/
def orderVal (core what no : Nat) : Nat := what % 2 ^ 24 + core % 4 * 2 ^ 24 + no % 2 ^ 30 * 2 ^ 26

/-- The number of the next choice of order that a virtual square's log holds at or after a position, `fuel` entries
ahead. -/
def State.orderAfter (s : State) (l : Launch) (core t : Nat) : Nat → Nat → Option Nat
  | 0, _ => none
  | fuel + 1, pos =>
    let e := s.logEntry l core t pos
    let kind := bitsOf e 56 8
    if kind = 0 then none
    else if kind = 1 ∨ kind = 3 ∨ kind = 4 ∨ kind = 6 then some (bitsOf e 26 30)
    else State.orderAfter s l core t fuel (s.logSkip l core t 64 (pos + 16))

/-- Whether no virtual square of a launch has an earlier choice of order to replay than `no`. -/
def State.orderFirst (s : State) (l : Launch) (core no : Nat) : Bool :=
  (List.range l.squares).all (fun q =>
    let t := q * l.nc
    match s.orderAfter l core t (4096 * 2 ^ l.fld 192 4) (s.logSkip l core t 64 (l.logPosOf t)) with
    | some v => decide (no ≤ v)
    | none => true)

/-- A choice of order for a task: recorded, or in replay withheld until it is the launch's next one (R214): none while it
waits. A full log has stopped its context; what had already issued goes on unrecorded (notes/assumptions/21.md). -/
def State.chooseFor (s : State) (o : Option (Nat × Nat × Launch)) (core kind what : Nat) : Option State :=
  match o with
  | none => some s
  | some (id, t, l) =>
    if l.scr = 1 then
      match s.record core id t kind (orderVal core what l.arbNo) l with
      | .chosen s _ => some (s.modLaunch id (fun l => { l with arbNo := l.arbNo + 1 }))
      | .stopped s => some s
    else if l.scr = 2 then
      let pos := s.logSkip l core t 64 (l.logPosOf t)
      let e := s.logEntry l core t pos
      if bitsOf e 56 8 = kind ∧ bitsOf e 0 26 = orderVal core what 0 ∧ s.orderFirst l core (bitsOf e 26 30) then
        some (s.setLogPos id t (pos + 16))
      else none
    else some s

/-- A choice of order for the task of a core. -/
def State.choose (s : State) (core kind what : Nat) : Option State := s.chooseFor (s.launchOf core) core kind what

/-- A request of a task on core `core` is served by a home slice; none while the log puts another first. -/
def State.arbitrateFor (s : State) (o : Option (Nat × Nat × Launch)) (core : Nat) : Option State := s.chooseFor o core 1 0

/-- A request of the task of core `core` is served by a home slice. -/
def State.arbitrate (s : State) (core : Nat) : Option State := s.arbitrateFor (s.launchOf core) core

/-- A launch and task by their numbers, which may have ended. -/
def State.ownerOf (s : State) (o : Option (Nat × Nat)) : Option (Nat × Nat × Launch) :=
  match o with
  | some (id, t) => (s.launch? id).map (fun l => (id, t, l))
  | none => none

end Sys2Proof.Machine
end

