-- ==== Sys2Proof/Machine/Accumulator.lean ====
section
/-! DEFINITION. Stream-accumulator vectors at their slices (R156 to R176): arithmetic, images, lending. -/

namespace Sys2Proof.Machine

/-- The home slice and descriptor index of a handle (R156). -/
def saSlice (h : Nat) : Nat := (h % 2048) ^^^ (h / 2048 * 64)
def saIndex (h : Nat) : Nat := h / 2048

def Slice.vec (k : Slice) (i : Nat) : SaVec := Map.get SaVec.reset k.vecs i
def State.vec (s : State) (sl i : Nat) : SaVec := (s.slice sl).vec i
def State.setVec (s : State) (sl i : Nat) (v : SaVec) : State :=
  s.modSlice sl (fun k => { k with vecs := Map.put k.vecs i v })

/-- Poison of W40 and of FP64 (R159, R283). -/
def w40Poison : BitVec 40 := 0x7FD0000000
def f64Poison : Dword := 0x7FFA000000000000

def SaVec.elem (v : SaVec) (i : Nat) : BitVec 40 := Map.get 0 v.elems i
def SaVec.setElem (v : SaVec) (i : Nat) (x : BitVec 40) : SaVec := { v with elems := Map.set 0 v.elems i x }

/-- Widening of an FP32 pattern into W40: exact, a signalling NaN quietened (R159). -/
def widen40 (x : Nat) : BitVec 40 :=
  let quiet := if (Fmt.f32.val x).signals then 2 ^ 30 else 0
  BitVec.ofNat 40 (x * 256 ||| quiet)

/-- Element `i` of an added row (R163): FP32, or BF16 from bytes 0 to 127; poison when the side bit is set or the
source holds its format's poison pattern. -/
def saSource (bf16 : Bool) (row : Row) (side : Bool) (i : Nat) : BitVec 40 :=
  let x := if bf16 then bitsOf row.toNat (16 * i) 16 else lane row i
  if side || x == (if bf16 then Fmt.bf16.poison else Fmt.f32.poison) then w40Poison
  else widen40 (if bf16 then x * 65536 else x)

/-- (xn − xo)(xn + xo), both factors exact, rounded once into FP64 (R163). -/
def saSquareGain (xo xn : BitVec 40) : Rounded :=
  let a := Fmt.w40.val xo.toNat
  let b := Fmt.w40.val xn.toNat
  Fmt.f64.round .rne ((FVal.sub .rne b a).mul (FVal.add .rne b a))

/-- RoundTo(FP64, S + c, RNE), with the poison of S kept. -/
def saAccumulate (sum : Dword) (c : FVal) (pois : Bool) : Dword :=
  if pois || sum == f64Poison then f64Poison
  else BitVec.ofNat 64 (Fmt.f64.round .rne (FVal.add .rne (Fmt.f64.val sum.toNat) c)).bits

/-- Resquare of R164. -/
def SaVec.resquare (v : SaVec) : SaVec :=
  let sum := (List.range (64 * v.nr)).foldl (fun acc i =>
    let x := v.elem i
    let y := Fmt.w40.val x.toNat
    saAccumulate acc (y.mul y) (x == w40Poison)) 0
  { v with sumSq := sum }

/-- SaAdd of R163. -/
def SaVec.addRow (v : SaVec) (ofs : Nat) (bf16 : Bool) (row : Row) (side : Bool) : SaVec :=
  let step (acc : SaVec × List (FVal × Bool)) (i : Nat) : SaVec × List (FVal × Bool) :=
    let xo := v.elem (ofs + i)
    let d := saSource bf16 row side i
    let xn : BitVec 40 :=
      if d == w40Poison || xo == w40Poison then w40Poison
      else BitVec.ofNat 40 (Fmt.w40.round .rne
        (FVal.add .rne (Fmt.w40.val xo.toNat) (Fmt.w40.val d.toNat))).bits
    (acc.1.setElem (ofs + i) xn, acc.2 ++ [(Fmt.f64.val (saSquareGain xo xn).bits, xn == w40Poison)])
  let (v1, cs) := (List.range 64).foldl step (v, [])
  let anyPois := cs.any (·.2)
  let sum := cs.foldl (fun acc c => saAccumulate acc c.1 anyPois) v.sumSq
  let v2 : SaVec := { v1 with sumSq := sum, cnt := (v1.cnt + 1) % 2 ^ 32 }
  if v2.cnt % 4096 = 0 then v2.resquare else v2

/-- The SACLR of R173: the vector's elements, S, CNT, slots and LOSSY are cleared and GEN rises. -/
def SaVec.clear (v : SaVec) : SaVec :=
  { v with elems := [], sumSq := 0, cnt := 0, sv0 := false, sv1 := false, lossy := false,
           gen := (v.gen + 1) % 2 ^ 24, st := if v.st = 1 then 1 else 0 }

/-- SAFENCE's capture (R171), after a resquaring when `exact`. -/
def SaVec.capture (v : SaVec) (slot : Nat) (exact : Bool) : SaVec :=
  let v := if exact then v.resquare else v
  if slot = 0 then { v with slot0 := v.sumSq, sv0 := true } else { v with slot1 := v.sumSq, sv1 := true }

/-- An uncorrectable 128-bit word of a resident vector, by its place in the exact layout (R178): the elements it holds
and S are poison. -/
def SaVec.poisonWord (v : SaVec) (word : Nat) : SaVec :=
  let hit (i : Nat) : Bool := decide (32 + 5 * i < 16 * word + 16) && decide (16 * word < 32 + 5 * i + 5)
  { ((List.range (64 * v.nr)).filter hit).foldl (fun v i => v.setElem i w40Poison) v with sumSq := f64Poison }

/-! ## Descriptor words (R157) -/

/-- The 32-byte header. -/
def SaVec.header (v : SaVec) : Nat :=
  v.sumSq.toNat + v.slot0.toNat * 2 ^ 64 + v.slot1.toNat * 2 ^ 128 + v.cnt * 2 ^ 192 + v.gen * 2 ^ 224
    + (if v.sv0 then 2 ^ 248 else 0) + (if v.sv1 then 2 ^ 249 else 0) + (if v.lossy then 2 ^ 250 else 0)

def SaVec.setHeader (v : SaVec) (h : Nat) : SaVec :=
  { v with sumSq := BitVec.ofNat 64 (bitsOf h 0 64), slot0 := BitVec.ofNat 64 (bitsOf h 64 64),
           slot1 := BitVec.ofNat 64 (bitsOf h 128 64), cnt := bitsOf h 192 32, gen := bitsOf h 224 24,
           sv0 := h.testBit 248, sv1 := h.testBit 249, lossy := h.testBit 250 }

/-- Dwords 4 to 6 of a descriptor without its zero fields. -/
def SaVec.fields (v : SaVec) (i : Nat) : Nat :=
  if i < 4 then bitsOf v.header (64 * i) 64
  else if i = 4 then
    (if v.valid then 1 else 0) + 2 * v.ctx + 128 * v.st + (if v.compact then 512 else 0) + 65536 * v.nr
  else if i = 5 then 64 * v.back
  else if i = 6 then 64 * v.gaddr
  else 0

/-- Dword `i` of a descriptor (R157). -/
def SaVec.dword (v : SaVec) (i : Nat) : Dword := BitVec.ofNat 64 (v.fields i + bitsOf v.zeros (64 * i) 64)

/-- Bits of dword `i` that the layout shows as zero. -/
def saZeroBits (i : Nat) : Nat :=
  if i < 3 then 0
  else if i = 3 then 0xF800000000000000
  else if i = 4 then 0xFFFFFFFFFC00FC00
  else if i = 5 ∨ i = 6 then 0x3F
  else 2 ^ 64 - 1

/-- The descriptor with dword `i` written; ST is read only. -/
def SaVec.setDword (v : SaVec) (i x : Nat) : SaVec :=
  let v := { v with zeros := v.zeros - bitsOf v.zeros (64 * i) 64 * 2 ^ (64 * i) + (x &&& saZeroBits i) * 2 ^ (64 * i) }
  if i < 4 then v.setHeader (v.header - bitsOf v.header (64 * i) 64 * 2 ^ (64 * i) + x * 2 ^ (64 * i))
  else if i = 4 then
    { v with valid := x.testBit 0, ctx := bitsOf x 1 6, compact := x.testBit 9, nr := bitsOf x 16 10 }
  else if i = 5 then { v with back := x / 64 }
  else if i = 6 then { v with gaddr := x / 64 }
  else v

/-- What V = 1 asks of a descriptor (R158). -/
def SaVec.wellFormed (v : SaVec) : Bool :=
  decide (1 ≤ v.nr) && decide (v.nr ≤ 512) && canonical (64 * v.back) && canonical (64 * v.gaddr) && v.zeros == 0

/-! ## Images (R174 to R176) -/

/-- RoundTo(FP32, x, RNE) of an element; poison becomes FP32 poison (R174). -/
def compactElem (x : BitVec 40) : Nat :=
  if x == w40Poison then Fmt.f32.poison else (Fmt.f32.round .rne (Fmt.w40.val x.toNat)).bits

/-- The image's bytes. -/
def SaVec.image (v : SaVec) (compact : Bool) : List Byte :=
  natBytes 32 ({ v with lossy := v.lossy || compact }.header)
    ++ (List.range (64 * v.nr)).flatMap (fun i =>
      if compact then natBytes 4 (compactElem (v.elem i)) else natBytes 5 (v.elem i).toNat)

def SaVec.imageSize (v : SaVec) (compact : Bool) : Nat := 32 + (if compact then 4 else 5) * 64 * v.nr

/-- Where a backing range lies (R175): physical pieces, a hold, or a failed translation with its address. -/
def State.backing (s : State) (ctx va size : Nat) : Checked (List (Nat × Nat)) :=
  let rec go : List (Nat × Nat × Nat) → Checked (List (Nat × Nat))
    | [] => .ok []
    | (a, n, _) :: rest =>
      match s.walked ctx a with
      | .leaf p size' =>
        if !pteW p || !pteSa p || Config.memTop < ptePa p + a % size' + n then .fault (trapAt Cause.sa a 0)
        else match go rest with
          | .ok ps => if pteM p then .hold else .ok ((ptePa p + a % size', n) :: ps)
          | r => r
      | _ => .fault (trapAt Cause.sa a 0)
  match go (spans 65536 va size) with
  | .ok ps => if ps.any (fun p => s.lineRefused p.1 p.2) then .hold else .ok ps
  | r => r

/-- Writes bytes over physical pieces. -/
def State.wrPieces (s : State) : List (Nat × Nat) → PBytes → State
  | [], _ => s
  | (pa, n) :: ps, bs => State.wrPieces (s.wrBytes pa (bs.take n)) ps (bs.drop n)

/-- Reads bytes over physical pieces. -/
def State.rdPieces (s : State) : List (Nat × Nat) → PBytes
  | [] => []
  | (pa, n) :: ps => s.rdBytes pa n ++ State.rdPieces s ps

/-- A vector's eviction or reload holds at its backing area. -/
def State.keepBacking (s : State) (v : SaVec) (compact : Bool) : State :=
  s.keepWalked v.ctx (64 * v.back) (v.imageSize compact)

/-- Evicts a resident vector into its backing area (R174). -/
def State.evictVec (s : State) (sl i : Nat) (compact : Bool) : Checked State :=
  let v := s.vec sl i
  match s.backing v.ctx (64 * v.back) (v.imageSize compact) with
  | .ok ps =>
    let s := s.wrPieces ps (markBytes false (v.image compact))
    .ok (s.setVec sl i { v with elems := [], st := if compact then 3 else 2, lossy := v.lossy || compact })
  | .hold => .hold
  | .fault t => .fault t

/-- Reads an evicted vector's image back (R176). -/
def State.reloadVec (s : State) (sl i : Nat) : Checked SaVec :=
  let v := s.vec sl i
  let compact := v.st == 3
  match s.backing v.ctx (64 * v.back) (v.imageSize compact) with
  | .ok ps =>
    let bs := s.rdPieces ps
    let w := if compact then 4 else 5
    let v := { v with st := 1, elems := [] }.setHeader (bytesNat ((bs.take 32).map Prod.fst))
    let v := (List.range (64 * v.nr)).foldl (fun v j =>
      let e := (bs.drop (32 + w * j)).take w
      let x := bytesNat (e.map (·.1))
      let p := e.any (·.2)
      v.setElem j (if p then w40Poison else if compact then
        (if x = Fmt.f32.poison then w40Poison else widen40 x) else BitVec.ofNat 40 x)) v
    let v := if compact then { v with lossy := true }.resquare else v
    .ok (if bs.any (·.2) then { v with sumSq := f64Poison } else v)
  | .hold => .hold
  | .fault t => .fault t

/-! ## Lending (R160 to R162) -/

/-- WAYS in force of a context. -/
def State.ways (s : State) (ctx : Nat) : Nat := ((s.context ctx).inf 0x46).toNat % 16

/-- The ways a slice lends, as last computed (R161), less those disabled since (R107). -/
def State.lentCount (s : State) (sl : Nat) : Nat :=
  min 8 (min (12 - (s.slice sl).offThen) s.lending) - (s.slice sl).lentLost

/-- The live ways of a slice, the highest-numbered first: `SaVec.way` is a place in this list. -/
def Slice.liveWays (k : Slice) : List Nat := (List.range 16).reverse.filter (fun w => !k.offWays.contains w)

/-- Granules of a vector (R161). -/
def SaVec.granules (v : SaVec) : Nat := 5 * v.nr + 1

/-- Indices of a slice's resident vectors that a test selects. -/
def Slice.resident (k : Slice) (f : SaVec → Bool) : List Nat :=
  (k.vecs.filter (fun e => e.2.valid && e.2.st == 1 && f e.2)).map (·.1)

def Slice.granulesOf (k : Slice) (is : List Nat) : Nat := is.foldl (fun a i => a + (k.vec i).granules) 0

/-- Whether a vector holds undo records (R174). -/
def State.hasUndo (s : State) (sl i : Nat) : Bool :=
  s.undo.any (fun u => match u with
    | .saAdd sl' _ i' .. => sl' == sl && i' == i
    | .saFence sl' _ i' .. => sl' == sl && i' == i
    | .saClear sl' _ i' .. => sl' == sl && i' == i
    | .atomic .. => false)

/-- The least recently used of some vectors. -/
def Slice.lru (k : Slice) (is : List Nat) : Option Nat :=
  is.foldl (fun b i => match b with
    | none => some i
    | some j => if (k.vec i).used < (k.vec j).used then some i else some j) none

/-- Places of the ways that a context's vectors may lie in: the lent ways, and those that a failed eviction keeps lent to
it (R175). -/
def State.placesFor (s : State) (sl ctx : Nat) : List Nat :=
  (List.range 16).filter (fun w => decide (w < s.lentCount sl)
    || !((s.slice sl).resident (fun v => v.way == w && v.ctx == ctx)).isEmpty)

/-- A way of a context's at a slice with room for `g` granules, the highest-numbered way first
(notes/assumptions/46.md). -/
def State.wayWithRoom (s : State) (sl ctx g : Nat) : Option Nat :=
  let k := s.slice sl
  (s.placesFor sl ctx).find? (fun w =>
    !k.leaving.contains (k.liveWays.getD w 16) && decide (k.granulesOf (k.resident (fun v => v.way == w)) + g ≤ 4096))

/-- The handle of a vector: the inverse of R156's map. -/
def saHandle (sl i : Nat) : Nat := (sl ^^^ (i * 64)) + 2048 * i

/-- Logs an eviction that a slice chose, on the lowest-numbered bound core of the vector's context (R180); none while a
replay awaits another choice. -/
def State.logEvict (s : State) (sl i : Nat) : Option State :=
  let ctx := (s.vec sl i).ctx
  match List.find? (fun (e : Nat × Core) => e.2.task.isSome && s.ctxOf e.1 == ctx) s.cores with
  | none => some s
  | some e => s.choose e.1 6 (2 ^ 19 + saHandle sl i)

/-- What became of an eviction (R175): made, waiting (a leaf with M = 1, undo records, a replay), or failed. -/
inductive Evicted where
  | made (s : State)
  | waits (s : State)
  | failed
  deriving Repr

/-- Evicts a vector that holds no undo records, in a format. -/
def State.tryEvict (s : State) (sl i : Nat) (compact : Bool) : Evicted :=
  if s.hasUndo sl i then .waits s
  else match s.evictVec sl i compact with
    | .hold => .waits (s.keepBacking (s.vec sl i) compact)
    | .fault _ => .failed
    | .ok _ => match s.logEvict sl i with
      | none => .waits s
      | some s' => match s'.evictVec sl i compact with
        | .ok t => .made t
        | _ => .waits s

/-- Counts a failed eviction in its context (R175). -/
def State.countFailed (s : State) (ctx : Nat) : State :=
  s.modContext ctx (fun c => { c with remoteErrors := c.remoteErrors + 1 })

/-- Whether an operation of a core other than `c` on a vector has been sent and has no verdict (R162, R174); SAEVICTs do
not wait for one another. -/
def State.saBusy (s : State) (c sl i : Nat) (evict : Bool) : Bool :=
  s.cores.any (fun e => e.1 != c && match e.2.saWait with
    | some r => saSlice (r.handle.toNat % 65536) == sl && saIndex (r.handle.toNat % 65536) == i && !(evict && r.op == 4)
    | none => false)

/-- Finds room for a vector of a context at a slice for core `c`, evicting that context's vectors, least recently used
first, at most `fuel` of them (R162): the way, or none when the slice refuses. -/
def State.makeRoom (s : State) (c sl ctx g : Nat) :
    Nat → State × Option Nat
  | 0 => (s, none)
  | fuel + 1 =>
    let k := s.slice sl
    let own := k.resident (fun v => v.ctx == ctx)
    let room := decide (k.granulesOf own + g ≤ min (s.ways ctx) (s.placesFor sl ctx).length * 4096)
    match if room then s.wayWithRoom sl ctx g else none with
    | some w => (s, some w)
    | none =>
      match k.lru (own.filter (fun i => !(k.vec i).noEvict && !s.hasUndo sl i && !s.saBusy c sl i false)) with
      | none => (s, none)
      | some i =>
        match s.tryEvict sl i (k.vec i).compact with
        | .made s' => State.makeRoom s' c sl ctx g fuel
        | .waits s' => (s', none)
        | .failed =>
          -- capacity pressure: the vector stays and is no longer chosen (R175)
          let s' := (s.setVec sl i { k.vec i with noEvict := true }).countFailed (k.vec i).ctx
          State.makeRoom (s'.post 0x09 (k.vec i).ctx (BitVec.ofNat 64 sl)) c sl ctx g fuel

/-- Evicts vectors in a format of each: those that cannot be evicted stay (R161, R175). The vectors whose eviction
failed. -/
def State.displace (s : State) (sl : Nat) (compact : SaVec → Bool) : List Nat → State × List Nat
  | [] => (s, [])
  | i :: is =>
    match s.tryEvict sl i (compact (s.vec sl i)) with
    | .made s' => State.displace s' sl compact is
    | .waits s' => State.displace s' sl compact is
    | .failed =>
      let (s', failed) := State.displace s sl compact is
      (s', i :: failed)

/-- A fall of the lending count left vectors behind: each counts in its context, and each context has one REMOTE_ERROR
(R175). -/
def State.postFailed (s : State) (sl : Nat) (failed : List Nat) : State :=
  let s := failed.foldl (fun s i => s.countFailed (s.vec sl i).ctx) s
  ((failed.map (fun i => (s.vec sl i).ctx)).eraseDups).foldl (fun s c => s.post 0x09 c (BitVec.ofNat 64 sl)) s

/-- The physical way numbers a slice lends: its highest-numbered live ways, and those that failed evictions keep
lent (R175). -/
def State.lentWays (s : State) (sl : Nat) : List Nat :=
  let k := s.slice sl
  let n := s.lentCount sl
  ((k.liveWays.mapIdx (fun i w => (i, w))).filter (fun e =>
    decide (e.1 < n) || !(k.resident (fun v => v.way == e.1)).isEmpty)).map (·.2)

/-- Sectors leave a slice: granules that are poison in the stack alone show (R108). -/
def State.unveil (s : State) (n : Nat) (sectors : BitVec 8) : State :=
  s.hbmPois.foldl (fun s e => if e.1 / 32 = n ∧ sectors.getLsbD (e.1 / 4 % 8) then
    { s with memPois := Map.set false s.memPois e.1 true, hbmPois := Map.erase s.hbmPois e.1 } else s) s

/-- Sectors are written back: what the stack held of them is gone. -/
def State.rewrite (s : State) (n : Nat) (sectors : BitVec 8) : State :=
  { s with hbmPois := s.hbmPois.filter (fun e => !(e.1 / 32 == n && sectors.getLsbD (e.1 / 4 % 8))) }

/-- A line leaves its way: at once when it is clean, once its write-back has finished when it is dirty, and once it is
no longer busy when it is (R87, R89). Way 16 stands for a line that has left. -/
def State.dropLine (s : State) (n : Nat) : State :=
  match Map.find? s.lines n with
  | none => s
  | some l =>
    if l.filling != 0 || l.writing != 0 then { s with lines := Map.put s.lines n { l with way := 16 } }
    else
      let s := (s.rewrite n l.dirty).unveil n (l.valid &&& ~~~l.dirty)
      if l.dirty = 0 then { s with lines := Map.erase s.lines n }
      else { s with lines := Map.put s.lines n { Line.reset with writing := l.dirty, way := 16 } }

/-- The vectors that a slice still owes an eviction: those of contexts without a bound task (R162), those in ways no longer
lent, and those beyond a context's limit, a vector of a released way counting towards it (notes/assumptions/47.md). -/
def State.owed (s : State) (sl : Nat) : List Nat :=
  let k := s.slice sl
  let n := s.lentCount sl
  k.resident (fun v => !s.hasTask v.ctx || decide (n ≤ v.way) || decide (min (s.ways v.ctx) n * 4096 <
    k.granulesOf (k.resident (fun u => u.ctx == v.ctx && decide (u.used ≥ v.used)))))

/-- Evicts what a slice owes, each vector in its EFMT; a failed eviction of a vector for which the count has just fallen
is counted and posted (R175). -/
def State.settle (s : State) (sl : Nat) (fell : SaVec → Bool) : State :=
  let (s, failed) := s.displace sl (·.compact) (s.owed sl)
  s.postFailed sl (failed.filter (fun i => fell (s.vec sl i)))

/-- Recomputes lending (R161): vectors that a lower count displaces are evicted, and those of `gone`, a context
that has lost its last task, and lines in newly lent ways are written back and dropped. -/
def State.relend (s : State) (gone : Option Nat) : State :=
  let total := ((List.range Config.contexts).filter s.hasTask).foldl (fun a c => a + s.ways c) 0
  let t := { s with lending := total, slices := s.slices.map (fun (e : Nat × Slice) =>
    (e.1, { e.2 with offThen := e.2.offWays.length, lentLost := 0 })) }
  let s := s.slices.foldl (fun t (e : Nat × Slice) => State.settle t e.1 (fun v =>
    gone == some v.ctx || decide (t.lentCount e.1 < s.lentCount e.1))) t
  s.lines.foldl (fun s e => if (s.lentWays (s.homeOf e.1)).contains e.2.way then s.dropLine e.1 else s) s

/-! ## Disabled ways (R107) -/

/-- A way leaves replacement until cold reset: its dirty sectors are written back, corrected, and its lines dropped; a lent
way takes the lending at that slice down with it. -/
def State.wayOff (s : State) (sl way : Nat) : State :=
  let k := s.slice sl
  let lent := (s.lentWays sl).contains way
  let j := k.liveWays.findIdx (· == way)
  let down (w : Nat) : Nat := if j < w then w - 1 else w
  let s := s.modSlice sl (fun k => { k with
    offWays := k.offWays ++ [way], leaving := k.leaving.erase way,
    lentLost := if lent then k.lentLost + 1 else k.lentLost,
    vecs := k.vecs.map (fun e => (e.1, { e.2 with way := down e.2.way })) })
  let s := s.lines.foldl (fun s e => if s.homeOf e.1 == sl && e.2.way == way then s.dropLine e.1 else s) s
  s.settle sl (fun _ => lent)

/-- A way that has crossed its threshold is disabled once no vector is left in it (R107). A failed eviction is one of a
falling lending count (R175): it is tried again, counted and posted the first time. -/
def State.leaveWay (s : State) (sl way : Nat) (first : Bool) : State :=
  let k := s.slice sl
  if k.offWays.contains way then s
  else
    let j := k.liveWays.findIdx (· == way)
    let is := if (s.lentWays sl).contains way then k.resident (fun v => v.way == j) else []
    let (s, failed) := s.displace sl (fun _ => false) is
    let s := if first then s.postFailed sl failed else s
    if is.all (fun i => (s.vec sl i).st != 1) then s.wayOff sl way
    else s.modSlice sl (fun k => { k with leaving := if k.leaving.contains way then k.leaving else k.leaving ++ [way] })

/-- The end of a context's last bound task (R162, R461): its vectors are evicted, its revocations discarded,
written registers take effect (R19), and lending is recomputed. -/
def State.contextIdle (s : State) (ctx : Nat) : State :=
  if s.hasTask ctx then s
  else
    let s := s.modContext ctx (fun k => { k with revoked := [] })
    (s.relend (some ctx)).applyLatched ctx

end Sys2Proof.Machine
end

