-- ==== Sys2Proof/Machine/Ops.lean ====
section
/-! DEFINITION. The shared operations: retirement, jumps, waits, taking a trap and returning from one, the end of a
task, take-back and supersteps. -/

namespace Sys2Proof.Machine

/-- What a meaning answers. -/
abbrev Res := Host.Outcome State Fault Refusal

/-! ## Sequencing (R353 to R356) -/

/-- The sequencer context of the present level (R356). -/
def Core.seq (k : Core) : SeqCtx := if k.level = 0 then k.arch.seq0 else if k.level = 1 then k.seq1 else k.seq2
def Core.setSeq (k : Core) (q : SeqCtx) : Core :=
  if k.level = 0 then { k with arch := { k.arch with seq0 := q } }
  else if k.level = 1 then { k with seq1 := q } else { k with seq2 := q }

/-- Bytes of the instruction being executed: a pair has two words (R318). -/
def Core.instrBytes (k : Core) : Dword := if k.pendMod.isSome then 8 else 4
/-- The address of its last word. -/
def Core.lastWord (k : Core) : Dword := k.arch.pc + k.instrBytes - 4

/-- The test of R354 at a word that has retired and been fallen through: where execution goes on, and the stack. -/
def loopBack (w : Dword) : List LoopEntry → Dword × List LoopEntry
  | [] => (w + 4, [])
  | e :: es =>
    if w = e.stop then
      if 1 < e.left then (e.start, { e with left := e.left - 1 } :: es) else loopBack w es
    else (w + 4, e :: es)

/-- Entries that a transfer to `t` leaves (R354). -/
def popLoops (t : Dword) (es : List LoopEntry) : List LoopEntry :=
  es.dropWhile (fun e => !(decide (e.start.toNat ≤ t.toNat) && decide (t.toNat ≤ e.stop.toNat)))

def Core.setPc (k : Core) (pc : Dword) : Core := { k with arch := { k.arch with pc := pc }, pendMod := none }

/-- Retirement by falling through: the next frame word or pass, the loop test, or the next word. -/
def Core.retire (k : Core) : Core :=
  let w := k.lastWord
  match k.seq.rpt with
  | some r =>
    if r.word + 1 < r.len then
      (k.setSeq { k.seq with rpt := some { r with word := r.word + 1 } }).setPc (w + 4)
    else if r.pass + 1 < r.count then
      (k.setSeq { k.seq with rpt := some { r with word := 0, pass := r.pass + 1 } }).setPc (r.addr + 4)
    else
      let q := loopBack w k.seq.loops
      (k.setSeq { loops := q.2, rpt := none }).setPc q.1
  | none =>
    let q := loopBack w k.seq.loops
    (k.setSeq { loops := q.2, rpt := none }).setPc q.1

/-- A taken branch or a jump (R354). -/
def Core.jump (k : Core) (t : Dword) : Core := (k.setSeq { k.seq with loops := popLoops t k.seq.loops }).setPc t

/-- The next state in which the current core's instruction has retired. -/
def State.retire (s : State) : State := s.modMe Core.retire
/-- The next state in which it waits: nothing of it has taken effect, and it is tried again. -/
def State.wait (s : State) : State := { s.modMe (fun k => { k with pendMod := none }) with stalled := true }

/-! ## Trap entry and return (R271 to R273) -/

/-- ECAUSE (R273) of a trap taken on core `k`, with the stop point's word. -/
def Core.causeWord (k : Core) (t : TrapInfo) (word : Word) : Dword :=
  let b (p : Bool) (i : Nat) := if p then 2 ^ i else 0
  BitVec.ofNat 64 (t.code + 256 * k.level.val + b (word.getLsbD 31) 11 + b t.engine 12 + b t.deferred 13
    + b t.walk 14 + b t.wrap 15 + 65536 * t.sub)

/-- The stop point's core: after the instruction where EPC names the next one (R274). -/
def Core.stopPoint (k : Core) (next : Bool) : Core := if next then k.retire else { k with pendMod := none }

/-- The word at an address as core `c` fetches it; 0 where it lies nowhere. -/
def State.wordAt (s : State) (c : Nat) (va : Dword) : Word :=
  match s.check2 { s.whoOf c 1 with privileged := true } .load 0 va.toNat 4 0 with
  | .ok ps => BitVec.ofNat 32 (bytesNat ((ps.flatMap (fun p => s.rdBytes p.pa p.size)).map Prod.fst))
  | _ => 0

/-- The word at a trap's stop point, whose marker is STR (R273): the trapping instruction's, or the next one's. -/
def State.stopWord (s : State) (c : Nat) (t : TrapInfo) : Word :=
  if t.between then s.wordAt c (s.core c).arch.pc
  else if t.next then s.wordAt c ((s.core c).stopPoint true).arch.pc else (s.core c).word

/-- Trap entry (R272): the old record to the X registers at level 1, the new record, the level, the handler's
address; taint is empty (R144) and the handler starts with an empty sequencer context (R356). Loads that have performed
beyond the stop point are discarded (R270). -/
def Core.enterTrap (k : Core) (t : TrapInfo) (tvec : Dword) (word : Word) : Core :=
  let cause := k.causeWord t word
  let k : Core := { k.stopPoint t.next with early := [], redWait := none }
  let k := if k.level = 1 then
      { k with xepc := k.epc, xcause := k.ecause, xfaddr := k.faddr, xfstart := k.fstart } else k
  let k := { k with epc := k.arch.pc, ecause := cause, faddr := t.faddr, fstart := t.fstart, taint := [] }
  let k := { k with level := if k.level = 0 then 1 else 2 }
  (k.setSeq SeqCtx.reset).setPc tvec

/-- ERET (R272): at level 2 the record comes back from the X registers; the lower level's context and program
counter go on, with the test of R354 against that context's loops. -/
def Core.eret (k : Core) : Core :=
  let target := k.epc
  let k := if k.level = 2 then
      { k with epc := k.xepc, ecause := k.xcause, faddr := k.xfaddr, fstart := k.xfstart, seq2 := SeqCtx.reset,
               level := 1 }
    else { k with seq1 := SeqCtx.reset, level := 0 }
  k.jump target

/-- What an access of a kind does: it reads, it stores. -/
def AccKind.reads : AccKind → Bool
  | .load => true
  | .atomic _ => true
  | _ => false
def AccKind.stores : AccKind → Bool
  | .store => true
  | .atomic _ => true
  | _ => false

/-- Whether a load, atomic or receive of the core has issued and not performed. -/
def Core.loadsOut (k : Core) : Bool :=
  k.inflight.any (fun a => a.kind.reads) || k.cmds.any (fun c => c.slot.isSome)

/-- Whether a cause ends the gang's tasks or takes back its superstep (R274). -/
def TrapInfo.forGang (t : TrapInfo) : Bool :=
  t.code == Cause.poison || t.code == Cause.mismatch ||
    (t.code == Cause.machineCheck && decide (1 ≤ t.sub) && decide (t.sub ≤ 4))

/-! ## Supersteps (R201 to R209) -/

/-- The pending-byte counter of an instance (R204). -/
def Launch.pendKey (lv inst : Nat) : Nat := 8192 * lv + inst
def Launch.pend (l : Launch) (lv inst : Nat) : Nat := Map.get 0 l.pending (Launch.pendKey lv inst)

/-- The levels whose counters a task's items enter. -/
def Launch.barrLevels (l : Launch) : List Nat := (List.range 8).filter l.barr

/-- Whether a send of `n` bytes fits every counter (R204). -/
def Launch.pendFits (l : Launch) (t n : Nat) : Bool :=
  l.barrLevels.all (fun lv => decide (l.pend lv (l.instOf lv t) + n < 2 ^ 32))
def Launch.pendAdd (l : Launch) (t n : Nat) : Launch :=
  l.barrLevels.foldl (fun l lv =>
    { l with pending := Map.set 0 l.pending (Launch.pendKey lv (l.instOf lv t)) (l.pend lv (l.instOf lv t) + n) }) l
def Launch.pendSub (l : Launch) (t n : Nat) : Launch :=
  l.barrLevels.foldl (fun l lv =>
    { l with pending := Map.set 0 l.pending (Launch.pendKey lv (l.instOf lv t)) (l.pend lv (l.instOf lv t) - n) }) l

/-- Bytes that a command which has not performed keeps pending at its task's barriers (R204). -/
def Cmd.pendBytes (x : Cmd) : Nat :=
  match x.word with
  | .mcrd a _ len mask .. =>
    (((spans 1024 a len).mapIdx (fun i sp => if x.got.contains i then 0 else sp.2.1)).foldl (· + ·) 0)
      * ((List.range 16).filter mask.testBit).length
  | .redsend _ _ _ count _ => 4 * count
  | .xsend _ _ len .. => if x.sent = 0 then len else 0
  | _ => 0

/-- A core's issued commands come to nothing: their bytes are no longer pending. -/
def State.dropCmds (s : State) (c : Nat) : State :=
  match s.launchOf c with
  | none => s.modCore c (fun k => { k with cmds := [] })
  | some (id, t, _) =>
    ((s.core c).cmds.foldl (fun s x => s.modLaunch id (fun l => l.pendSub t x.pendBytes)) s).modCore c
      (fun k => { k with cmds := [] })

/-- Whether a core's task stands in a compute phase of a superstep domain (R202). -/
def State.inCompute (s : State) (c : Nat) : Bool :=
  match s.launchOf c with
  | some (_, t, l) => l.domainLevel.isSome && (l.task t).phase == .compute
  | none => false

/-- Frees the snapshot, journals, undo records and kept FIFO bytes of a square's gang (R208). -/
def State.freeRevocable (s : State) (sq : Nat) : State :=
  let s := (List.range 4).foldl (fun s c =>
    if (s.core (4 * sq + c)).snapshot.isSome || !(s.core (4 * sq + c)).journal.isEmpty
        || (s.core (4 * sq + c)).ended.isSome then
      s.modCore (4 * sq + c) (fun k => { k with snapshot := none, journal := [], ended := none }) else s) s
  let s := s.modSquare sq (fun q => { q with
    fifos := q.fifos.map (fun e => (e.1, { e.2 with keptBytes := [], keptPois := [] })) })
  { s with undo := s.undo.filter (fun u => match u with
    | .atomic _ q .. => q != sq
    | .saAdd _ q .. => q != sq
    | .saFence _ q .. => q != sq
    | .saClear _ q .. => q != sq) }

/-- The gang's superstep becomes unrevocable (R208). -/
def State.unrevoke (s : State) (sq : Nat) : State :=
  if (s.square sq).revocable then
    (s.modSquare sq (fun q => { q with revocable := false })).freeRevocable sq
  else s

/-- Copies the old contents of sectors about to be written into the journal (R206). -/
def State.journalFor (s : State) (c a n : Nat) : State :=
  if !(s.square (squareOf c)).revocable then s
  else
    (spans 128 a n).foldl (fun s sp =>
      let k := s.core c
      let sec := sp.1 / 128
      if !(s.square (squareOf c)).revocable || Map.has k.journal sec then s
      else match k.journalBank with
      | none => s.unrevoke (squareOf c)
      | some b =>
        -- a bank that waits for its promotion keeps its entries, which count (R76)
        if k.jcap ≤ k.journal.length then s.unrevoke (squareOf c) else
        let bs := k.lsBytes (128 * sec) 128
        let ps := (List.range 4).map (fun i => k.lsRdPois (128 * sec + 32 * i))
        s.setCore c { k with journal := Map.put k.journal sec (bs.map Prod.fst, ps, b) }) s

/-- A write into a core's local store, by the core, an engine or a message (R206, R283). -/
def State.lsWrite (s : State) (c a : Nat) (bs : PBytes) : State :=
  (s.journalFor c a bs.length).modCore c (fun k => k.lsWrite a bs)

/-- The gang's square of an undo record. -/
def Undo.square : Undo → Nat
  | .atomic _ q .. => q
  | .saAdd _ q .. => q
  | .saFence _ q .. => q
  | .saClear _ q .. => q

/-- The vector an undo record is of: slice, index. -/
def Undo.vector : Undo → Option (Nat × Nat)
  | .atomic .. => none
  | .saAdd sl _ i .. => some (sl, i)
  | .saFence sl _ i .. => some (sl, i)
  | .saClear sl _ i .. => some (sl, i)

/-- Whether two undo records are of one vector, or of atomics with a byte in common. -/
def Undo.meets (u v : Undo) : Bool :=
  match u, v with
  | .atomic _ _ pa w .., .atomic _ _ pb x .. => decide (pa < pb + x) && decide (pb < pa + w)
  | _, _ => u.vector.isSome && u.vector == v.vector

/-- The undo record of each kind of operation, from the vector or bytes as they stand. -/
def State.undoAdd (s : State) (sl sq i ofs : Nat) (bf16 : Bool) (row : Row) (pois : Bool) : Undo :=
  let v := s.vec sl i
  .saAdd sl sq i ofs bf16 row pois ((List.range 64).map (fun j => v.elem (ofs + j))) v.header
def State.undoFence (s : State) (sl sq i slot : Nat) (exact : Bool) : Undo :=
  let v := s.vec sl i
  .saFence sl sq i slot exact (if slot = 0 then v.sv0 else v.sv1) (if slot = 0 then v.slot0 else v.slot1) v.sumSq
def State.undoClear (s : State) (sl sq i : Nat) : Undo :=
  let v := s.vec sl i
  .saClear sl sq i (v.nr + 1) v.elems v.header v.st none

/-- One recorded operation undone; `again` tells that records of other gangs of the same place are applied again after it:
an evicted vector then comes back as its first such operation reloaded it. -/
def State.undoOne (s : State) (u : Undo) (again : Bool) : State :=
  match u with
  | .atomic _ _ pa _ _ _ _ old => s.wrBytes pa (markBytes false old)
  | .saAdd sl _ i ofs _ _ _ es h =>
    s.setVec sl i (((es.mapIdx (fun j e => (j, e))).foldl (fun v e => v.setElem (ofs + e.1) e.2) (s.vec sl i)).setHeader h)
  | .saFence sl _ i slot ex valid x sum =>
    let v := s.vec sl i
    let v := if ex then { v with sumSq := sum } else v
    s.setVec sl i (if slot = 0 then { v with sv0 := valid, slot0 := x } else { v with sv1 := valid, slot1 := x })
  | .saClear sl _ i _ es h st image =>
    match if again then image else none with
    | some (es, h) => s.setVec sl i ({ s.vec sl i with elems := es, st := 1 }.setHeader h)
    | none => s.setVec sl i ({ s.vec sl i with elems := es, st := st }.setHeader h)

/-- One recorded operation applied again, with a fresh record of it. -/
def State.redoOne (s : State) (u : Undo) : State × Undo :=
  match u with
  | .atomic sl q pa w op b d _ =>
    let old := (s.rdBytes pa w).map Prod.fst
    (s.wrBytes pa (markBytes false (natBytes w (op.eval (8 * w) (bytesNat old) (lowBits (8 * w) b) (lowBits (8 * w) d)))),
      .atomic sl q pa w op b d old)
  | .saAdd sl q i ofs bf row p _ _ =>
    (s.setVec sl i ((s.vec sl i).addRow ofs bf row p), s.undoAdd sl q i ofs bf row p)
  | .saFence sl q i slot ex _ _ _ => (s.setVec sl i ((s.vec sl i).capture slot ex), s.undoFence sl q i slot ex)
  | .saClear sl q i .. => (s.setVec sl i (s.vec sl i).clear, s.undoClear sl q i)

/-- Splits the undo records, newest first, into those that a gang's take-back undoes and the list with the fate of
each: a record of another gang is undone where the gang has an older one of the same place. -/
def undoneBy (sq : Nat) : List Undo → List (Undo × Bool)
  | [] => []
  | u :: us => (u, u.square == sq || us.any (fun v => v.square == sq && u.meets v)) :: undoneBy sq us

/-- Undoes a gang's atomics and SA operations (R88, R179): at each place it touched, every record back to the gang's
oldest is undone, newest first, and the records of other gangs among them are applied again in their order. -/
def State.undoGang (s : State) (sq : Nat) : State :=
  let marked := undoneBy sq s.undo
  let others (u : Undo) : Bool := marked.any (fun e => e.2 && e.1.square != sq && e.1.meets u)
  let s := marked.foldl (fun s e => if e.2 then s.undoOne e.1 (others e.1) else s) s
  -- oldest first
  let r := marked.reverse.foldl (fun (acc : State × List Undo) e =>
    if e.1.square = sq then acc
    else if e.2 then
      let (s', u) := acc.1.redoOne e.1
      (s', u :: acc.2)
    else (acc.1, e.1 :: acc.2)) (s, [])
  { r.1 with undo := r.2 }

/-- A core back at its snapshot with its journalled sectors (R207, R205): the armed flag is set, taint and the load
table are empty (R144). -/
def Core.restoreSnapshot (k : Core) : Core :=
  match k.snapshot with
  | none => k
  | some a =>
    let k := k.journal.foldl (fun k e =>
      let bs := (List.range 128).map (fun i => (e.2.1.getD i 0, e.2.2.1.getD (i / 32) false))
      k.lsWrite (128 * e.1) bs) k
    let a := { a with queues := a.queues.map (fun e => (e.1, e.2.map (fun q => { q with taint := Taint.clean }))) }
    -- the L1 keeps no value of an atomic that has been undone (R155)
    { k with arch := a, journal := [], l1 := [], level := 0, seq1 := SeqCtx.reset, seq2 := SeqCtx.reset, taint := [],
             loads := [], pend := [], inflight := [], cmds := [], pendMod := none, armed := true, gangWait := none,
             sleep := none, inbox := [], hashWait := none, hashPass := none, early := [],
             saWait := none, uops := [], ended := none, redWait := none }

/-- A FIFO rewound to its snapshot (R207). -/
def Fifo.rewind (f : Fifo) : Fifo :=
  { f with bytes := (f.keptBytes ++ f.bytes).take f.snapLen,
           pois := (f.keptPois ++ f.pois).take (f.snapLen / 32), keptBytes := [], keptPois := [] }

/-- Takes a core out of its slice's waiter table (R102). -/
def State.forgetWaiter (s : State) (c : Nat) : State :=
  match (s.core c).sleep with
  | some (.qwait h) => s.modSlice (h / 256) (fun k => { k with waiters := k.waiters.filter (fun w => w.1 != c) })
  | _ => s

/-- Invalidations that core `c` had sent go on without it. -/
def State.orphanInvals (s : State) (c : Nat) : State :=
  { s with invals := s.invals.map (fun e => (e.1, if e.2.core = c then { e.2 with core := Config.cores } else e.2)) }

/-- A task that ended in the superstep is bound to its core again (R207). -/
def State.rejoin (s : State) (c : Nat) : State :=
  match (s.core c).ended with
  | none => s
  | some (id, t, following) =>
    (s.modLaunch id (fun l =>
      { l.modTask t (fun k => { k with ended := false, bound := true, cause := 0 }) with
        ends := l.ends.filter (fun e => e.1 != t) })).modCore c
      (fun k => { k with task := some (id, t), following := following, ended := none })

/-- A square no longer asks for tempo, and loses its place among those that do (R230). -/
def State.forgetTempo (s : State) (sq : Nat) : State :=
  { s.modSquare sq (fun q => { q with tempoAsked := false }) with tempoQueue := s.tempoQueue.filter (· != sq) }

/-- Take-back of a square's gang (R207). -/
def State.takeBack (s : State) (sq : Nat) : State :=
  let cores := (List.range 4).map (4 * sq + ·)
  -- entries of the gang that have not performed are discarded and leave their counters
  let s := (s.square sq).xbuf.foldl (fun s e => s.modLaunch e.launch (fun l => l.pendSub e.task e.size)) s
  let s := s.undoGang sq
  let s := cores.foldl State.rejoin s
  let s := cores.foldl (fun s c => match s.launchOf c with
    | some (id, t, _) =>
      let s := s.modLaunch id (fun l => l.modTask t (fun k =>
        { k with phase := .compute, steps := if k.phase == .compute then k.steps else k.steps - 1 }))
      (((s.forgetWaiter c).orphanInvals c).dropCmds c).modCore c Core.restoreSnapshot
    | none => s) s
  let s := (s.modSquare sq (fun q => { q with
    xbuf := [], takeBacks := q.takeBacks + 1, gang := none, fifos := q.fifos.map (fun e => (e.1, e.2.rewind)) })).forgetTempo sq
  match cores.find? (fun c => (s.core c).task.isSome) with
  | none => s
  | some c =>
    match s.launchOf c with
    | none => s
    | some (id, t, l) =>
      let mark := (s.square sq).logMark
      if l.scr = 2 then s.setLogPos id t mark
      else match s.logged c 8 ((l.logPosOf t - mark) / 16) with
        | .chosen s _ => s
        | .stopped s => s

/-! ## The end of a task (R197, R275) -/

/-- When a launch's last task has ended: the completion word and the queue's completion count (R197). -/
def State.launchComplete (s : State) (id : Nat) : State :=
  match s.launch? id with
  | none => s
  | some l =>
    if (List.range l.count).all (fun t => (l.task t).ended) then
      let traps := (l.ends.map Prod.snd).filter (· != 0)
      let word := (traps.headD 0).toNat + 256 * (traps.length % 2 ^ 24)
      let s := if l.cmpl = 0 then s
        else s.deviceStore l.ctx (l.pcore 0) l.cmpl (markBytes false (natBytes 8 word))
      s.modLqueue l.queue (fun q => { q with count := (q.count + 1) % 2 ^ 32 })
    else s

/-- The core without its task, its micro-operation queue empty (R222). What it had already sent goes on to perform. The
snapshot and the journal of a revocable superstep stay for a take-back. -/
def Core.unbind (k : Core) (ctx : Nat) : Core :=
  { k with task := none, lastCtx := some ctx, level := 0, taint := [], loads := [], pend := [],
           inflight := k.inflight.map (fun a => { a with dest := .discard, slot := none }), pendMod := none,
           armed := false, gangWait := none, sleep := none, cmds := [], stopReq := [], stopped := none,
           following := false, inbox := [], hashWait := none, hashPass := none, qp := none, saWait := none,
           early := [], redWait := none, uops := [], deficit := 0 }

/-- Ends the task bound to core `c`, by a trap or without one (R275, R460): the end record when CMPL is nonzero, the
accounting of R197, and the context's release when this was its last bound task (R162). -/
def State.endTask (s : State) (c : Nat) (trap : Option TrapInfo) : State :=
  match s.launchOf c with
  | none => s
  | some (id, t, l) =>
    let k := s.core c
    let s := match trap with
      | some tr =>
        if l.cmpl = 0 then s
        else
          let epc := if tr.deferred then k.epc else (k.stopPoint tr.next).arch.pc
          let bs := natBytes 8 (k.causeWord tr (s.stopWord c tr)).toNat ++ natBytes 8 epc.toNat
            ++ natBytes 8 tr.faddr.toNat ++ natBytes 8 tr.fstart.toNat
          s.deviceStore l.ctx c (l.cmpl + 32 * (t + 1)) (markBytes false bs)
      | none => s
    let code : BitVec 8 := match trap with | some tr => BitVec.ofNat 8 tr.code | none => 0
    let s := s.modLaunch id (fun l =>
      { l.modTask t (fun k => { k with ended := true, bound := false, cause := code }) with ends := l.ends ++ [(t, code)] })
    let kept := (s.square (squareOf c)).revocable && k.snapshot.isSome
    let s := if k.gangWait.isSome then s.forgetTempo (squareOf c) else s
    let s := (((s.forgetWaiter c).orphanInvals c).dropCmds c).modCore c (fun k => { k.unbind l.ctx with
      ended := if kept then some (id, t, k.following) else none })
    (s.launchComplete id).contextIdle l.ctx

/-- The trap that a gang's event is to the cores that did not meet it: the same cause, at the instruction that each would
run next, with FADDR and FSTART 0 (DEDUCED, notes/assumptions/10.md). -/
def TrapInfo.forMate (t : TrapInfo) : TrapInfo := { code := t.code, sub := t.sub, between := true }

/-- Ends every task of a square's gang with the cause of an event (R207) that core `c` met; none where the array did. -/
def State.endGang (s : State) (sq c : Nat) (t : TrapInfo) : State :=
  (List.range 4).foldl (fun s i => s.endTask (4 * sq + i) (some (if 4 * sq + i = c then t else t.forMate))) s

/-- Whether an event takes the gang back (R207): a revocable superstep, at most twice. -/
def State.mayTakeBack (s : State) (sq : Nat) : Bool :=
  (s.square sq).revocable && decide ((s.square sq).takeBacks < 2)

/-- Take-back, or the end of the gang's tasks (R207), for an event that core `c` met. -/
def State.gangError (s : State) (sq c : Nat) (t : TrapInfo) : State :=
  if s.mayTakeBack sq then s.takeBack sq else s.endGang sq c t

/-- TVEC of a core's context (R273). -/
def State.tvec (s : State) (c : Nat) : Dword := (s.context (s.ctxOf c)).cr 0x48

/-- Taking a trap on core `c` (R272, R274), once older loads have performed (R270): take-back or the end of the gang's
tasks, or the end of the task, or the handler. A follower leaves its phalanx (R189). -/
def State.trapOn (s : State) (c : Nat) (t : TrapInfo) : State :=
  let k := s.core c
  if t.forGang then s.gangError (squareOf c) c t
  else if s.tvec c = 0 ∨ k.level = 2 ∨ (t.code = Cause.lease ∧ k.level = 0) then s.endTask c (some t)
  else s.setCore c { k.enterTrap t (s.tvec c) (s.stopWord c t) with following := false, inbox := [] }

/-- Whether a core of a square's gang has loads that have not performed. -/
def State.gangLoads (s : State) (sq : Nat) : Bool := (coresOf sq).any (fun c => (s.core c).loadsOut)

/-- A synchronous trap of the current core's instruction: older loads perform first, of every core that it stops (R270). -/
def State.trap (s : State) (t : TrapInfo) : State :=
  if s.me.loadsOut || (t.forGang && s.gangLoads (squareOf s.cur)) then s.wait else s.trapOn s.cur t

/-- A trap with a cause, FADDR and FSTART. -/
def State.trapWith (s : State) (code fa fs : Nat) : State := s.trap (trapAt code fa fs)

/-- ILLEGAL at the current instruction: FADDR the word, FSTART its address (R316). -/
def State.illegal (s : State) : State :=
  s.trapWith Cause.illegal s.me.word.toNat s.me.lastWord.toNat

/-- POISON for a consumed source (R284): FADDR the register's code, or 256 + queue, or 768. -/
def State.poisoned (s : State) (code : Nat) : State := s.trapWith Cause.poison code 0

/-- Whether a core's registers `rs` hold poison: the first that does. -/
def Core.firstPoison (k : Core) (rs : List R5) : Option R5 := rs.find? k.sideOf

/-- Whether two residues are a mismatch: they differ, or are no residue (R278). -/
def isMismatch (expct obs : BitVec 3) : Bool := expct != obs || expct == 7

/-- A machine-check record (R280). -/
def mcRecordOf (pc clock : Dword) (word : Word) (addr sub unit lane : Nat) (expct obs : BitVec 3) (rpl : Nat)
    (tbk : Bool) : BitVec 256 :=
  let maj := bitsOf word.toNat 25 6
  let min := -- each format's minor field (R311)
    if 0x30 ≤ maj ∧ maj ≤ 0x37 ∨ maj = 0x24 then bitsOf word.toNat 0 4
    else if 0x38 ≤ maj ∧ maj ≤ 0x3B then bitsOf word.toNat 0 6
    else if maj = 0x3C ∨ maj = 0x3D then bitsOf word.toNat 12 4
    else if maj = 0x1E ∨ maj = 0x1F ∨ 0x25 ≤ maj ∧ maj ≤ 0x29 ∨ maj = 0x3E then bitsOf word.toNat 0 7
    else if maj ≤ 0x03 ∨ maj = 0x0C ∨ maj = 0x0D ∨ 0x20 ≤ maj ∧ maj ≤ 0x23 ∨ 0x2A ≤ maj ∧ maj ≤ 0x2F then
      bitsOf word.toNat 0 10
    else 0
  BitVec.ofNat 256 (clock.toNat + 2 ^ 76 + (if tbk then 2 ^ 77 else 0) + rpl * 2 ^ 78 + obs.toNat * 2 ^ 80
    + expct.toNat * 2 ^ 83 + lane * 2 ^ 86 + unit * 2 ^ 92 + min * 2 ^ 96 + maj * 2 ^ 106 + sub * 2 ^ 112
    + addr * 2 ^ 128 + (if sub = 5 then 0 else pc.toNat * 2 ^ 192))

/-- Raises a machine check on core `c` (R278 to R281): its record, then R207, or the trap of sub-code SCRUB. -/
def State.machineCheck (s : State) (c sub addr unit lane : Nat) (expct obs : BitVec 3) (rpl : Nat) : State :=
  let t : TrapInfo := { code := Cause.machineCheck, sub := sub }
  let tbk := t.forGang && s.mayTakeBack (squareOf c)
  let s := s.modCore c (fun k => { k with
    mcRecord := mcRecordOf k.arch.pc (s.clockOf (squareOf c)) k.word addr sub unit lane expct obs rpl tbk })
  s.trapOn c t

/-! ## Doubled execution (R211, R212) -/

/-- The shadow of a core that runs a primary task (R210). -/
def State.shadowCore (s : State) (c : Nat) : Option Nat :=
  match s.launchOf c with
  | some (_, _, l) =>
    if l.dbl then some (4 * l.place.getD (l.squares + l.place.findIdx (· == squareOf c)) 0 + c % 4) else none
  | none => none

/-- The bytes of the local store that an engine command sends, with their poison: what its hash covers (R211). -/
def Cmd.outgoing (x : Cmd) (k : Core) : List Nat :=
  x.ranges.flatMap (fun r => if r.2.2 then [] else (k.lsBytes (r.1 % 2 ^ 21) r.2.1).map (fun b => b.1.toNat + (if b.2 then 256 else 0)))

/-- The hashes of what a command of a doubled core sends, its own and its shadow's. -/
def State.cmdHashes (s : State) (c : Nat) (x : Cmd) : Option (Dword × Dword) :=
  (s.shadowCore c).map (fun q => (Config.messageHash (x.outgoing (s.core c)), Config.messageHash (x.outgoing (s.core q))))

/-- An engine's message whose hashes differ, or one without a hash, is not forwarded: the core stops with DOUBLED_MISMATCH at
its next boundary (R212, R444). -/
def State.hashFails (s : State) (c id : Nat) (pc : Dword) : State :=
  s.modCore c (fun k => { k with
    cmds := k.cmds.map (fun x => if x.id = id then { x with sent := 3, ranges := [] } else x)
    stopReq := k.stopReq ++ [.engine (BitVec.ofNat 8 Cause.mismatch) false 0 pc] })

/-- A command that writes beyond its core performs, where its core is doubled, once the copies agree on it (R211). -/
def State.engineSends (s : State) (c : Nat) (x : Cmd) (f : State → State) : State :=
  match s.cmdHashes c x with
  | some (h, h') => if h = h' then f s else s.hashFails c x.id x.pc
  | none => f s

/-- An outgoing message of a doubled core passes once its hash has been found equal; until then the instruction
waits, and a differing or absent hash raises DOUBLED_MISMATCH there (R212). Other cores pass at once. -/
def State.sends (s : State) (msg : List Nat) (f : State → State) : State :=
  let dbl := match s.launchOf s.cur with | some (_, _, l) => l.dbl | none => false
  if !dbl then f s
  else match s.me.hashPass with
    | some true => f (s.modMe (fun k => { k with hashPass := none, hashWait := none }))
    | some false =>
      if s.gangLoads (squareOf s.cur) then s.wait
      else (s.modMe (fun k => { k with hashPass := none, hashWait := none })).trap { code := Cause.mismatch }
    | none => (s.modMe (fun k => { k with hashWait := some (Config.messageHash msg) })).wait

end Sys2Proof.Machine
end

