-- ==== Sys2Proof/Machine/Access.lean ====
section
/-! DEFINITION. Accesses in flight: issue, ordering, the L1, the home slice, performing (R78 to R91, R113 to R129,
R134 to R138). -/

namespace Sys2Proof.Machine

/-! ## Effective ordering (R320, R114) -/

/-- The columns of R320. `message` tells queue operations, sends and receives from plain loads and stores. -/
inductive OrdKind where
  | load | store | atomic
  deriving DecidableEq, Repr

/-- The effective ordering value under MDEF. -/
def effOrd (k : OrdKind) (message : Bool) (o : Nat) : Nat :=
  match k with
  | .load => match o with
    | 0 => if message then 1 else 0
    | 1 => 1
    | 2 => 2
    | 3 => 1
    | 4 => 2
    | _ => 5
  | .store => match o with
    | 0 => if message then 1 else 0
    | 1 => 1
    | 2 => 1
    | 3 => 3
    | 4 => 3
    | _ => 5
  | .atomic => if o = 0 then 1 else o

/-- The prefix's fields, or MDEF's (R320). A plain atomic is performed as relaxed (R113). -/
def Core.mods (k : Core) (kind : OrdKind) (message : Bool) : ModFields :=
  match k.pendMod with
  | some m => { m with ord := if m.ord = 0 && kind == .atomic then 1 else m.ord }
  | none =>
    let v := k.arch.mdef.toNat
    { ord := effOrd kind message (bitsOf v 9 3), scope := bitsOf v 6 3, space := bitsOf v 3 3,
      cache := bitsOf v 0 2, nt := false }

/-- The fields as a slice-queue operation uses them: it is strong whatever its prefix says (R113). -/
def ModFields.strong (m : ModFields) : ModFields := { m with ord := max 1 m.ord }

/-- The address space of a space value (R11): 0 virtual, 1 local, 2 remote, 3 host. -/
def spaceOf (v : Nat) : Nat := if v = 1 then 1 else if v = 0 then 2 else v + 1

def Access.acquires (a : Access) : Bool := a.kind.reads && (a.ord == 2 || a.ord == 4 || a.ord == 5)
def Access.releases (a : Access) : Bool := a.kind.stores && (a.ord == 3 || a.ord == 4 || a.ord == 5)
/-- Strong accesses (R113). -/
def Access.strong (a : Access) : Bool := a.ord != 0

/-- Spaces 2 and 5 are one memory. -/
def memoryOf (space : Nat) : Nat := if space = 5 then 2 else space

/-- Whether two spans of bytes have one in common. -/
def meetsSpan (a m b n : Nat) : Bool := decide (a < b + n) && decide (b < a + m)

/-- Whether an access touches bytes [a, a + n) of device memory. -/
def Access.touches (b : Access) (a n : Nat) : Bool :=
  memoryOf b.space == 2 && b.parts.any (fun q => meetsSpan q.pa q.size a n)

/-- Whether two parts lie in one place beyond the device: one device under one key, or by physical address. -/
def Part.near (p q : Part) : Bool := p.dev == q.dev && p.key == q.key && p.physical == q.physical

/-- Whether two parts of one memory share a byte. -/
def Part.meets (p q : Part) : Bool := p.near q && meetsSpan p.pa p.size q.pa q.size

/-- Whether an access touches a byte of a part. -/
def Access.touchesPart (b : Access) (space : Nat) (p : Part) : Bool :=
  memoryOf b.space == memoryOf space && b.parts.any (fun q => q.meets p)

/-- Whether two accesses touch a common byte. -/
def Access.overlaps (a b : Access) : Bool := a.parts.any (b.touchesPart a.space)

/-- What a store writes at byte `i` of a part: its last element there. -/
def Access.byteAt (b : Access) (p : Part) (i : Nat) : Option (Byte × Bool) :=
  b.parts.foldl (fun r q => if q.near p ∧ q.pa ≤ p.pa + i ∧ p.pa + i < q.pa + q.size then
    some (b.data.getD (q.idx + (p.pa + i - q.pa)) 0, b.pois) else r) none

/-- The bytes of a part that a store writes, if it writes them all (R83). -/
def Access.coverOf (b : Access) (p : Part) : Option PBytes := ((List.range p.size).map (b.byteAt p)).mapM (fun x => x)

/-- Whether an earlier unperformed access `b` holds back `a` (R124 to R129); a load after a store to its bytes is
`Core.loadClear`'s. -/
def holdsBack (b a : Access) : Bool :=
  (a.overlaps b && !(a.kind == .load && b.kind == .store))
    || b.acquires || a.releases || (b.kind == .rel && a.kind.stores) || (a.ord == 5 && b.ord == 5)
    || (b.kind.reads && a.kind.stores && (a.strong || a.kind != .store))

/-- The accesses of a core before one of them. -/
def Core.before (k : Core) (id : Nat) : List Access := k.inflight.takeWhile (fun b => b.id != id)

/-- The youngest unacknowledged store of a core before access `a` that touches a part of it. -/
def Core.storeBefore (k : Core) (a : Access) (p : Part) : Option Access :=
  (k.before a.id).reverse.find? (fun b => b.kind == .store && b.touchesPart a.space p)

/-- Whether no older store of its core keeps a load waiting: each part is covered by the youngest that touches it, or
touched by none (R83). -/
def Core.loadClear (k : Core) (a : Access) : Bool :=
  a.kind != .load || a.parts.all (fun p => p.isDone || match k.storeBefore a p with
    | some b => (b.coverOf p).isSome
    | none => true)

/-- Whether an access may perform: its operands' taint is empty (R138), and nothing before it holds it back. -/
def Core.mayPerform (k : Core) (a : Access) : Bool :=
  a.taint.isEmpty && (k.before a.id).all (fun b => !holdsBack b a) && k.loadClear a

/-- Bytes of device memory that an exchange-buffer entry writes: first byte and count. -/
def XEntry.span (e : XEntry) : Nat × Nat :=
  match e.kind with
  | .saadd .. => (0, 0)
  | _ => (e.pa, e.size)

/-- The entries of its own task's exchange-buffer stores and atomics before an access of core `c`. -/
def State.entriesBefore (s : State) (c : Nat) (a : Access) : List XEntry :=
  (s.square (squareOf c)).xbuf.filter (fun e => e.core == c && a.owner == some (e.launch, e.task) && decide (e.id < a.id))

/-- Whether an access may perform: nothing before it holds it back, and a store or atomic follows its task's own
exchange-buffer entries to the same bytes (R121, R123). -/
def State.mayPerform (s : State) (c : Nat) (a : Access) : Bool :=
  (s.core c).mayPerform a &&
    !(a.kind.stores && (s.entriesBefore c a).any (fun e => a.touches e.span.1 e.span.2))

/-! ## The L1 (R79 to R84) -/

def L1Line.get (l : L1Line) (ofs n : Nat) : PBytes :=
  (List.range n).map (fun i =>
    (BitVec.ofNat 8 (bitsOf l.data.toNat (8 * (ofs + i)) 8), l.pois.getLsbD ((ofs + i) / 32)))

/-- The L1 tag of a part of an access to a space (R81). -/
def Part.tag (p : Part) (space : Nat) : L1Tag := { space := memoryOf space, dev := p.dev, key := p.key }

/-- The line that holds every byte of [a, a + n), if any. -/
def Core.l1Find (k : Core) (tag : L1Tag) (a n : Nat) : Option L1Line :=
  k.l1.find? (fun l => l.tag == tag && l.line == a / 128 &&
    (List.range n).all (fun i => l.held.getLsbD (a % 128 + i)))

def Core.l1Drop (k : Core) (tag : L1Tag) (a : Nat) : Core :=
  { k with l1 := k.l1.filter (fun l => !(l.tag == tag && l.line == a / 128)) }

/-- The tag of device memory's lines. -/
def deviceTag : L1Tag := { space := 2 }

/-- A line from bytes at `a`. -/
def l1Of (tag : L1Tag) (a : Nat) (bs : PBytes) : L1Line :=
  let ofs := a % 128
  { tag := tag, line := a / 128, way := 0, data := BitVec.ofNat 1024 (bytesNat (bs.map Prod.fst) * 256 ^ ofs),
    held := BitVec.ofNat 128 ((2 ^ bs.length - 1) * 2 ^ ofs),
    pois := BitVec.ofNat 4 ((List.range 4).foldl (fun acc g =>
      acc + (if (bs.mapIdx (fun i b => b.2 && (ofs + i) / 32 == g)).any id then 2 ^ g else 0)) 0) }

/-- Allocates a line in a live way of its set (R84): a free one, else that of the set's oldest line; a stream line is
the next victim (R79). -/
def Core.l1Alloc (k : Core) (l : L1Line) (stream : Bool) : Core :=
  let k := k.l1Drop l.tag (128 * l.line)
  let same := k.l1.filter (fun m => m.line % 64 == l.line % 64)
  let live := (List.range 8).filter (fun w => !k.l1Off.contains w)
  let put (k : Core) (l1 : List L1Line) (w : Nat) : Core :=
    { k with l1 := if stream then { l with way := w } :: l1 else l1 ++ [{ l with way := w }] }
  match live.find? (fun w => !same.any (fun m => m.way == w)) with
  | some w => put k k.l1 w
  | none => match same.find? (fun m => live.contains m.way) with
    | some v => put k (k.l1.erase v) v.way
    | none => k

/-- A store's update of a line that is present (R79). -/
def Core.l1Update (k : Core) (tag : L1Tag) (a : Nat) (bs : PBytes) : Core :=
  { k with l1 := k.l1.map (fun l =>
    if l.tag == tag && l.line == a / 128 then
      let ofs := a % 128
      let m : BitVec 1024 := BitVec.ofNat 1024 ((256 ^ bs.length - 1) * 256 ^ ofs)
      let d : BitVec 1024 := BitVec.ofNat 1024 (bytesNat (bs.map Prod.fst) * 256 ^ ofs)
      let pm := poisonAfter ((List.range 4).filterMap (fun g => if l.pois.getLsbD g then some (g, true) else none)) ofs bs
      { l with data := (l.data &&& ~~~m) ||| d,
               pois := BitVec.ofNat 4 ((List.range 4).foldl (fun acc g => acc + (if Map.get false pm g then 2 ^ g else 0)) 0) }
    else l) }

/-- An acquire wider than core scope drops the whole L1 (R82); a load that has performed before it performs again
(R127). -/
def Core.acquireL1 (k : Core) (scope : Nat) : Core :=
  if scope = 0 then { k with early := [] } else { k with l1 := [], early := [] }

/-! ## Home slices (R85 to R91) -/

/-- Set of a line in its slice (R86). -/
def setOf (line : Nat) : Nat := line / 2048 % 256

/-- The way that a set's pseudo-LRU record points to among some ways (notes/assumptions/12.md): node `n` of the tree is
bit n, set when its upper half is the older. -/
def plruWay (bits : Nat) (ok : Nat → Bool) : Nat → Nat → Option Nat
  | 0, n => if ok (n - 16) then some (n - 16) else none
  | d + 1, n =>
    let (a, b) := if bits.testBit n then (2 * n + 1, 2 * n) else (2 * n, 2 * n + 1)
    (plruWay bits ok d a).or (plruWay bits ok d b)

/-- The record after a use of way `w`: every node on its path points away, or towards it for a stream line (R79). -/
def plruUse (bits w : Nat) (stream : Bool) : Nat :=
  (List.range 4).foldl (fun b d =>
    let n := (16 + w) / 2 ^ (d + 1)
    let upper := (16 + w) / 2 ^ d % 2 == 1
    let older := if stream then upper else !upper
    if older == b.testBit n then b else b ^^^ 2 ^ n) bits

/-- A way for a new line: a free live way not lent, or the way of a victim, stream lines first, as the set's
pseudo-LRU record has it; the victim's line (R87). -/
def State.victim (s : State) (n : Nat) : Nat × Option Nat :=
  let sl := s.homeOf n
  let lent := s.lentWays sl
  let free (w : Nat) := !(s.slice sl).offWays.contains w && !lent.contains w
  let same := s.lines.filter (fun e => setOf e.1 == setOf n && s.homeOf e.1 == sl && e.1 != n)
  match (List.range 16).find? (fun w => free w && !same.any (fun e => e.2.way == w)) with
  | some w => (w, none)
  | none =>
    let idle := same.filter (fun e => !e.2.busy && free e.2.way)
    let among (es : List (Nat × Line)) : Option (Nat × Line) :=
      match plruWay (Map.get 0 (s.slice sl).plru (setOf n)) (fun w => es.any (fun e => e.2.way == w)) 4 1 with
      | some w => es.find? (fun e => e.2.way == w)
      | none => none
    match (among (idle.filter (fun e => e.2.stream))).or (among idle) with
    | some e => (e.2.way, some e.1)
    | none => (16, none)

/-- Makes the line of `pa` present, dropping a victim whose dirty sectors are written back: it is busy until then
(R87, R89). -/
def State.allocLine (s : State) (n : Nat) (stream : Bool) : State :=
  if Map.has s.lines n then s
  else
    let (w, v) := s.victim n
    if w = 16 then s
    else
      let s := match v with
        | some m => s.dropLine m
        | none => s
      { s with lines := Map.put s.lines n ({ Line.reset with stream := stream, way := w }) }

/-- A use of a line enters its set's pseudo-LRU record. -/
def State.useLine (s : State) (n : Nat) : State :=
  let l := s.line n
  if 16 ≤ l.way then s
  else s.modSlice (s.homeOf n) (fun k =>
    { k with plru := Map.set 0 k.plru (setOf n) (plruUse (Map.get 0 k.plru (setOf n)) l.way l.stream) })

/-- The slice's part in an access that performs at it: allocation, the sector's valid and dirty bits. A miss under
attribute 3 allocates nothing, neither a line nor a sector (R79). -/
def State.touch (s : State) (pa ca : Nat) (writes : Bool) : State :=
  let n := pa / 1024
  let bit : BitVec 8 := BitVec.twoPow 8 (pa / 128 % 8)
  let s := if ca = 3 then s else s.allocLine n (ca == 1)
  if Map.has s.lines n ∧ (ca ≠ 3 ∨ (s.line n).valid &&& bit ≠ 0) then
    let l := s.line n
    let l := { l with valid := l.valid ||| bit, dirty := if writes then l.dirty ||| bit else l.dirty }
    ({ s with lines := Map.put s.lines n l }).useLine n
  else s

/-! ## Performing -/

/-- A load's bytes under its own task's older exchange-buffer stores of number `lo` and up, youngest last (R83). -/
def State.overlay (s : State) (c : Nat) (a : Access) (lo pa : Nat) (bs : PBytes) : PBytes :=
  let es := if memoryOf a.space = 2 then (s.entriesBefore c a).filter (fun e => decide (lo ≤ e.id)) else []
  if es.isEmpty then bs
  else bs.mapIdx (fun i b =>
    es.foldl (fun b e => match e.kind with
      | .store _ data p =>
        if e.pa ≤ pa + i ∧ pa + i < e.pa + e.size then (data.getD (pa + i - e.pa) 0, p) else b
      | _ => b) b)

/-- Whether a layer serves an access that it has accepted: it is on, or still draining before a power-down (R57). -/
def Core.layerServes (k : Core) (va : Nat) : Bool :=
  let l := k.layer (decide (2 ^ 20 ≤ va))
  l.on && (!l.busy || l.down)

/-- Whether an access passes its L1 (R79, R119). -/
def Access.pastL1 (a : Access) (p : Part) : Bool := (a.strong && a.scope != 0) || decide (2 ≤ p.ca) || a.space == 5

/-- The bytes of a load's part: its own youngest store to each byte, in flight or in the exchange buffer, the bank, the L1,
or the owner, whose slice arbitrates (R83, R119, R79, R91). -/
def State.loadPart (s : State) (c : Nat) (a : Access) (p : Part) : Option (State × PBytes) :=
  let k := s.core c
  match k.storeBefore a p with
  | some b => (b.coverOf p).map (fun bs => (s, s.overlay c a b.id p.pa bs))
  | none =>
    if a.space = 1 then (if k.layerServes p.pa then some (s, k.lsBytes p.pa p.size) else none)
    else match if a.pastL1 p then none else k.l1Find (p.tag a.space) p.pa p.size with
    | some l => some (s, s.overlay c a 0 p.pa (l.get (p.pa % 128) p.size))
    | none =>
      if memoryOf a.space = 2 ∧ !s.refuses c a.id p.pa then
        (s.arbitrateFor (s.ownerOf a.owner) c).map (fun s =>
          let bs := s.rdBytes p.pa p.size
          let s := s.touch p.pa p.ca false
          let s := s.modCore c (fun k =>
            if a.pastL1 p then k.l1Drop deviceTag p.pa
            else k.l1Alloc (l1Of deviceTag (p.pa / 128 * 128) (s.rdBytes (p.pa / 128 * 128) 128)) (p.ca == 1))
          (s, s.overlay c a 0 p.pa bs))
      else none

/-- A store of core `c` performs at its home slice, its own L1 kept (R79, R81). -/
def State.storeAt (s : State) (c pa ca : Nat) (past : Bool) (bs : PBytes) : State :=
  ((s.wrBytes pa bs).touch pa ca true).modCore c (fun k =>
    if past then k.l1Drop deviceTag pa else k.l1Update deviceTag pa bs)

/-- A store's part at its bank or its home slice. -/
def State.storePart (s : State) (c : Nat) (a : Access) (p : Part) : Option State :=
  let bs := markBytes a.pois ((a.data.drop p.idx).take p.size)
  if a.space = 1 then (if (s.core c).layerServes p.pa then some (s.lsWrite c p.pa bs) else none)
  else if memoryOf a.space = 2 ∧ !s.refuses c a.id p.pa then
    (s.arbitrateFor (s.ownerOf a.owner) c).map (fun s =>
      s.storeAt c p.pa p.ca (decide (2 ≤ p.ca) || a.space == 5) bs)
  else none

/-- Records that a slice's undo store holds (R88, R179). -/
def State.undoHeld (s : State) (sl : Nat) : Nat :=
  s.undo.foldl (fun a u => a + match u with
    | .atomic sl' .. => if sl' = sl then 1 else 0
    | .saAdd sl' .. => if sl' = sl then 1 else 0
    | .saFence sl' .. => if sl' = sl then 1 else 0
    | .saClear sl' _ _ n _ _ _ _ => if sl' = sl then n else 0) 0

/-- Takes `n` undo records for core `c` at a slice, in a revocable superstep; a full store ends it (R88). -/
def State.takeUndo (s : State) (c sl n : Nat) (u : Undo) : State :=
  let sq := squareOf c
  if !(s.square sq).revocable then s
  else if Config.undoRecords < s.undoHeld sl + n then s.unrevoke sq
  else { s with undo := u :: s.undo }

/-- Undo record of an atomic in a revocable superstep (R88). -/
def State.recordUndo (s : State) (c pa w : Nat) (op : Rmw) (b d : Dword) (old : List Byte) : State :=
  let sl := s.homeOf (pa / 1024)
  s.takeUndo c sl 1 (.atomic sl (squareOf c) pa w op b d old)

/-- An atomic's read and write at its owner in device memory, as one step (R369, R370): the old bytes. -/
def State.atomicAt (s : State) (c pa w ca : Nat) (op : Rmw) (opnd comp : Dword) (pois : Bool) : State × PBytes :=
  let old := s.rdBytes pa w
  let m := bytesNat (old.map Prod.fst)
  let b := lowBits (8 * w) opnd
  let r := op.eval (8 * w) m b (lowBits (8 * w) comp)
  let f := if w = 8 then Fmt.f64 else Fmt.f32
  let fp := op == .fadd && (m == f.poison || b == f.poison || pois || old.any (·.2))
  let r := if fp then f.poison else r
  let p := old.any (·.2) || pois || fp
  let s := s.recordUndo c pa w op opnd comp (old.map Prod.fst)
  let s := (s.wrBytes pa (markBytes p (natBytes w r))).touch pa ca true
  -- M read with its poison, of AMOFADD the pattern too (R370)
  (s.modCore c (fun k => k.l1Drop deviceTag pa),
    old.map (fun e => (e.1, e.2 || (op == .fadd && m == f.poison))))

/-- One part of an access performs; none while its slice refuses it or it must go to another device. -/
def State.performPart (s : State) (c : Nat) (a : Access) (p : Part) : Option (State × Part) :=
  match a.kind with
  | .load => (s.loadPart c a p).map (fun (s, bs) =>
      (s, { p with isDone := true, data := bs.map Prod.fst, pois := bs.any (·.2) }))
  | .store => (s.storePart c a p).map (fun s => (s, { p with isDone := true }))
  | .atomic op =>
    if memoryOf a.space = 2 ∧ !s.refuses c a.id p.pa then
      (s.arbitrateFor (s.ownerOf a.owner) c).map (fun s =>
        let (s, old) := s.atomicAt c p.pa p.size p.ca op a.opnd a.comp a.pois
        (s, { p with isDone := true, data := old.map Prod.fst, pois := old.any (·.2) }))
    else none
  | .rel => none

/-- The access with a part replaced. -/
def Access.setPart (a : Access) (p : Part) : Access :=
  { a with parts := a.parts.map (fun q => if q.idx = p.idx then p else q) }

def Core.setAccess (k : Core) (a : Access) : Core :=
  { k with inflight := k.inflight.map (fun b => if b.id = a.id then a else b) }

/-- A load that began early, as far as it has performed now. -/
def Core.setEarly (k : Core) (a : Access) : Core :=
  { k with early := k.early.map (fun e => if e.acc.id = a.id then { e with acc := a } else e) }

/-- The bytes an access has read, in place. -/
def Access.bytes (a : Access) : List Byte := a.parts.flatMap (·.data)
def Access.readPois (a : Access) : Bool := a.parts.any (·.pois)

/-- Fills a reserved queue entry (R186). -/
def Core.fillEntry (k : Core) (q serial : Nat) (row : Row) (pois : Bool) : Core :=
  k.setQueue q ((k.queue q).map (fun e =>
    if e.serial = serial then { e with data := row, pois := pois, filled := true } else e))

/-- The accesses in flight without the REL markers that nothing precedes any longer (R129). -/
def dropRel (as : List Access) : List Access := as.dropWhile (fun a => a.kind == .rel)

/-- The access has performed: its value is bound, its slot freed (R118, R137); an acquire drops the L1 (R127). -/
def State.finish (s : State) (c : Nat) (a : Access) : State :=
  let s := if 3 ≤ a.space ∧ a.space ≤ 4 ∧ a.kind.stores then s.unrevoke (squareOf c) else s
  s.modCore c (fun k =>
    let k := { k with inflight := dropRel (k.inflight.filter (fun b => b.id != a.id)) }
    let k := match a.dest with
      | .discard => k
      | .reg r =>
        let mine := match a.slot with | some n => Map.get 32 k.pend r == n | none => true
        if mine then
          let k := k.setX (BitVec.ofNat 5 r) (BitVec.ofNat 64 (bytesNat a.bytes)) a.readPois (k.taintOf r)
          { k with pend := Map.erase k.pend r }
        else k
      | .queue q n => k.fillEntry q n (rowOfBytes a.bytes) a.readPois
    let k := match a.slot with | some n => k.freeSlot n | none => k
    if a.acquires then k.acquireL1 a.scope else k)

/-- Performs the parts of an access that may perform, in ascending order. -/
def State.performAll (s : State) (c : Nat) (a : Access) : List Part → State × Access
  | [] => (s, a)
  | p :: ps =>
    if p.isDone then State.performAll s c a ps
    else match s.performPart c a p with
      | some (s', p') => State.performAll s' c (a.setPart p') ps
      | none => State.performAll s c a ps

/-- The requests of an access to another device or the host, one for each part that has not performed (R45, R46). -/
def Access.requests (a : Access) : List Outgoing :=
  (a.parts.filter (fun p => !p.isDone)).map (fun p =>
    let dev := if a.space = 4 then 2 ^ 18 else p.dev
    let far := a.space == 3 && p.physical
    match a.kind with
    | .atomic op =>
      { dev := dev, what := { kind := .atomic op p.size a.opnd a.comp, key := p.key, ofs := p.pa, size := p.size, data := [] } }
    | .store =>
      { dev := dev, what := { kind := if far then .physStore else .store, key := p.key, ofs := p.pa, size := p.size,
                              data := (a.data.drop p.idx).take p.size } }
    | _ => { dev := dev, what := { kind := if far then .physLoad else .load, key := p.key, ofs := p.ask.1, size := p.ask.2, data := [] } })

/-- An access tries to perform: when nothing before it holds it back, its parts perform, and it finishes when all
have. A request to another device or the host leaves for it (R45, R46). -/
def State.tryAccess (s : State) (c : Nat) (a : Access) : State :=
  if a.kind = .rel ∨ !s.mayPerform c a then s
  else
    let (s, a) := s.performAll c a a.parts
    if a.parts.all (·.isDone) then s.finish c a
    else if a.space = 1 ∨ memoryOf a.space = 2 ∨ a.sent then s.modCore c (fun k => k.setAccess a)
    else (s.modCore c (fun k => k.setAccess { a with sent := true })).sendOut a.requests

/-- Whether a load that has performed early touches bytes that an access touches. -/
def Early.meets (e : Early) (a : Access) : Bool := e.acc.overlaps a

/-- An access as the current core issues it, in the context that translates it: its own unless the access names one. -/
def State.issued (s : State) (a : Access) : Access :=
  { a with id := s.me.serial, pc := s.me.arch.pc, ctx := if a.ctx < Config.contexts then a.ctx else s.ctxOf s.cur,
           owner := s.me.task }

/-- Issues an access: it takes its place in the core's order and performs at once, unless the model's `delays` says
that it performs later. A younger load of the same bytes that has performed performs again (R123). -/
def State.issue (s : State) (a : Access) : State :=
  let a := s.issued a
  let s := s.modMe (fun k => { k with
    inflight := k.inflight ++ [a], serial := k.serial + 1, early := k.early.filter (fun e => !e.meets a) })
  match s.delays with
  | true :: ds => { s with delays := ds }
  | false :: ds => { s with delays := ds }.tryAccess s.cur a
  | [] => s.tryAccess s.cur a

/-- A unit keeps the leaves with M = 1 that an access it holds met, so that only the invalidation of R37's last step
resolves them again. -/
def State.keepHeld (s : State) (w : Who) (vas : List Nat) : State :=
  let held := heldKind w.unit
  if w.unit = 4 then vas.foldl (fun s va => s.keepWalked w.ctx va 1) s
  else vas.foldl (fun s va => match s.lookup w.core w.unit w.ctx va with
    | .leaf p n =>
      if pteM p && (tlbFind (s.core w.core).tlb held (s.asid w.ctx) va).isNone then
        s.modCore w.core (fun k => { k with tlb := k.tlb ++
          [{ unit := held, asid := s.asid w.ctx, va := va / n * n, size := n, leaf := BitVec.ofNat 64 p }] })
      else s
    | _ => s) s

/-- A held access waits (R37). -/
def State.holdAt (s : State) (w : Who) (vas : List Nat) : State := (s.keepHeld w vas).wait

/-- A new access, untainted and in no named context; one to space 3 or 4 acts at system scope (R116). -/
def mkAccess (kind : AccKind) (space : Nat) (m : ModFields) (width : Nat) (dest : Dest) (slot : Option Nat)
    (parts : List Part) : Access :=
  { id := 0, pc := 0, kind := kind, space := space, ord := m.ord, scope := if space = 3 ∨ space = 4 then 4 else m.scope,
    width := width, dest := dest, slot := slot, parts := parts, data := [], pois := false, opnd := 0, comp := 0,
    ctx := Config.contexts, owner := none, sent := false, taint := Taint.clean }

/-- Waits for tainted operands (R138). -/
def Core.tainted (k : Core) (rs : List Nat) : Bool := !(k.taints rs).isEmpty

/-- Places store parts in the square's exchange buffer (R203): PHASE when it is full. A buffered atomic takes a slot of
the outstanding-load table until it performs (R134). -/
def State.bufferStore (s : State) (parts : List Part) (start cache : Nat) (slotted : Bool) (size : Nat → Nat)
    (kind : Part → XKind) (done : State → State) : State :=
  let sq := squareOf s.cur
  match s.launchOf s.cur with
  | none => s.wait
  | some (id, t, l) =>
    let total := parts.foldl (fun a p => a + size p.size) 0
    if Config.exchangeEntries < (s.square sq).xbuf.length + parts.length then s.trapWith Cause.phase 0 0
    else if !l.pendFits t total then s.wait
    else match if slotted then s.me.takeSlot.map (fun x => (some x.1, x.2)) else some (none, s.me) with
    | none => s.wait
    | some (slot, k) =>
      let s := s.setMe k
      let es := parts.mapIdx (fun i p =>
        { core := s.cur, launch := id, task := t, pc := s.me.arch.pc, va := p.va, pa := p.pa, start := start,
          size := size p.size, privileged := s.me.level != 0, kind := kind p, step := (l.task t).steps,
          id := s.me.serial + i, cache := cache, slot := slot.map (fun n => (n, Map.get 0 s.me.loads n)),
          refusals := 0 : XEntry })
      let s := s.modLaunch id (fun l => l.pendAdd t total)
      let s := s.modMe (fun k => { k with
        serial := k.serial + parts.length,
        early := k.early.filter (fun e => !es.any (fun x => e.acc.touches x.span.1 x.span.2)) })
      done (s.modSquare sq (fun q => { q with xbuf := q.xbuf ++ es }))

end Sys2Proof.Machine
end

