-- ==== Sys2Proof/Machine/Flags.lean ====
section
/-! DEFINITION. Reading floating-point operands, sampling the rounding mode, writing results with their flags, side
bits and taint (R295, R303, R304, R306, R333, R341). -/

namespace Sys2Proof.Machine

/-- Writes a scalar result whose value is given, poison and taint taken from its sources (R333), and retires. -/
def State.writeX (s : State) (d : R5) (srcs : List R5) (v : Dword) : State :=
  let k := s.me
  (s.setMe (k.setX d v (srcs.any k.sideOf) (k.taints (srcs.map BitVec.toNat)))).retire

/-- Writes a scalar result with the side bit given; taint from its sources. -/
def State.writeXP (s : State) (d : R5) (srcs : List R5) (v : Dword) (p : Bool) : State :=
  let k := s.me
  (s.setMe (k.setX d v p (k.taints (srcs.map BitVec.toNat)))).retire

/-- Bits w − 1:0 of a floating-point source (R341). -/
def Core.fpBits (k : Core) (f : Fmt) (r : R5) : Nat := lowBits f.width (k.x r)
/-- Whether a floating-point source is poison (R295). -/
def Core.fpPois (k : Core) (f : Fmt) (r : R5) : Bool := k.sideOf r || k.fpBits f r == f.poison

/-- Runs `g` under the mode that a rounding field names, static or sampled; a sampled 6 or 7 faults FORMAT (R304). -/
def State.withMode (s : State) (rm : Nat) (g : RMode → State) : State :=
  let v := if rm = 7 then bitsOf s.me.arch.rmode.toNat 0 3 else rm
  match roundMode v with
  | some m => g m
  | none => s.trapWith Cause.format v 0

/-- Runs `g` under RMODE's mode (R304). -/
def State.sampled (s : State) (g : RMode → State) : State := s.withMode 7 g

/-- Writes a floating-point result of format `f`: poison when a source is, else the rounded pattern with its flags. -/
def State.writeFp (s : State) (f : Fmt) (d : R5) (srcs : List R5) (r : Rounded) : State :=
  let k := s.me
  if srcs.any (k.fpPois f) then s.writeXP d srcs (BitVec.ofNat 64 f.poison) true
  else (s.setMe (k.orFlags r.flags)).writeXP d srcs (BitVec.ofNat 64 r.bits) false

/-- FCMP's and VCMP's conditions (R344): the result and NV. -/
def fcmp (f : Fmt) (cc a b : Nat) : Bool × Dword :=
  let x := f.val a
  let y := f.val b
  let sig : Dword := if x.signals || y.signals then Flag.nv else 0
  let any : Dword := if x.isNan || y.isNan then Flag.nv else 0
  let c := FVal.cmp x y
  match cc with
  | 0 => (c == some .eq, sig)
  | 1 => (c == some .lt, any)
  | 2 => (c == some .lt || c == some .eq, any)
  | _ => (x.isNan || y.isNan, sig)

/-- The flags of several roundings together. -/
def flagsOf (rs : List Rounded) : Dword := rs.foldl (fun a r => a ||| r.flags) 0

end Sys2Proof.Machine
end

