-- ==== Sys2Proof/Machine/Float.lean ====
section
/-! DEFINITION. Scalar floating point, major 0x0C (R341 to R346). -/

namespace Sys2Proof.Machine

/-- An arithmetic form of R343 with sources a and b: the rounded result under the mode. -/
def State.fpOp (s : State) (f : BitVec 2) (rm : BitVec 3) (d a b : R5) (g : RMode → FVal → FVal → FVal) : Res :=
  let t := Fmt.ofField f
  .next (s.withMode rm.toNat (fun m =>
    s.writeFp t d [a, b] (t.round m (g m (t.val (s.me.fpBits t a)) (t.val (s.me.fpBits t b))))))

/-- FADD (R343). -/
def execFadd (_m : BitVec 1) (d a b : R5) (r : BitVec 3) (f : BitVec 2) (st : State) : Res :=
  st.fpOp f r d a b FVal.add

/-- FSUB (R343). -/
def execFsub (_m : BitVec 1) (d a b : R5) (r : BitVec 3) (f : BitVec 2) (st : State) : Res :=
  st.fpOp f r d a b FVal.sub

/-- FMUL (R343). -/
def execFmul (_m : BitVec 1) (d a b : R5) (r : BitVec 3) (f : BitVec 2) (st : State) : Res :=
  st.fpOp f r d a b (fun _ x y => x.mul y)

/-- FMA (R343): a × b + d, rounded once. -/
def execFma (_m : BitVec 1) (d a b : R5) (r : BitVec 3) (f : BitVec 2) (st : State) : Res :=
  let t := Fmt.ofField f
  .next (st.withMode r.toNat (fun m => st.writeFp t d [a, b, d]
    (t.round m (FVal.fma m (t.val (st.me.fpBits t a)) (t.val (st.me.fpBits t b)) (t.val (st.me.fpBits t d))))))

/-- FDIV (R343). -/
def execFdiv (_m : BitVec 1) (d a b : R5) (r : BitVec 3) (f : BitVec 2) (st : State) : Res :=
  let t := Fmt.ofField f
  .next (st.withMode r.toNat (fun m =>
    st.writeFp t d [a, b] (t.div m (t.val (st.me.fpBits t a)) (t.val (st.me.fpBits t b)))))

/-- FSQRT (R343). -/
def execFsqrt (_m : BitVec 1) (d a : R5) (r : BitVec 3) (f : BitVec 2) (st : State) : Res :=
  let t := Fmt.ofField f
  .next (st.withMode r.toNat (fun m => st.writeFp t d [a] (t.sqrt m (t.val (st.me.fpBits t a)))))

/-- FMIN (R343). -/
def execFmin (_m : BitVec 1) (d a b : R5) (f : BitVec 2) (st : State) : Res :=
  let t := Fmt.ofField f
  .next (st.writeFp t d [a, b] (t.minMax false (st.me.fpBits t a) (st.me.fpBits t b)))

/-- FMAX (R343). -/
def execFmax (_m : BitVec 1) (d a b : R5) (f : BitVec 2) (st : State) : Res :=
  let t := Fmt.ofField f
  .next (st.writeFp t d [a, b] (t.minMax true (st.me.fpBits t a) (st.me.fpBits t b)))

/-- FCMP (R344): an integer result, computed as usual; a poisoned source sets its side bit (R333). -/
def execFcmp (_m : BitVec 1) (d a b : R5) (c : BitVec 3) (f : BitVec 2) (st : State) : Res :=
  let t := Fmt.ofField f
  let k := st.me
  let (v, fl) := fcmp t c.toNat (k.fpBits t a) (k.fpBits t b)
  .next ((st.setMe (k.orFlags fl)).writeXP d [a, b] (boolDword v) (k.fpPois t a || k.fpPois t b))

/-- The integer types of R345: bits, signed. -/
def intType (t : Nat) : Nat × Bool :=
  if t = 4 then (64, true) else if t = 5 then (64, false) else if t = 6 then (32, true) else (32, false)

/-- A pattern of integer type `t` as a number. -/
def intVal (t : Nat) (x : Dword) : Int :=
  let (w, signed) := intType t
  if signed then sx w (lowBits w x) else lowBits w x

/-- A value rounded into integer type `t` and extended to a dword (R345), with its flags. -/
def toIntType (mode : RMode) (t : Nat) (v : FVal) : Dword × Dword :=
  let (w, signed) := intType t
  let (i, fl) := v.toRange mode (if signed then -(2 ^ (w - 1)) else 0) (if signed then 2 ^ (w - 1) - 1 else 2 ^ w - 1)
  (BitVec.ofInt 64 i, fl)

/-- FCVT (R345). -/
def execFcvt (_m : BitVec 1) (d a : R5) (x : BitVec 1) (t : BitVec 4) (r : BitVec 3) (f : BitVec 2) (st : State) : Res :=
  let tf := Fmt.ofField f
  let k := st.me
  .next (st.withMode r.toNat (fun m =>
    if x = 1 then
      -- a floating-point poison source gives integer 0 with the side bit set (R283)
      if k.fpPois tf a then st.writeXP d [a] 0 true
      else
        let (v, fl) := toIntType m t.toNat (tf.val (k.fpBits tf a))
        (st.setMe (k.orFlags fl)).writeXP d [a] v false
    else if t.toNat < 4 then
      let from' := Fmt.ofField (t.setWidth 2)
      if k.fpPois from' a then st.writeXP d [a] (BitVec.ofNat 64 tf.poison) true
      else
        let v := tf.round m (from'.val (k.fpBits from' a))
        (st.setMe (k.orFlags v.flags)).writeXP d [a] (BitVec.ofNat 64 v.bits) false
    else if k.sideOf a then st.writeXP d [a] (BitVec.ofNat 64 tf.poison) true
    else
      let v := tf.round m (FVal.ofInt (intVal t.toNat (k.x a)))
      (st.setMe (k.orFlags v.flags)).writeXP d [a] (BitVec.ofNat 64 v.bits) false))

/-- FCLASS (R346). -/
def execFclass (_m : BitVec 1) (d a : R5) (f : BitVec 2) (st : State) : Res :=
  let t := Fmt.ofField f
  let p := st.me.fpPois t a
  .next (st.writeXP d [a] (if p then 0x400 else BitVec.ofNat 64 (t.classOf (st.me.fpBits t a))) p)

/-- FMV (R346). -/
def execFmv (_m : BitVec 1) (d a : R5) (f : BitVec 2) (st : State) : Res :=
  .next (st.writeX d [a] (BitVec.ofNat 64 (st.me.fpBits (Fmt.ofField f) a)))

end Sys2Proof.Machine
end

