-- ==== Sys2Proof/Machine/Errors.lean ====
section
/-! DEFINITION. Errors of the memories as an access or the scrubber meets them: promotion of banks, disabling of ways,
poison (R72 to R77, R84, R103, R105 to R108, R178). -/

namespace Sys2Proof.Machine

/-! ## Promotion (R72 to R77) -/

/-- Whether the fresh window of an earlier crossing of a bank or a way still runs in a column; a promotion leaves it running
(R77). -/
def State.columnFresh (s : State) (col : Nat) : Bool :=
  s.cores.any (fun e => columnOf (squareOf e.1) == col && e.2.banks.any (fun b => b.2.fresh))
    || s.slices.any (fun e => columnOf e.1 == col && !e.2.wayFresh.isEmpty)

/-- The error-rate monitor's step (R77): the column of a square rises by 10 mV and is frozen; crossings within one window
raise it once. -/
def State.stepColumn (s : State) (sq : Nat) : State :=
  let again := s.columnFresh (columnOf sq)
  s.modColumn (columnOf sq) (fun k => { k with volts := if again then k.volts else k.volts + 10, frozen := true })

def State.undervolted (s : State) (sq : Nat) : Bool := decide ((s.column (columnOf sq)).volts < 500)

def Core.setBank (k : Core) (i : Nat) (b : Bank) : Core := { k with banks := Map.set Bank.reset k.banks i b }

/-- A journal beyond the capacity ends the revocable superstep (R76). -/
def State.fitJournal (s : State) (c : Nat) : State :=
  if (s.core c).jcap < (s.core c).journal.length then s.unrevoke (squareOf c) else s

/-- Promotion of a bank, pending while its own reserve holds journal entries (R74, R75). -/
def State.promote (s : State) (c i : Nat) : State :=
  let k := s.core c
  let b := k.bank i
  let b' : Bank := if k.reserveHolds i = 0 then { b with promoted := true, waiting := false, fresh := false }
    else { b with waiting := true, fresh := false }
  (s.setCore c (k.setBank i b')).fitJournal c

/-- One corrected word of a bank (R72, R74, R77). -/
def State.bankError (s : State) (c i : Nat) : State :=
  let k := s.core c
  let b := { k.bank i with count := (k.bank i).count + 1 }
  let thr := bitsOf k.lsecc.toNat 0 16
  let s := s.setCore c (k.setBank i b)
  if thr = 0 ∨ b.promoted ∨ b.waiting ∨ b.count ≠ thr + 1 then s
  else if s.undervolted (squareOf c) && !b.fresh then
    (s.stepColumn (squareOf c)).modCore c (fun k => k.setBank i { b with count := 0, fresh := true })
  else s.promote c i

/-! ## Slice ways (R107) -/

/-- A crossing beyond the eighth disabled way is logged and disables nothing (R107); the log may hold it as a corrected
word already. DESIGN CHOICE (notes/assumptions/60.md): LOGM 0 and 2 do not keep it out. -/
def State.logCrossing (s : State) (src syn addr : Nat) : State :=
  s.modErr 3 (fun b =>
    if bitsOf b.escr.toNat 4 2 = 1 then b
    else { b with log := (BitVec.ofNat 64 (2 ^ 63 + src * 2 ^ 60 + syn * 2 ^ 48 + addr % 2 ^ 48) :: b.log).take 8 })

/-- One corrected word of a slice way (R107, R77). -/
def State.wayError (s : State) (sl way src syn addr : Nat) : State :=
  let k := s.slice sl
  let n := Map.get 0 k.wayErrors way + 1
  let thr := bitsOf (s.err 3).eslc.toNat 0 16
  let s := s.modSlice sl (fun k => { k with wayErrors := Map.set 0 k.wayErrors way n })
  if thr = 0 ∨ n ≠ thr + 1 ∨ k.offWays.contains way ∨ k.leaving.contains way then s
  else if s.undervolted sl && !k.wayFresh.contains way then
    (s.stepColumn sl).modSlice sl (fun k =>
      { k with wayErrors := Map.set 0 k.wayErrors way 0, wayFresh := k.wayFresh ++ [way] })
  else if 8 ≤ k.offWays.length + k.leaving.length then s.logCrossing src syn addr
  else s.leaveWay sl way true

/-! ## Errors that an access or the scrubber meets (R72, R84, R103, R106, R108, R178) -/

/-- A parity error in the L1 line of core `c` that holds a byte of a place: the line is dropped, the event counted as
corrected, and a way's sixteenth disables it (R84). -/
def State.l1Error (s : State) (c : Nat) (tag : L1Tag) (a : Nat) : State :=
  match (s.core c).l1Find tag a 1 with
  | none => s
  | some l =>
    (s.logError 2 false 0 0 (c * 2 ^ 24 + l.line % 64 * 8 + l.way)).modCore c (fun k =>
      let n := Map.get 0 k.l1Errors l.way + 1
      let off := n = 16 ∧ !k.l1Off.contains l.way
      { k with
        l1 := (k.l1.erase l).filter (fun m => !(off && m.way == l.way))
        l1Errors := Map.set 0 k.l1Errors l.way n
        l1Off := if off then k.l1Off ++ [l.way] else k.l1Off })

/-- A word of a local store: corrected and counted in its bank (R50, R66, R72), or its granule poisoned (R106). `src` is
3 where a promotion's re-encoding met it. -/
def State.localError (s : State) (c a src syn : Nat) (fixed : Bool) : State :=
  let s := s.logError 1 (!fixed) src syn (c * 2 ^ 24 + a)
  if !fixed then s.modCore c (fun k => { k with lsPois := Map.set false k.lsPois (a / 32) true })
  else if src = 3 then s
  else s.bankError c ((s.core c).bankAt a)

/-- A word of a cached sector: corrected and counted in its way, or a clean sector dropped and a dirty one poisoned (R106
to R108). Nothing where the slices hold no such sector. -/
def State.sliceError (s : State) (pa src syn : Nat) (fixed : Bool) : State :=
  let n := pa / 1024
  let bit : BitVec 8 := BitVec.twoPow 8 (pa / 128 % 8)
  let l := s.line n
  if !Map.has s.lines n ∨ l.valid &&& bit = 0 then s
  else
    let word := pa / 16 * 16
    let s := s.logError 3 (!fixed) src syn word
    if fixed then (if src = 3 ∨ 16 ≤ l.way then s else s.wayError (s.homeOf n) l.way src syn word)
    else if l.dirty &&& bit = 0 then (s.unveil n bit).setLine n { l with valid := l.valid &&& ~~~bit }
    else { s with memPois := (List.range 4).foldl (fun m g => Map.set false m (pa / 128 * 4 + g) true) s.memPois }

/-- A word of a vector in a lent way, by its place in the vector (R178); the log gives the word's place in the slice's
control space (notes/assumptions/53.md). -/
def State.vectorError (s : State) (sl i word src syn : Nat) (fixed : Bool) : State :=
  let v := s.vec sl i
  if v.st ≠ 1 then s
  else
    let s := s.logError 3 (!fixed) src syn (sl * 2 ^ 24 + i * 2 ^ 16 + word)
    if fixed then s.wayError sl ((s.slice sl).liveWays.getD v.way 16) src syn (sl * 2 ^ 24 + i * 2 ^ 16 + word)
    else s.setVec sl i (v.poisonWord word)

/-- A 32-byte granule of HBM that cannot be corrected is poisoned there, which shows once no slice holds its sector
(R108). -/
def State.hbmError (s : State) (pa src syn : Nat) (fixed : Bool) : State :=
  let s := s.logError 5 (!fixed) src syn (pa / 32 * 32)
  if fixed then s
  else if (s.line (pa / 1024)).valid.getLsbD (pa / 128 % 8) then
    { s with hbmPois := Map.set false s.hbmPois (pa / 32) true }
  else { s with memPois := Map.set false s.memPois (pa / 32) true }

/-- A transfer of a granule between a slice and its stack fails, or is mended by the link (R105, R106): it is logged, and
lost data are poison. -/
def State.linkError (s : State) (pa : Nat) (lost : Bool) : State :=
  let s := s.logError 5 lost 2 0 (pa / 32 * 32)
  if lost then { s with memPois := Map.set false s.memPois (pa / 32) true } else s

/-- The link's report on a line: mended granules are counted, and lost ones of the sectors transferred are poison. -/
def State.linkErrors (s : State) (line : Nat) (lost : List Nat) (mended : List (BitVec 5)) : State :=
  let s := mended.foldl (fun s g => s.linkError (1024 * line + 32 * g.toNat) false) s
  lost.foldl (fun s g => s.linkError (1024 * line + 32 * g) true) s

/-- A queue array's parity (R103): an entry written again from the input buffer is counted as corrected; one found bad at
its dequeue is delivered poisoned. -/
def State.queueParity (s : State) (sl q : Nat) (fixed : Bool) : State :=
  let s := s.logError 4 (!fixed) 0 0 (256 * sl + q)
  if fixed then s
  else s.modSlice sl (fun k =>
    let e := k.qdesc q
    let n := if e.rows then 32 else 1
    let base := e.base + e.head % 2 ^ e.logd * n
    { k with arrayPois := (List.range n).foldl (fun m j => Map.set false m (base + j) true) k.arrayPois })

end Sys2Proof.Machine
end

