-- ==== Sys2Proof/Machine/Control.lean ====
section
/-! DEFINITION. Carry-less and bit-field instructions, branches, jumps, loops and frames (R347 to R355). -/

namespace Sys2Proof.Machine

/-- CLMUL (R348). -/
def execClmul (_m : BitVec 1) (d a b : R5) (st : State) : Res :=
  .next (st.writeX d [a, b] (BitVec.ofNat 64 (clmulTo (st.me.x a).toNat (st.me.x b).toNat 64)))

/-- CLMULH (R348). -/
def execClmulh (_m : BitVec 1) (d a b : R5) (st : State) : Res :=
  .next (st.writeX d [a, b] (BitVec.ofNat 64 (clmulTo (st.me.x a).toNat (st.me.x b).toNat 64 / 2 ^ 64)))

/-- EXTR (R348). -/
def execExtr (_m : BitVec 1) (d a b : R5) (x : BitVec 1) (st : State) : Res :=
  .next (st.writeX d [a, b] (extrVal (st.me.x a) (st.me.x b) (x == 1)))

/-- INS (R348). -/
def execIns (_m : BitVec 1) (d a b : R5) (st : State) : Res :=
  .next (st.writeX d [a, b, d] (insVal (st.me.x d) (st.me.x a) (st.me.x b)))

/-- SEL (R348): a poisoned sC traps POISON; the side bit of the selected source passes. -/
def execSel (_m : BitVec 1) (d a b : R5) (c : R5) (st : State) : Res :=
  let k := st.me
  if k.sideOf c then .next (st.poisoned c.toNat)
  else
    let r := if k.x c ≠ 0 then a else b
    .next (st.writeXP d [a, b, c] (k.x r) (k.sideOf r))

/-- Runs `g` unless one of the registers is poisoned, which traps POISON naming the first (R284). -/
def State.unpoisoned (s : State) (rs : List R5) (g : State → State) : State :=
  match s.me.firstPoison rs with
  | some r => s.poisoned r.toNat
  | none => g s

/-- A conditional branch (R349). -/
def State.branch (s : State) (c : Cond) (a b : R5) (o : BitVec 15) : Res :=
  .next (s.unpoisoned [a, b] (fun s =>
    let k := s.me
    if c.holds (k.x a) (k.x b) then s.setMe (k.jump (wordTarget k.arch.pc (immDword o))) else s.retire))

/-- BEQ (R349). -/
def execBeq (_m : BitVec 1) (a b : R5) (o : BitVec 15) (st : State) : Res :=
  st.branch .eq a b o

/-- BNE (R349). -/
def execBne (_m : BitVec 1) (a b : R5) (o : BitVec 15) (st : State) : Res :=
  st.branch .ne a b o

/-- BLT (R349). -/
def execBlt (_m : BitVec 1) (a b : R5) (o : BitVec 15) (st : State) : Res :=
  st.branch .lt a b o

/-- BGE (R349). -/
def execBge (_m : BitVec 1) (a b : R5) (o : BitVec 15) (st : State) : Res :=
  st.branch .ge a b o

/-- BLTU (R349). -/
def execBltu (_m : BitVec 1) (a b : R5) (o : BitVec 15) (st : State) : Res :=
  st.branch .ltu a b o

/-- BGEU (R349). -/
def execBgeu (_m : BitVec 1) (a b : R5) (o : BitVec 15) (st : State) : Res :=
  st.branch .geu a b o

/-- JAL (R351). -/
def execJal (_m : BitVec 1) (d : R5) (i : BitVec 20) (st : State) : Res :=
  let k := st.me
  .next (st.setMe ((k.setX d (k.arch.pc + 4) false Taint.clean).jump (wordTarget k.arch.pc (immDword i))))

/-- JALR (R352). -/
def execJalr (_m : BitVec 1) (d a : R5) (i : BitVec 15) (st : State) : Res :=
  .next (st.unpoisoned [a] (fun s =>
    let k := s.me
    let t := k.x a + immDword i
    if t.toNat % 4 ≠ 0 then s.trapWith Cause.align t.toNat t.toNat
    else s.setMe ((k.setX d (k.arch.pc + 4) false (k.taintOf a.toNat)).jump t)))

/-- LOOP (R353). -/
def execLoop (_m : BitVec 1) (c : R5) (l : BitVec 10) (st : State) : Res :=
  .next (st.unpoisoned [c] (fun s =>
    let k := s.me
    let x := k.arch.pc
    let last : Dword := x + 4 * l.setWidth 64
    let n := (k.x c).toNat
    if n = 0 then
      let q := loopBack last k.seq.loops
      s.setMe ((k.setSeq { k.seq with loops := q.2 }).setPc q.1)
    else if 4 ≤ k.seq.loops.length then s.illegal
    else if (match k.seq.loops with | e :: _ => decide (e.stop.toNat < last.toNat) | [] => false) then s.illegal
    else
      let e : LoopEntry := { start := x + 4, stop := last, left := n }
      s.setMe ((k.setSeq { k.seq with loops := e :: k.seq.loops }).setPc (x + 4))))

/-- A repeat frame of `len` words and `n` passes begins (R355); with no pass, execution goes on after the frame. -/
def State.repeatFrame (s : State) (nm1 stg : BitVec 4) (n : Nat) : State :=
  let k := s.me
  let x := k.arch.pc
  if n = 0 then s.setMe (k.setPc (x + 4 * (nm1.setWidth 64 + 2)))
  else
    let r : RptCtx := { addr := x, count := n, pass := 0, word := 0, len := nm1.toNat + 1, stagger := stg.toNat }
    s.setMe ((k.setSeq { k.seq with rpt := some r }).setPc (x + 4))

/-- RPT with an immediate count (R355). Its frame's check (R322) comes before it, in `Fetch`. -/
def execRpt (n g : BitVec 4) (c : BitVec 10) (st : State) : Res :=
  .next (st.repeatFrame n g (c.toNat + 1))

/-- RPT with a count from a register (R355). -/
def execRptRegisterCount (n g : BitVec 4) (c : R5) (st : State) : Res :=
  .next (st.unpoisoned [c] (fun s => s.repeatFrame n g (s.me.x c).toNat))

/-- MOD (R317): its fields wait for the second word of the pair, which the same step executes (R318). -/
def execMod (o s p : BitVec 3) (c : BitVec 2) (n : BitVec 1) (st : State) : Res :=
  let f : ModFields := { ord := o.toNat, scope := s.toNat, space := p.toNat, cache := c.toNat, nt := n == 1 }
  .next (st.modMe (fun k => { k with pendMod := some f }))

end Sys2Proof.Machine
end

