-- ==== Sys2Proof/Machine/Memory.lean ====
section
/-! DEFINITION. Loads, stores and atomics: LDL to ST, row loads and stores, majors 0x20 and 0x2A to 0x2F (R359 to
R371, R393, R394, R53 to R55). -/

namespace Sys2Proof.Machine

/-! ## Shared paths -/

/-- Whether the order of R124 to R128 lets an access that performs at issue perform now. -/
def State.orderly (s : State) (kind : AccKind) (m : ModFields) : Bool :=
  s.me.inflight.all (fun b => !holdsBack b (mkAccess kind 1 m 0 .discard none []))

/-- Whether no access in flight touches some bytes of the local store (R123): first byte and count of each span. -/
def Core.localClear (k : Core) (at' : List (Nat × Nat)) : Bool :=
  k.inflight.all (fun b => b.space != 1 || !b.parts.any (fun p => at'.any (fun e => meetsSpan p.pa p.size (e.1 % 2 ^ 21) e.2)))

/-- Waits while an operand is tainted (R138). -/
def State.untainted (s : State) (rs : List R5) (g : State → State) : State :=
  if s.me.tainted (rs.map BitVec.toNat) then s.wait else g s

/-- Waits for untainted operands where an access acts on the local store; one to another space issues and waits in
flight (R138). -/
def State.localUntainted (s : State) (space : Nat) (rs : List R5) (g : State → State) : State :=
  if space = 1 then s.untainted rs g else g s

/-- Waits while no outstanding-load slot is free (R134). -/
def State.slotFree (s : State) (g : State → State) : State :=
  if s.me.freeSlotNo.isNone then s.wait else g (s.modMe (fun k => { k with loadSeq := k.loadSeq + 1 }))

/-- Goes on with a check's result for what `w` touches at `vas`: its trap, a wait for a held access, or `g`. -/
def State.onCheckBy {α : Type} (s : State) (w : Who) (vas : List Nat) (c : Checked α) (g : α → State) : State :=
  match c with
  | .fault t => s.trap t
  | .hold => if vas.isEmpty then s.wait else s.holdAt w vas
  | .ok a => g a

/-- The same for the core's own access stream. -/
def State.onCheck {α : Type} (s : State) (vas : List Nat) (c : Checked α) (g : α → State) : State :=
  s.onCheckBy (s.whoOf s.cur 0) vas c g

/-- The pages an access touches, for `onCheck`. -/
def pagesOf (va size : Nat) : List Nat := (spans 65536 va size).map (·.1)

/-- A local-store access that performs at issue (R118): checks, then order, then `g`. -/
def State.localDo (s : State) (kind : AccKind) (m : ModFields) (at' : List (Nat × Nat)) (c : Checked Unit)
    (g : State → State) : State :=
  s.onCheck [] c (fun _ => if s.orderly kind m && s.me.localClear at' then g s else s.wait)

/-- What an acquire does to the L1 (R82, R116). -/
def State.acquired (s : State) (m : ModFields) : State :=
  if m.ord = 2 ∨ m.ord = 4 ∨ m.ord = 5 then s.modMe (fun k => k.acquireL1 m.scope) else s

/-- A register waits for the load in `slot`, with the taint of R136. -/
def Core.bindReg (k : Core) (d : R5) (srcs : List R5) (nt : Bool) (slot : Nat) : Core :=
  if d = 0 then k
  else
    let t := k.taints (srcs.map BitVec.toNat)
    let t := if nt then t else t.union k.loads { refs := [slot], mark := none }
    let k := k.setTaint d.toNat t
    { k with pend := Map.put k.pend d.toNat slot }

def destOf (d : R5) : Dest := if d = 0 then .discard else .reg d.toNat

/-- Where a part lies: what two parts of one place agree in. -/
def Part.place (p : Part) : Nat × Nat × Nat × Dword := (p.pa, p.size, p.dev, p.key)

/-- The early load that an access is (R124), if it has one: the instruction at the program counter, the same order, the
same bytes. -/
def Core.earlyFor (k : Core) (a : Access) : Option Early :=
  k.early.find? (fun e => e.acc.pc == k.arch.pc && e.acc.space == a.space && e.acc.ord == a.ord
    && e.acc.parts.map Part.place == a.parts.map Part.place)

/-- A load that has begun early is used: it goes on from where it stands, under the number that it has. -/
def State.issueEarly (s : State) (a : Access) (e : Early) : State :=
  let a := { s.issued a with
    id := e.acc.id, sent := e.acc.sent,
    parts := (a.parts.zip e.acc.parts).map (fun p => { p.1 with
      isDone := p.2.isDone, data := p.2.data, pois := p.2.pois, ask := p.2.ask }) }
  let s := s.modMe (fun k => { k with inflight := k.inflight ++ [a], early := k.early.erase e })
  if a.parts.all (·.isDone) then s.finish s.cur a else s

/-- The parts of local-store bytes, cut at multiples of `unit`. -/
def localParts (unit : Nat) (at' : List (Nat × Nat)) : List Part :=
  (at'.flatMap (fun e => spans unit (e.1 % 2 ^ 21) e.2)).map (fun sp => mkPart sp.1 sp.1 sp.2.1 0 0)

/-- The bytes that a local-store load reads: what it has read early, else what the store holds. -/
def State.localRead (s : State) (m : ModFields) (at' : List (Nat × Nat)) : State × PBytes :=
  match s.me.earlyFor (mkAccess .load 1 m 0 .discard none (localParts 32 at')) with
  | some e => (s.modMe (fun k => { k with early := k.early.erase e }),
      e.acc.parts.flatMap (fun p => markBytes p.pois p.data))
  | none => (s, at'.flatMap (fun e => s.me.lsBytes (e.1 % 2 ^ 21) e.2))

/-- A load or atomic issues with a slot and the instruction retires. -/
def State.loadOut (s : State) (a : Access) (bind : Nat → Core → Core) : State :=
  match s.me.takeSlot with
  | none => s.wait
  | some (slot, k) =>
    let s := s.setMe (bind slot k)
    let a := { a with slot := some slot }
    match s.me.earlyFor a with
    | some e => (s.issueEarly a e).retire
    | none => (s.issue a).retire

/-- A store issues, or takes its place in the exchange buffer of a compute phase with the cache field of its prefix
(R150, R203), and the instruction retires. -/
def State.storeOut (s : State) (a : Access) (va cache : Nat) (buffered : Bool) (done : State → State) : State :=
  s.sends (va :: a.data.map BitVec.toNat) (fun s =>
    if buffered && a.space == 2 && s.inCompute s.cur then
      if !a.taint.isEmpty || (a.releases && !s.me.inflight.isEmpty) then s.wait
      else s.bufferStore a.parts va cache false id
        (fun p => .store 2 ((a.data.drop p.idx).take p.size) a.pois) (fun s => (done s).retire)
    else (done (s.issue a)).retire)

/-- Privileged forms trap PRIV at level 0 (R271, R393). -/
def State.guardPriv (s : State) (g : State → State) : State :=
  if s.me.level = 0 then s.trapWith Cause.priv 0 0 else g s

/-! ## Scalar loads and stores (R361, R362) -/

def szBytes (s : BitVec 2) : Nat := 2 ^ s.toNat

/-- Whether an access to the local store performs in its two parts, later than it issues: it crosses a bank row (R51) and
the model's `delays` says so. -/
def State.splits (s : State) (va n : Nat) : Bool := decide (256 < va % 256 + n) && s.delays.head? == some true

/-- The parts of a local-store access: one to a bank row (R51). -/
def rowParts (va n : Nat) : List Part := (spans 256 (va % 2 ^ 21) n).map (fun sp => mkPart sp.1 sp.1 sp.2.1 0 sp.2.2)

/-- A scalar load from the local store. -/
def State.localLoad (s : State) (m : ModFields) (d a : R5) (va n : Nat) : State :=
  if va / 2 ^ 21 % 8 ≠ 0 then s.trapWith Cause.format va va
  else s.localDo .load m [(va, n)] (s.me.checkLocal va n) (fun s =>
    if s.splits va n then
      s.loadOut (mkAccess .load 1 m n (destOf d) none (rowParts va n)) (fun slot k => k.bindReg d [a] m.nt slot)
    else s.slotFree (fun s =>
      let (s, bs) := s.localRead m [(va, n)]
      let s := s.acquired m
      (s.modMe (fun k => k.setX d (BitVec.ofNat 64 (bytesNat (bs.map (·.1)))) (bs.any (·.2))
        (k.taints [a.toNat]))).retire))

/-- A scalar store to the local store. -/
def State.localStore (s : State) (m : ModFields) (d : R5) (va n : Nat) : State :=
  if va / 2 ^ 21 % 8 ≠ 0 then s.trapWith Cause.format va va
  else s.localDo .store m [(va, n)] (s.me.checkLocal va n) (fun s =>
    let bs := natBytes n (s.me.x d).toNat
    if s.splits va n then
      (s.issue { mkAccess .store 1 m n .discard none (rowParts va n) with data := bs, pois := s.me.sideOf d }).retire
    else (s.lsWrite s.cur (va % 2 ^ 21) (markBytes (s.me.sideOf d) bs)).retire)

/-- The taint of an access's operands, which it waits for in flight (R138). -/
def Core.taintsOf (k : Core) (rs : List R5) : Taint := k.taints (rs.map BitVec.toNat)

/-- A scalar load from space 2, 3 or 4. -/
def State.farLoad (s : State) (space : Nat) (m : ModFields) (d a : R5) (va n : Nat)
    (c : Checked (List Part)) : State :=
  s.onCheck (pagesOf va n) c (fun ps =>
    s.loadOut { mkAccess .load space m n (destOf d) none ps with taint := s.me.taintsOf [a] }
      (fun slot k => k.bindReg d [a] m.nt slot))

/-- A scalar store to space 2, 3 or 4: poisoned data leaving the device trap (R284). -/
def State.farStore (s : State) (space : Nat) (m : ModFields) (d a : R5) (va n : Nat) (buffered : Bool)
    (c : Checked (List Part)) : State :=
  let p := s.me.sideOf d
  if p && (space == 3 || space == 4) then s.poisoned d.toNat
  else s.onCheck (pagesOf va n) c (fun ps =>
    s.storeOut { mkAccess .store space m n .discard none ps with
      data := natBytes n (s.me.x d).toNat, pois := p, taint := s.me.taintsOf [a, d] } va m.cache buffered id)

/-- The address of LDL to ST. -/
def dispAddr (k : Core) (a : R5) (i : BitVec 13) : Nat := (k.x a + immDword i).toNat

/-- LDL (R362). -/
def execLdl (d a : R5) (s : BitVec 2) (i : BitVec 13) (st : State) : Res :=
  .next (st.unpoisoned [a] (fun st => st.untainted [a] (fun st =>
    st.localLoad (st.me.mods .load false) d a (dispAddr st.me a i) (szBytes s))))

/-- STL (R362). -/
def execStl (d a : R5) (s : BitVec 2) (i : BitVec 13) (st : State) : Res :=
  .next (st.unpoisoned [a] (fun st => st.untainted [a, d] (fun st =>
    st.localStore (st.me.mods .store false) d (dispAddr st.me a i) (szBytes s))))

/-- LD (R362). -/
def execLd (d a : R5) (s : BitVec 2) (i : BitVec 13) (st : State) : Res :=
  let m := st.me.mods .load false
  if m.space = 1 then .next st.illegal
  else .next (st.unpoisoned [a] (fun st =>
    let va := dispAddr st.me a i
    let n := szBytes s
    st.farLoad (spaceOf m.space) m d a va n
      (st.checkSpace (st.whoOf st.cur 0) (spaceOf m.space) .load m.cache va n 0)))

/-- ST (R362). -/
def execSt (d a : R5) (s : BitVec 2) (i : BitVec 13) (st : State) : Res :=
  let m := st.me.mods .store false
  if m.space = 1 then .next st.illegal
  else .next (st.unpoisoned [a] (fun st =>
    let va := dispAddr st.me a i
    let n := szBytes s
    st.farStore (spaceOf m.space) m d a va n true
      (st.checkSpace (st.whoOf st.cur 0) (spaceOf m.space) .store m.cache va n 0)))

/-! ## Row loads and stores (R363 to R367) -/

/-- The format register of a window, if valid (R297). -/
def Core.fmtReg (k : Core) (n : Nat) : Option Narrow :=
  let f := Narrow.ofReg (Map.get 0 k.arch.fmts n)
  if f.valid then some f else none

/-- A row from elements of a narrow format's target. -/
def Narrow.rowOf (f : Narrow) (els : List Nat) : Row :=
  BitVec.ofNat 2048 (packCodes f.target.width els)

/-- The elements of a row in a narrow format's target. -/
def Narrow.elsOf (f : Narrow) (r : Row) : List Nat :=
  (List.range f.elems).map (fun i => bitsOf r.toNat (f.target.width * i) f.target.width)

/-- The space of a row access: L fixes the local store. -/
def rowSpace (m : ModFields) (l : BitVec 1) : Nat := if l = 1 then 1 else spaceOf m.space

/-- Pushes an entry whose data are given. -/
def Core.pushRow (k : Core) (q : Nat) (row : Row) (pois : Bool) (t : Taint) : Core :=
  { k.setQueue q (k.queue q ++ [{ serial := k.serial, data := row, pois := pois, taint := t, filled := true }]) with
    serial := k.serial + 1 }

/-- Reserves an entry for the load in `slot` (R364). -/
def Core.reserveRow (k : Core) (q : Nat) (srcs : List R5) (nt : Bool) (slot : Nat) : Core :=
  let t := k.taints (srcs.map BitVec.toNat)
  let t := if nt then t else t.union k.loads { refs := [slot], mark := none }
  k.setQueue q (k.queue q ++ [{ serial := k.serial, data := 0, pois := false, taint := t, filled := false }])

/-- The covered queues of a core (R226): its LQ or SQ `q`, its micro-operation queue. -/
def lqReserve (c q : Nat) : Nat := 128 * (c / 4) + 73 + 6 * (c % 4) + q
def uopReserve (c : Nat) : Nat := 128 * (c / 4) + 69 + c % 4

/-- Waits while queue `q` is full (R186), unless its reserve entry has been granted (R227). -/
def State.queueRoom (s : State) (q : Nat) (g : State → State) : State :=
  if (s.me.queue q).length < 8 then g s
  else if s.reserves.contains (lqReserve s.cur q) then
    g { s with reserves := s.reserves.erase (lqReserve s.cur q) }
  else s.wait

/-- The head of an SQ; a pop beyond the pushes traps QUEUE (R186). -/
def State.sqTop (s : State) (sq : Nat) (g : QEntry → State) : State :=
  match s.me.queue (4 + sq) with
  | [] => s.trapWith Cause.queue (4 + sq) 0
  | e :: _ => g e

/-- The head of an SQ for what acts at once: a tainted one waits (R138). -/
def State.sqHead (s : State) (sq : Nat) (g : QEntry → State) : State :=
  s.sqTop sq (fun e => if e.taint.isEmpty then g e else s.wait)

def Core.popQueue (k : Core) (q : Nat) : Core := k.setQueue q (k.queue q).tail

/-- The places of a gather's or scatter's elements: address and place in the row (R365). -/
def strided (a b : Dword) (n : Nat) : List (Nat × Nat) :=
  (List.range (256 / n)).map (fun i => ((a + BitVec.ofNat 64 i * b).toNat, i * n))

/-- An element of a gather or scatter in the local store: FORMAT where its window is not 0 (R365), else R52's checks. -/
def Core.checkElem (k : Core) (va n : Nat) : Checked Unit :=
  if va / 2 ^ 21 % 8 ≠ 0 then .fault (trapAt Cause.format va va) else k.checkLocal va n

/-- Checks every element as a part of one access that starts at `start`: the lowest-addressed fault, else a hold,
else all parts (R48). -/
def checkElems {α : Type} (start : Nat) (f : Nat × Nat → Checked (List α)) (els : List (Nat × Nat)) :
    Checked (List α) :=
  let rs := els.map f
  let faults := rs.filterMap (fun r => match r with | .fault t => some t | _ => none)
  match faults with
  | t :: ts =>
    let t := ts.foldl (fun b t => if t.faddr.toNat < b.faddr.toNat then t else b) t
    .fault { t with fstart := BitVec.ofNat 64 start }
  | [] =>
    if rs.any (fun r => match r with | .hold => true | _ => false) then .hold
    else .ok (rs.flatMap (fun r => match r with | .ok ps => ps | _ => []))

/-- LQR (R364). -/
def execLqr (a : R5) (l : BitVec 1) (q : BitVec 2) (st : State) : Res :=
  let m := st.me.mods .load false
  let sp := rowSpace m l
  .next (st.unpoisoned [a] (fun st => st.localUntainted sp [a] (fun st => st.queueRoom q.toNat (fun st =>
    let va := (st.me.x a).toNat
    if sp = 1 then
      let win := va / 2 ^ 21 % 8
      match if win = 0 then some none else (st.me.fmtReg win).map some with
      | none => st.trapWith Cause.format va va
      | some f =>
        let n := match f with | none => 256 | some f => f.rowBytes
        st.localDo .load m [(va, n)] (st.me.checkLocal va n) (fun st =>
          if f.isNone && st.splits va n then
            st.loadOut (mkAccess .load 1 m 256 (.queue q.toNat st.me.serial) none (rowParts va n))
              (fun slot k => k.reserveRow q.toNat [a] m.nt slot)
          else st.slotFree (fun st =>
          let (st, bs) := st.localRead m [(va, n)]
          let st := st.acquired m
          (st.modMe (fun k => match f with
            | none => k.pushRow q.toNat (rowOfBytes (bs.map (·.1))) (bs.any (·.2)) (k.taints [a.toNat])
            | some f => k.pushRow q.toNat (f.rowOf (unpackRow f bs)) false (k.taints [a.toNat]))).retire))
    else
      st.onCheck (pagesOf va 256) (st.checkSpace (st.whoOf st.cur 0) sp .load m.cache va 256 0) (fun ps =>
        st.loadOut { mkAccess .load sp m 256 (.queue q.toNat st.me.serial) none ps with taint := st.me.taintsOf [a] }
          (fun slot k => k.reserveRow q.toNat [a] m.nt slot))))))

/-- LQG (R365). -/
def execLqg (a b : R5) (l : BitVec 1) (q : BitVec 2) (s : BitVec 2) (st : State) : Res :=
  let m := st.me.mods .load false
  let sp := rowSpace m l
  .next (st.unpoisoned [a, b] (fun st => st.localUntainted sp [a, b] (fun st => st.queueRoom q.toNat (fun st =>
    let n := szBytes s
    let start := (st.me.x a).toNat
    let els := strided (st.me.x a) (st.me.x b) n
    if sp = 1 then
      let at' := els.map (fun e => (e.1, n))
      let c : Checked (List Unit) := checkElems start (fun e => match st.me.checkElem e.1 n with
        | .ok _ => .ok []
        | .hold => .hold
        | .fault t => .fault t) els
      st.onCheck [] c (fun _ =>
        if !st.orderly .load m || !st.me.localClear at' then st.wait
        else st.slotFree (fun st =>
          let (st, bs) := st.localRead m at'
          let st := st.acquired m
          (st.modMe (fun k => k.pushRow q.toNat (rowOfBytes (bs.map (·.1))) (bs.any (·.2))
            (k.taints [a.toNat, b.toNat]))).retire))
    else
      let w := st.whoOf st.cur 0
      st.onCheck (els.map (·.1)) (checkElems start (fun e => st.checkSpace w sp .load m.cache e.1 n e.2) els) (fun ps =>
        st.loadOut { mkAccess .load sp m 256 (.queue q.toNat st.me.serial) none ps with taint := st.me.taintsOf [a, b] }
          (fun slot k => k.reserveRow q.toNat [a, b] m.nt slot))))))

/-- SQW (R366). -/
def execSqw (a : R5) (l : BitVec 1) (q : BitVec 1) (st : State) : Res :=
  let m := st.me.mods .store false
  let sp := rowSpace m l
  let pop (s : State) : State := s.modMe (fun k => k.popQueue (4 + q.toNat))
  .next (st.unpoisoned [a] (fun st => st.localUntainted sp [a] (fun st => (if sp = 1 then st.sqHead else st.sqTop) q.toNat (fun e =>
    let va := (st.me.x a).toNat
    if sp = 1 then
      let win := va / 2 ^ 21 % 8
      if win = 0 then
        st.localDo .store m [(va, 256)] (st.me.checkLocal va 256) (fun st =>
          if st.splits va 256 then
            (pop (st.issue { mkAccess .store 1 m 256 .discard none (rowParts va 256) with
              data := rowBytes e.data, pois := e.pois })).retire
          else (pop (st.lsWrite st.cur (va % 2 ^ 21) (markBytes e.pois (rowBytes e.data)))).retire)
      else match st.me.fmtReg win with
        | none => st.trapWith Cause.format va va
        | some f => st.sampled (fun mode =>
          st.localDo .store m [(va, f.rowBytes)] (st.me.checkLocal va f.rowBytes) (fun st =>
            let (bs, fl) := packRow f mode e.pois (f.elsOf e.data)
            let st := st.lsWrite st.cur (va % 2 ^ 21) bs
            (pop (st.modMe (fun k => k.orFlags fl))).retire))
    else if e.pois && (sp == 3 || sp == 4) then st.poisoned (256 + 4 + q.toNat)
    else
      st.onCheck (pagesOf va 256) (st.checkSpace (st.whoOf st.cur 0) sp .store m.cache va 256 0) (fun ps =>
        st.storeOut { mkAccess .store sp m 256 .discard none ps with
          data := rowBytes e.data, pois := e.pois
          taint := (st.me.taintsOf [a]).union st.me.loads e.taint } va m.cache true pop)))))

/-- SQS (R367). -/
def execSqs (a b : R5) (l : BitVec 1) (q : BitVec 1) (s : BitVec 2) (st : State) : Res :=
  let m := st.me.mods .store false
  let sp := rowSpace m l
  let pop (s : State) : State := s.modMe (fun k => k.popQueue (4 + q.toNat))
  .next (st.unpoisoned [a, b] (fun st => st.localUntainted sp [a, b] (fun st => (if sp = 1 then st.sqHead else st.sqTop) q.toNat (fun e =>
    let n := szBytes s
    let start := (st.me.x a).toNat
    let els := strided (st.me.x a) (st.me.x b) n
    let bytes := rowBytes e.data
    if sp = 1 then
      let c : Checked (List Unit) := checkElems start (fun e => match st.me.checkElem e.1 n with
        | .ok _ => .ok []
        | .hold => .hold
        | .fault t => .fault t) els
      st.onCheck [] c (fun _ =>
        if !st.orderly .store m || !st.me.localClear (els.map (fun e => (e.1, n))) then st.wait
        else
          let st := els.foldl (fun st x =>
            st.lsWrite st.cur (x.1 % 2 ^ 21) (markBytes e.pois ((bytes.drop x.2).take n))) st
          (pop st).retire)
    else if e.pois && (sp == 3 || sp == 4) then st.poisoned (256 + 4 + q.toNat)
    else
      let w := st.whoOf st.cur 0
      st.onCheck (els.map (·.1)) (checkElems start (fun e => st.checkSpace w sp .store m.cache e.1 n e.2) els) (fun ps =>
        st.storeOut { mkAccess .store sp m 256 .discard none ps with
          data := bytes, pois := e.pois
          taint := (st.me.taintsOf [a, b]).union st.me.loads e.taint } start m.cache true pop)))))

/-! ## Atomics (R368 to R371) -/

/-- An atomic on the local store, at its bank (R51). -/
def State.localAtomic (s : State) (m : ModFields) (op : Rmw) (d b : R5) (va n : Nat) (srcs : List R5) : State :=
  if va % n ≠ 0 then s.trapWith Cause.align va va
  else if va / 2 ^ 21 % 8 ≠ 0 then s.trapWith Cause.format va va
  else s.localDo (.atomic op) m [(va, n)] (s.me.checkLocal va n) (fun s => s.slotFree (fun s =>
    let k := s.me
    let old := k.lsBytes (va % 2 ^ 21) n
    let mv := bytesNat (old.map (·.1))
    let bv := lowBits (8 * n) (k.x b)
    let f := if n = 8 then Fmt.f64 else Fmt.f32
    let side := k.sideOf b || (op == .cas && k.sideOf d)
    let fp := op == .fadd && (mv == f.poison || bv == f.poison || side || old.any (·.2))
    let r := if fp then f.poison else op.eval (8 * n) mv bv (lowBits (8 * n) (k.x d))
    let s := s.lsWrite s.cur (va % 2 ^ 21) (markBytes (old.any (·.2) || side || fp) (natBytes n r))
    let s := s.acquired m
    let pm := old.any (·.2) || (op == .fadd && mv == f.poison)
    (s.modMe (fun k => k.setX d (BitVec.ofNat 64 mv) pm (k.taints (srcs.map BitVec.toNat)))).retire))

/-- An atomic in any space. `s` is the low bit of SZ: 0 word, 1 dword. -/
def State.amo (st : State) (op : Rmw) (d a b : R5) (s : BitVec 1) : Res :=
  let m := st.me.mods .atomic false
  let sp := spaceOf m.space
  let n := if s = 1 then 8 else 4
  let srcs := if op = .cas then [a, b, d] else [a, b]
  if sp = 4 ∧ ¬(op = .add ∨ op = .swp ∨ op = .cas) then .next st.illegal
  else .next (st.unpoisoned [a] (fun st => st.localUntainted sp srcs (fun st =>
    let k := st.me
    let va := (k.x a).toNat
    if sp = 1 then st.localAtomic m op d b va n srcs
    else
      let side := k.sideOf b || (op == .cas && k.sideOf d)
      if side && (sp == 3 || sp == 4) then st.poisoned (if k.sideOf b then b.toNat else d.toNat)
      else st.onCheck (pagesOf va n) (st.checkSpace (st.whoOf st.cur 0) sp .atomic m.cache va n 0) (fun ps =>
        st.sends [va, (k.x b).toNat, (k.x d).toNat] (fun st =>
        if sp = 2 ∧ st.inCompute st.cur then
          if d ≠ 0 then st.trapWith Cause.phase 0 0
          else if !(k.taintsOf srcs).isEmpty ∨ ((m.ord = 3 ∨ m.ord = 4 ∨ m.ord = 5) ∧ !k.inflight.isEmpty) then st.wait
          else st.bufferStore ps va m.cache true id
            (fun _ => .atomic op n (k.x b) (k.x d) side) State.retire
        else
            st.loadOut { mkAccess (.atomic op) sp m n (destOf d) none ps with
              opnd := k.x b, comp := k.x d, pois := side, data := natBytes n (k.x b).toNat, taint := k.taintsOf srcs }
            (fun slot k => k.bindReg d srcs m.nt slot))))))

/-- AMOADD (R369). -/
def execAmoadd (d a b : R5) (s : BitVec 1) (st : State) : Res :=
  st.amo .add d a b s

/-- AMOAND (R369). -/
def execAmoand (d a b : R5) (s : BitVec 1) (st : State) : Res :=
  st.amo .and d a b s

/-- AMOOR (R369). -/
def execAmoor (d a b : R5) (s : BitVec 1) (st : State) : Res :=
  st.amo .or d a b s

/-- AMOXOR (R369). -/
def execAmoxor (d a b : R5) (s : BitVec 1) (st : State) : Res :=
  st.amo .xor d a b s

/-- AMOMIN (R369). -/
def execAmomin (d a b : R5) (s : BitVec 1) (st : State) : Res :=
  st.amo .min d a b s

/-- AMOMAX (R369). -/
def execAmomax (d a b : R5) (s : BitVec 1) (st : State) : Res :=
  st.amo .max d a b s

/-- AMOMINU (R369). -/
def execAmominu (d a b : R5) (s : BitVec 1) (st : State) : Res :=
  st.amo .minu d a b s

/-- AMOMAXU (R369). -/
def execAmomaxu (d a b : R5) (s : BitVec 1) (st : State) : Res :=
  st.amo .maxu d a b s

/-- AMOSWP (R369). -/
def execAmoswp (d a b : R5) (s : BitVec 1) (st : State) : Res :=
  st.amo .swp d a b s

/-- AMOCAS (R369). -/
def execAmocas (d a b : R5) (s : BitVec 1) (st : State) : Res :=
  st.amo .cas d a b s

/-- AMOFADD (R369). -/
def execAmofadd (d a b : R5) (s : BitVec 1) (st : State) : Res :=
  st.amo .fadd d a b s

/-! ## Privileged loads and stores (R393, R394) -/

/-- Strong relaxed at system scope, past the L1. -/
def privMods : ModFields := { ord := 1, space := 0, scope := 4, cache := 2, nt := false }

/-- A privileged load whose checks, made as `w`, are given. -/
def State.privLoad (s : State) (w : Who) (space : Nat) (d a : R5) (srcs : List R5) (va n : Nat)
    (c : Checked (List Part)) : State :=
  s.onCheckBy w (pagesOf va n) c (fun ps =>
    s.loadOut { mkAccess .load space privMods n (destOf d) none ps with ctx := w.ctx, taint := s.me.taintsOf (a :: srcs) }
      (fun slot k => k.bindReg d (a :: srcs) false slot))

/-- A privileged store whose checks, made as `w`, are given; poison does not leave the device (R284, R394). -/
def State.privStore (s : State) (w : Who) (space : Nat) (d a : R5) (srcs : List R5) (va n : Nat)
    (c : Checked (List Part)) : State :=
  let p := s.me.sideOf d
  if p && (space == 3 || space == 4) then s.poisoned d.toNat
  else s.onCheckBy w (pagesOf va n) c (fun ps =>
    s.storeOut { mkAccess .store space privMods n .discard none ps with
      data := natBytes n (s.me.x d).toNat, pois := p, ctx := w.ctx
      taint := s.me.taintsOf (a :: d :: srcs) } va privMods.cache false id)

/-- The parts of an access that is sent unchanged to a device or the host. -/
def rawParts (va n dev : Nat) : List Part :=
  (spans 128 va n).map (fun (a, m, i) => { mkPart a a m 2 i with dev := dev, physical := true })

/-- LDLOC (R394): as LDL. -/
def execLdloc (d a : R5) (s : BitVec 2) (st : State) : Res :=
  .next (st.guardPriv (fun st => st.unpoisoned [a] (fun st => st.untainted [a] (fun st =>
    st.localLoad privMods d a (st.me.x a).toNat (szBytes s)))))

/-- STLOC (R394): as STL. -/
def execStloc (d a : R5) (s : BitVec 2) (st : State) : Res :=
  .next (st.guardPriv (fun st => st.unpoisoned [a] (fun st => st.untainted [a, d] (fun st =>
    st.localStore privMods d (st.me.x a).toNat (szBytes s)))))

/-- A descriptor address of slice control space (R99): the slice, and a queue's or a vector's index and dword. -/
inductive CtlAddr where
  | queue (slice q : Nat) (high : Bool)
  | vec (slice i dw : Nat)
  deriving DecidableEq, Repr

/-- The checks of R99. -/
def ctlAddr (va : Nat) : Checked CtlAddr :=
  let ofs := va % 65536
  let sl := va / 65536 % 2048
  if va % 8 ≠ 0 then .fault (trapAt Cause.align va va)
  else if 2 ^ 27 ≤ va then .fault (trapAt Cause.bounds va va)
  else if 0x1000 ≤ ofs ∧ ofs < 0x2000 then .ok (.queue sl ((ofs - 0x1000) / 16) (ofs % 16 == 8))
  else if 0x2000 ≤ ofs ∧ ofs < 0x4000 then .ok (.vec sl ((ofs - 0x2000) / 256) (ofs % 256 / 8))
  else .fault (trapAt Cause.bounds va va)

/-- A queue descriptor's dwords (R100). -/
def QDesc.dword (q : QDesc) (high : Bool) : Dword :=
  BitVec.ofNat 64 (if high then q.head + q.tail * 2 ^ 16 + q.ctx * 2 ^ 32 + bitsOf q.zeros 64 64
    else q.base + (if q.valid then 2 ^ 16 else 0) + (if q.rows then 2 ^ 17 else 0) + q.logd * 2 ^ 18
      + bitsOf q.zeros 0 64)

/-- Bytes of a queue in the array. -/
def QDesc.bytes (q : QDesc) : Nat := 2 ^ q.logd * (if q.rows then 256 else 8)

/-- Whether two queues overlap in the array. -/
def QDesc.meets (q r : QDesc) : Bool :=
  decide (8 * q.base < 8 * r.base + r.bytes) && decide (8 * r.base < 8 * q.base + q.bytes)

/-- The queue descriptor after a write, or a refusal (R100). -/
def Slice.writeQueue (k : Slice) (i : Nat) (high : Bool) (v : Nat) : Option QDesc :=
  let q := k.qdesc i
  if high then
    let z := bitsOf q.zeros 0 64 + v / 2 ^ 38 * 2 ^ 102
    some { q with head := bitsOf v 0 16, tail := bitsOf v 16 16, ctx := bitsOf v 32 6, zeros := z }
  else
    let z := bitsOf q.zeros 64 64 * 2 ^ 64 + (v / 2 ^ 22 * 2 ^ 22 + bitsOf v 15 1 * 2 ^ 15)
    let q : QDesc := { q with base := bitsOf v 0 15, valid := v.testBit 16, rows := v.testBit 17 }
    let q : QDesc := { q with logd := bitsOf v 18 4, zeros := z }
    if !q.valid then some q
    else if q.zeros != 0 || q.logd == 0 || (q.rows && decide (10 < q.logd)) || 8 * q.base % q.bytes != 0
        || decide (0x40000 < 8 * q.base + q.bytes)
        || k.queues.any (fun e => e.1 != i && e.2.valid && q.meets e.2) then none
    else some q

/-- The vector descriptor after a write, or a refusal (R158, R156). -/
def State.writeVec (s : State) (sl i dw v : Nat) : Option SaVec :=
  let old := s.vec sl i
  let new := old.setDword dw v
  if !new.valid then
    -- a write of V = 0 discards the vector
    some (if old.valid then { new with elems := [], st := 0, noEvict := false } else new)
  else if !new.wellFormed then none
  else if old.valid then
    if dw < 4 || new.ctx != old.ctx || new.nr != old.nr || new.back != old.back then none else some new
  else if (s.square sl).withheld then none
  else some { new.setHeader 0 with elems := [], st := 0, noEvict := false }

/-- LDCTL (R394). -/
def execLdctl (d a : R5) (st : State) : Res :=
  .next (st.guardPriv (fun st => st.unpoisoned [a] (fun st => st.untainted [a] (fun st =>
    match ctlAddr (st.me.x a).toNat with
    | .fault t => st.trap t
    | .hold => st.wait
    | .ok c => st.slotFree (fun st =>
      if !st.orderly .load privMods then st.wait
      else
        let v := match c with
          | .queue sl q high => ((st.slice sl).qdesc q).dword high
          | .vec sl i dw => (st.vec sl i).dword dw
        st.writeXP d [a] v false)))))

/-- STCTL (R394): its slice applies or refuses the write as one step. -/
def execStctl (d a : R5) (st : State) : Res :=
  .next (st.guardPriv (fun st => st.unpoisoned [a] (fun st => st.untainted [a, d] (fun st =>
    let va := (st.me.x a).toNat
    let v := (st.me.x d).toNat
    match ctlAddr va with
    | .fault t => st.trap t
    | .hold => st.wait
    | .ok c =>
      if !st.orderly .store privMods then st.wait
      else st.sends [va, v] (fun st => match c with
        | .queue sl q high =>
          (match (st.slice sl).writeQueue q high v with
          | some q' => (st.modSlice sl (fun k => { k with queues := Map.set QDesc.reset k.queues q q' })).retire
          | none => st.trapWith Cause.bounds va va)
        | .vec sl i dw =>
          (match st.writeVec sl i dw v with
          | some v' => (st.setVec sl i v').retire
          | none => st.trapWith Cause.bounds va va))))))

/-- Who an LDVIR or STVIR translates as (R394): the context of b, or with O the core's own. -/
def State.virWho (s : State) (b : R5) (o : BitVec 1) : Who :=
  let w := s.whoOf s.cur 0
  if o = 1 then w else { w with ctx := (s.me.x b).toNat % 64 }

/-- LDVIR (R394). -/
def execLdvir (d a b : R5) (s : BitVec 2) (o : BitVec 1) (st : State) : Res :=
  .next (st.guardPriv (fun st => st.unpoisoned [a, b] (fun st =>
    let va := (st.me.x a).toNat
    let n := szBytes s
    if o = 0 ∧ 63 < (st.me.x b).toNat then st.trapWith Cause.bounds (st.me.x b).toNat 0
    else
      let w := st.virWho b o
      st.privLoad w 2 d a [b] va n (st.check2 w .load 2 va n 0))))

/-- STVIR (R394). -/
def execStvir (d a b : R5) (s : BitVec 2) (o : BitVec 1) (st : State) : Res :=
  .next (st.guardPriv (fun st => st.unpoisoned [a, b] (fun st =>
    let va := (st.me.x a).toNat
    let n := szBytes s
    if o = 0 ∧ 63 < (st.me.x b).toNat then st.trapWith Cause.bounds (st.me.x b).toNat 0
    else
      let w := st.virWho b o
      st.privStore w 2 d a [b] va n (st.check2 w .store 2 va n 0))))

/-- LDPHY (R394). -/
def execLdphy (d a : R5) (s : BitVec 2) (st : State) : Res :=
  .next (st.guardPriv (fun st => st.unpoisoned [a] (fun st =>
    let va := (st.me.x a).toNat
    st.privLoad (st.whoOf st.cur 0) 5 d a [] va (szBytes s) (check5 va (szBytes s) 0))))

/-- STPHY (R394). -/
def execStphy (d a : R5) (s : BitVec 2) (st : State) : Res :=
  .next (st.guardPriv (fun st => st.unpoisoned [a] (fun st =>
    let va := (st.me.x a).toNat
    st.privStore (st.whoOf st.cur 0) 5 d a [] va (szBytes s) (check5 va (szBytes s) 0))))

/-- LDREM (R394): the target answers, or rejects, by ACCESS_RESPONSE or REMOTE_REJECTION. -/
def execLdrem (d a b : R5) (s : BitVec 2) (st : State) : Res :=
  .next (st.guardPriv (fun st => st.unpoisoned [a, b] (fun st =>
    let va := (st.me.x a).toNat
    let dev := (st.me.x b).toNat
    if 2 ^ 18 ≤ dev then st.trapWith Cause.bounds dev 0
    else st.privLoad (st.whoOf st.cur 0) 3 d a [b] va (szBytes s) (.ok (rawParts va (szBytes s) dev)))))

/-- STREM (R394). -/
def execStrem (d a b : R5) (s : BitVec 2) (st : State) : Res :=
  .next (st.guardPriv (fun st => st.unpoisoned [a, b] (fun st =>
    let va := (st.me.x a).toNat
    let dev := (st.me.x b).toNat
    if 2 ^ 18 ≤ dev then st.trapWith Cause.bounds dev 0
    else st.privStore (st.whoOf st.cur 0) 3 d a [b] va (szBytes s) (.ok (rawParts va (szBytes s) dev)))))

/-- LDHST (R394): no aperture check. -/
def execLdhst (d a : R5) (s : BitVec 2) (st : State) : Res :=
  .next (st.guardPriv (fun st => st.unpoisoned [a] (fun st =>
    let va := (st.me.x a).toNat
    st.privLoad (st.whoOf st.cur 0) 4 d a [] va (szBytes s) (.ok (rawParts va (szBytes s) 0)))))

/-- STHST (R394). -/
def execSthst (d a : R5) (s : BitVec 2) (st : State) : Res :=
  .next (st.guardPriv (fun st => st.unpoisoned [a] (fun st =>
    let va := (st.me.x a).toNat
    st.privStore (st.whoOf st.cur 0) 4 d a [] va (szBytes s) (.ok (rawParts va (szBytes s) 0)))))

end Sys2Proof.Machine
end

