-- ==== Sys2Proof/Machine/Queues.lean ====
section
/-! DEFINITION. Ordering and taint instructions, and slice queues (R129, R141, R142, R372 to R379, R98 to R103). -/

namespace Sys2Proof.Machine

/-- FENCE (R129): waits for every earlier access; wider than core scope the L1 is invalidated. -/
def execFence (s : BitVec 3) (st : State) : Res :=
  .next (if !st.me.inflight.isEmpty then st.wait else (st.modMe (fun k => k.acquireL1 s.toNat)).retire)

/-- ACQ (R129): waits for every earlier load. -/
def execAcq (s : BitVec 3) (st : State) : Res :=
  .next (if st.me.inflight.any (fun a => a.kind.reads) then st.wait else (st.modMe (fun k => k.acquireL1 s.toNat)).retire)

/-- REL (R129): later stores, atomics and engine commands wait for every earlier access and acknowledgement; the
instruction itself does not. -/
def execRel (_s : BitVec 3) (st : State) : Res :=
  .next (if st.me.inflight.isEmpty then st.retire
    else
      let a := st.issued (mkAccess .rel 0 privMods 0 .discard none [])
      (st.modMe (fun k => { k with inflight := k.inflight ++ [{ a with ord := 0 }], serial := k.serial + 1 })).retire)

/-- The taint place of a register or, with T, of a tile (R372). -/
def taintPlace (r : R5) (t : BitVec 1) : Nat := if t = 1 then 32 + r.toNat % 8 else r.toNat

/-- Whether TCLR and TMRG wait for the youngest writer of their operand (R374). -/
def Core.writerOut (k : Core) (p : Nat) : Bool := Map.has k.pend p

/-- TCLR (R141, R374). -/
def execTclr (d : R5) (t : BitVec 1) (st : State) : Res :=
  let p := taintPlace d t
  .next (if st.me.writerOut p then st.wait else (st.modMe (fun k => k.setTaint p Taint.clean)).retire)

/-- TMRG (R374). -/
def execTmrg (d a : R5) (t : BitVec 1) (st : State) : Res :=
  let p := taintPlace d t
  .next (if st.me.writerOut p then st.wait
    else (st.modMe (fun k => k.setTaint p ((k.taintOf p).union k.loads (k.taintOf a.toNat)))).retire)

/-- The encoding of R142. -/
def Taint.encode (t : Taint) : Dword :=
  match t.mark with
  | some _ => BitVec.twoPow 64 40
  | none => BitVec.ofNat 64 (t.refs.foldl (fun a r => a + 2 ^ r) 0 + t.refs.length * 2 ^ 36)

/-- TQRY (R142, R374): the result has no taint. -/
def execTqry (d a : R5) (t : BitVec 1) (st : State) : Res :=
  .next (st.modMe (fun k => k.setX d (k.taintOf (taintPlace a t)).encode false Taint.clean)).retire

/-! ## Slice queues -/

/-- The slice and index of a handle that may be used (R376, R101): none faults QUEUE. -/
def State.queueOf (s : State) (h : Nat) : Option (Nat × Nat × QDesc) :=
  let sl := h / 256 % 2048
  let q := h % 256
  let e := (s.slice sl).qdesc q
  if 2 ^ 19 ≤ h || (s.square sl).withheld || !e.valid || e.ctx != s.ctxOf s.cur then none
  else some (sl, q, e)

/-- Runs `g` on a usable queue of the given entry size. -/
def State.onQueue (s : State) (a : R5) (rows : Option Bool) (g : Nat → Nat → QDesc → State) : State :=
  match s.queueOf (s.me.x a).toNat with
  | none => s.trapWith Cause.queue 0 0
  | some (sl, q, e) =>
    match rows with
    | none => g sl q e
    | some r => if e.rows = r then g sl q e else s.trapWith Cause.queue 0 0

def QDesc.count (q : QDesc) : Nat := (q.tail + 65536 - q.head) % 65536

/-- Runs `g` when the scoresheet lets the current core make an order choice now (R213, R214). -/
def State.ordered (s : State) (kind val : Nat) (g : State → State) : State :=
  match s.choose s.cur kind val with
  | some s => g s
  | none => s.wait

/-- Writes an entry at its place in the array, in 8-byte units. -/
def Slice.putEntry (k : Slice) (q : QDesc) (i : Nat) (row : Nat) (pois : Bool) : Slice :=
  let n := if q.rows then 32 else 1
  let base := q.base + i % 2 ^ q.logd * n
  (List.range n).foldl (fun k j =>
    { k with array := Map.set 0 k.array (base + j) (BitVec.ofNat 64 (bitsOf row (64 * j) 64)),
             arrayPois := Map.set false k.arrayPois (base + j) pois }) k

/-- Reads an entry and its poison. -/
def Slice.getEntry (k : Slice) (q : QDesc) (i : Nat) : Nat × Bool :=
  let n := if q.rows then 32 else 1
  let base := q.base + i % 2 ^ q.logd * n
  ((List.range n).foldr (fun j acc => (Map.get 0 k.array (base + j)).toNat + 2 ^ 64 * acc) 0,
    (List.range n).any (fun j => Map.get false k.arrayPois (base + j)))

/-- Wakes every waiter of a queue (R102). -/
def State.wakeQueue (s : State) (sl q : Nat) : State :=
  let ws := ((s.slice sl).waiters.filter (fun w => w.2 == q)).map (·.1)
  let s := s.modSlice sl (fun k => { k with waiters := k.waiters.filter (fun w => w.2 != q) })
  ws.foldl (fun s c => s.modCore c (fun k =>
    if k.sleep = some (.qwait (256 * sl + q)) then { k with sleep := some .woken } else k)) s

/-- Enqueues one entry: the state, and the status. -/
def State.enqueue (s : State) (sl q : Nat) (e : QDesc) (row : Nat) (pois : Bool) : State × Dword :=
  if 2 ^ e.logd ≤ e.count then (s, 1)
  else
    let s' := s.modSlice sl (fun k =>
      let k := k.putEntry e e.tail row pois
      { k with queues := Map.set QDesc.reset k.queues q { e with tail := (e.tail + 1) % 65536 } })
    (if e.count = 0 then s'.wakeQueue sl q else s', 0)

/-- QENQ (R377): the row form pops its SQ whatever the status. -/
def execQenq (d a b : R5) (q : BitVec 1) (r : BitVec 1) (st : State) : Res :=
  let m := (st.me.mods .store true).strong
  .next (st.unpoisoned [a] (fun st => st.untainted (if r = 1 then [a] else [a, b]) (fun st =>
    st.onQueue a (some (r == 1)) (fun sl i e =>
      let put (st : State) (v : Nat) (p : Bool) : State :=
        if !st.orderly .store m then st.wait
        else st.sends [sl, i, v] (fun st => st.ordered 3 (256 * sl + i) (fun st =>
          let (st, status) := st.enqueue sl i e v p
          let st := if r = 1 then st.modMe (fun k => k.popQueue (4 + q.toNat)) else st
          (st.modMe (fun k => k.setX d status false Taint.clean)).retire))
      if r = 1 then st.sqHead q.toNat (fun x => put st x.data.toNat x.pois)
      else put st (st.me.x b).toNat (st.me.sideOf b)))))

/-- QDEQ (R378). -/
def execQdeq (d a b : R5) (q : BitVec 2) (r : BitVec 1) (st : State) : Res :=
  let m := (st.me.mods .load true).strong
  .next (st.unpoisoned [a] (fun st => st.untainted [a] (fun st =>
    st.onQueue a (some (r == 1)) (fun sl i e =>
      (if r = 1 then st.queueRoom q.toNat else fun g => g st) (fun st =>
        st.slotFree (fun st =>
          if !st.orderly .load m then st.wait
          else st.ordered 3 (256 * sl + i) (fun st =>
            let none' := e.count == 0
            let (v, p) := if none' then (0, false) else (st.slice sl).getEntry e e.head
            let status : Dword := if none' then 1 else 0
            let st := if none' then st else st.modSlice sl (fun k =>
              { k with queues := Map.set QDesc.reset k.queues i { e with head := (e.head + 1) % 65536 } })
            let st := st.acquired m
            let t := Taint.clean
            if r = 1 then
              (st.modMe (fun k => (k.pushRow q.toNat (BitVec.ofNat 2048 v) p t).setX d status false t)).retire
            else if none' then (st.modMe (fun k => k.setX d status false t)).retire
            else if d = b ∧ Config.entryLast st.freeCount = true then
              ({ st.modMe (fun k => k.setX b (BitVec.ofNat 64 v) p t) with freeCount := st.freeCount + 1 }).retire
            else if d = b then
              ({ st.modMe (fun k => k.setX d status false t) with freeCount := st.freeCount + 1 }).retire
            else
              (st.modMe (fun k => (k.setX b (BitVec.ofNat 64 v) p t).setX d status false t)).retire)))))))

/-- QWAIT (R102): sleeps on an empty queue; a full waiter table, or a stop request, ends it at once. -/
def execQwait (a : R5) (st : State) : Res :=
  let m := (st.me.mods .load true).strong
  let done (st : State) : State := ((st.modMe (fun k => { k with sleep := none })).acquired m).retire
  .next (match st.me.sleep with
    | some .woken => done st
    | some _ => if !st.me.stopReq.isEmpty then done (st.forgetWaiter st.cur) else st.wait
    | none =>
      st.unpoisoned [a] (fun st => st.untainted [a] (fun st => st.onQueue a none (fun sl q e =>
        if !st.orderly .load m then st.wait
        else if e.count ≠ 0 ∨ 64 ≤ (st.slice sl).waiters.length ∨ !st.me.stopReq.isEmpty then done st
        else ((st.modSlice sl (fun k => { k with waiters := k.waiters ++ [(st.cur, q)] })).modMe
          (fun k => { k with sleep := some (.qwait (256 * sl + q)) })).wait))))

/-- QSTAT (R379). -/
def execQstat (d a : R5) (st : State) : Res :=
  let m := (st.me.mods .load true).strong
  .next (st.unpoisoned [a] (fun st => st.untainted [a] (fun st => st.onQueue a none (fun _ _ e =>
    st.slotFree (fun st =>
      if !st.orderly .load m then st.wait
      else
        let v := e.head + e.tail * 2 ^ 16 + 2 ^ 32 + (if e.rows then 2 ^ 33 else 0) + e.logd * 2 ^ 34
        ((st.acquired m).modMe (fun k => k.setX d (BitVec.ofNat 64 v) false Taint.clean)).retire)))))

/-- QINIT (R379). -/
def execQinit (a : R5) (st : State) : Res :=
  let m := (st.me.mods .store true).strong
  .next (st.unpoisoned [a] (fun st => st.untainted [a] (fun st => st.onQueue a none (fun sl q e =>
    if !st.orderly .store m then st.wait
    else st.sends [sl, q] (fun st => (st.modSlice sl (fun k =>
      { k with queues := Map.set QDesc.reset k.queues q { e with head := 0, tail := 0 } })).retire)))))

end Sys2Proof.Machine
end

