-- ==== Sys2Proof/Machine/Engines.lean ====
section
/-! DEFINITION. What engine commands and messages share: issue on a timeline (R145), the scoreboard (R224), messages
in flight (R209, R233 to R240). -/

namespace Sys2Proof.Machine

/-! ## Issue -/

/-- Scoreboard entries in use. -/
def Core.scoreboard (k : Core) : Nat := k.cmds.foldl (fun a c => a + c.ranges.length) 0

/-- A command with nothing staged. -/
def mkCmd (word : CmdKind) (tl : Nat) (ranges : List (Nat × Nat × Bool)) : Cmd :=
  { id := 0, pc := 0, word := word, tl := tl, num := 0, ranges := ranges, privileged := false, slot := none, step := 0,
    number := 0, got := [], asked := [], refusals := [], cache := 0, sent := 0, staged := none, via := [], flags := 0 }

/-- The lines of an MCRD: place, first byte, length, and offset in its range (R93). -/
def mcrdLines (a len : Nat) : List (Nat × Nat × Nat × Nat) :=
  (spans 1024 a len).mapIdx (fun i sp => (i, sp.1, sp.2.1, sp.2.2))

/-- Messages that a command sends to each receiver. -/
def CmdKind.messages : CmdKind → Nat
  | .mcrd a _ len .. => (mcrdLines a len).length
  | .xsend .. => 1
  | _ => 0

/-- The translations of ranges of space 2, beside those that `w` keeps (R470): page, bytes, leaf; a leaf with M = 1 holds
what uses it (R37). -/
def State.viaOf (s : State) (w : Who) (rs : List (Nat × Nat)) : List (Nat × Nat × Nat) :=
  rs.foldl (fun acc r =>
    (spans 65536 r.1 r.2).foldl (fun acc sp =>
      if acc.any (fun e => decide (e.1 ≤ sp.1) && decide (sp.1 < e.1 + e.2.1)) then acc
      else match s.lookup w.core w.unit w.ctx sp.1 with
        | .leaf p n => acc ++ [(sp.1 / n * n, n, p)]
        | _ => acc) acc) w.via

/-- MDEF's cache field (R317). -/
def Core.mdefCache (k : Core) : Nat := bitsOf k.arch.mdef.toNat 0 2

/-- Issues an engine command: the next number of its timeline (R145); too few scoreboard entries stall (R224). The
instruction retires. -/
def State.issueCmd (s : State) (c : Cmd) : State :=
  let k := s.me
  if Config.scoreboardEntries < k.scoreboard + c.ranges.length then s.wait
  else
    let n := Map.get 0 k.arch.tlIssued c.tl + 1
    let step := match s.launchOf s.cur with | some (_, t, l) => (l.task t).steps | none => 0
    let c := { c with id := k.serial, pc := k.arch.pc, num := n, privileged := k.level != 0, step := step,
                      number := k.arch.sendNo }
    (s.setMe { k with
      cmds := k.cmds ++ [c], serial := k.serial + 1,
      arch := { k.arch with tlIssued := Map.set 0 k.arch.tlIssued c.tl n
                            sendNo := k.arch.sendNo + c.word.messages } }).retire

/-- Whether a REL or FENCE before command `c` still holds it (R129). -/
def Core.relHolds (k : Core) (c : Cmd) : Bool := k.inflight.any (fun a => a.kind == .rel && decide (a.id < c.id))

/-- Whether command `c` waits for an older one on the scoreboard (R224): an overlap that is not two reads. -/
def Core.conflicts (k : Core) (c : Cmd) : Bool :=
  (k.cmds.takeWhile (fun o => o.id != c.id)).any (fun o =>
    o.ranges.any (fun r => c.ranges.any (fun q =>
      (r.2.2 || q.2.2) && decide (r.1 < q.1 + q.2.1) && decide (q.1 < r.1 + r.2.1))))

/-- Advances a timeline's counter over the complete prefix of performed numbers (R145). -/
def advanceTl (ahead : List Nat) (tl : Nat) : Nat → Nat → Nat × List Nat
  | 0, n => (n, ahead)
  | fuel + 1, n =>
    let key := 2 ^ 64 * tl + n + 1
    if ahead.contains key then
      let (m, rest) := advanceTl (ahead.erase key) tl fuel (n + 1)
      (m, rest)
    else (n, ahead)

/-- Commands of the copy engine (R443). -/
def CmdKind.isCopy : CmdKind → Bool
  | .cpy .. | .cpy2d .. | .cpyga .. | .cpysc .. | .cpyfi .. | .cpycv .. => true
  | _ => false

/-- A command of core `c` has performed: it leaves, its flags enter RMODE (R306), its counter advances. -/
def State.cmdDone (s : State) (c id : Nat) : State :=
  let k := s.core c
  match k.cmds.find? (fun x => x.id == id) with
  | none => s
  | some x =>
    let ahead := k.arch.tlAhead ++ [2 ^ 64 * x.tl + x.num]
    let (n, rest) := advanceTl ahead x.tl ahead.length (Map.get 0 k.arch.tlCount x.tl)
    let k := k.orFlags x.flags
    (if x.word.isCopy then s.freeGrant (copyReserve c) else s).setCore c { k with
      cmds := k.cmds.filter (fun y => y.id != id),
      arch := { k.arch with tlAhead := rest, tlCount := Map.set 0 k.arch.tlCount x.tl n } }

/-- Replaces an issued command. -/
def Core.setCmd (k : Core) (c : Cmd) : Core := { k with cmds := k.cmds.map (fun x => if x.id = c.id then c else x) }

/-! ## Messages -/

/-- The launch and task of the current core, with which every message is sent. -/
def State.withTask (s : State) (g : Nat → Nat → Launch → State) : State :=
  match s.launchOf s.cur with
  | some (id, t, l) => g id t l
  | none => s.wait

/-- Puts a message of a task on the torus, under its superstep and number (R209). -/
def State.launchMsg (s : State) (id t step number : Nat) (l : Launch) (cls src dst : Nat) (body : MsgBody) : State :=
  let m : Msg := { cls := cls, launch := id, task := t, superstep := step, number := number, ctx := l.ctx, src := src,
                   here := src, dst := dst, waypoint := none, vc := 0, body := body }
  { s with msgs := Map.put s.msgs s.msgId m, msgId := s.msgId + 1 }

/-- Sends a message from core `c` to a task of its launch: it takes the next number of its sender (R209), and `bytes`
enter the pending-byte counters (R204). -/
def State.post' (s : State) (c id t : Nat) (l : Launch) (cls dst bytes : Nat) (body : MsgBody) : State :=
  let s := s.launchMsg id t (l.task t).steps (s.core c).arch.sendNo l cls (squareOf c) dst body
  let s := s.modLaunch id (fun l => l.pendAdd t bytes)
  s.modCore c (fun k => { k with arch := { k.arch with sendNo := k.arch.sendNo + 1 } })

/-- Bytes with their poison, apart. -/
def PBytes.data (bs : PBytes) : List Byte := bs.map (·.1)
/-- Poison of each 32-byte granule of a 32-aligned run. -/
def PBytes.granules (bs : PBytes) : List Bool :=
  (List.range (bs.length / 32)).map (fun i => ((bs.drop (32 * i)).take 32).any (·.2))
/-- Bytes with the poison of their granules. -/
def withGranules (data : List Byte) (pois : List Bool) : PBytes :=
  data.mapIdx (fun i b => (b, pois.getD (i / 32) false))

/-! ## The channel table (R237 to R241, R246) -/

/-- A channel entry. -/
structure ChEntry where
  v : Bool
  receives : Bool
  peer : Nat
  pch : Nat
  slots : Nat
  size : Nat
  base : Nat
  deriving DecidableEq, Repr

/-- Decodes a channel entry's 128 bits (R238). -/
def ChEntry.of (x : Nat) : ChEntry :=
  { v := x.testBit 95, receives := x.testBit 94, peer := bitsOf x 81 13, pch := bitsOf x 77 4,
    slots := bitsOf x 68 6 + 1, size := 256 * (bitsOf x 64 4 + 1), base := 256 * bitsOf x 0 13 }

/-- A device read of the channel table; zeros where the launch has none. -/
def State.chTable (s : State) (l : Launch) (core ofs n : Nat) : Nat :=
  if l.chtab = 0 then 0 else bytesNat ((s.deviceLoad l.ctx core (l.chtab + ofs) n).map (·.1))

def State.chEntry (s : State) (l : Launch) (core t ch : Nat) : ChEntry :=
  ChEntry.of (s.chTable l core (256 + 256 * t + 16 * ch) 16)

/-- A reduction-tree descriptor (R241). -/
structure Tree where
  v : Bool
  lvl : Nat
  ord : Nat
  cmask : Nat
  rc : Nat
  rx : Nat
  ry : Nat
  rz : Nat
  deriving DecidableEq, Repr

def State.tree (s : State) (l : Launch) (core n : Nat) : Tree :=
  let x := s.chTable l core (4 * n) 4
  { v := x.testBit 31, lvl := bitsOf x 28 3, ord := bitsOf x 25 3, cmask := bitsOf x 21 4, rc := bitsOf x 19 2,
    rz := bitsOf x 16 3, ry := bitsOf x 12 4, rx := bitsOf x 8 4 }

/-- The exchange schedule (R246): valid, guard, slots per frame, frame length. -/
def State.schedule (s : State) (l : Launch) (core : Nat) : Bool × Nat × Nat × Nat :=
  let x := s.chTable l core 16 8
  (x.testBit 63, if bitsOf x 42 10 = 0 then 20 else bitsOf x 42 10, bitsOf x 38 4 + 1, bitsOf x 0 32)

/-- The members of a tree's instance, ascending by task index. -/
def Launch.members (l : Launch) (tr : Tree) (inst : Nat) : List Nat :=
  (l.instTasks tr.lvl inst).filter (fun t => tr.cmask.testBit (l.coreIx t))

/-- The box offset of an instance's lowest corner (R241). -/
def Launch.corner (l : Launch) (lv t : Nat) : Nat × Nat × Nat :=
  match l.dom lv with
  | 0 => (l.offX t, l.offY t, l.offZ t)
  | 1 => (l.offX t, l.offY t, l.offZ t)
  | 2 => (0, l.offY t, l.offZ t)
  | 3 => (0, 0, l.offZ t)
  | _ => (0, 0, 0)

/-- The task at a box offset and core, if the box holds it. -/
def Launch.taskAtOffset (l : Launch) (x y z c : Nat) : Option Nat :=
  if x < l.nx ∧ y < l.ny ∧ z < l.nz ∧ c < l.nc then some (((z * l.ny + y) * l.nx + x) * l.nc + c) else none

/-- The root of the tree of the instance that holds `t`. -/
def Launch.rootOf (l : Launch) (tr : Tree) (t : Nat) : Option Nat :=
  let (x, y, z) := l.corner tr.lvl t
  l.taskAtOffset (x + tr.rx) (y + tr.ry) (z + tr.rz) tr.rc

end Sys2Proof.Machine
end

