-- ==== Sys2Proof/Machine/Channels.lean ====
section
/-! DEFINITION. Channels, in-layer operations, multicast, reduction and exchange: the issue of majors 0x23, 0x25 and
0x26 (R380 to R392). -/

namespace Sys2Proof.Machine

/-! ## Channels (R380 to R383, R240) -/

/-- Runs `g` on a declared channel entry of the given direction; otherwise CHANNEL (R380). -/
def State.onChannel (s : State) (ch : Nat) (receives : Option Bool)
    (g : Nat → Nat → Launch → ChEntry → State) : State :=
  s.withTask (fun id t l =>
    let e := s.chEntry l s.cur t ch
    if !e.v || (match receives with | some r => e.receives != r | none => false) then s.trapWith Cause.channel 0 0
    else g id t l e)

def Core.chan (k : Core) (ch : Nat) : Chan := Map.get Chan.reset k.chans ch
def Core.setChan (k : Core) (ch : Nat) (c : Chan) : Core := { k with chans := Map.set Chan.reset k.chans ch c }

/-- The checks of a 256-aligned raw range (R381): BOUNDS for the address, then R52. -/
def Core.checkRange (k : Core) (va size : Nat) : Checked Unit :=
  if va % 256 ≠ 0 ∨ va / 2 ^ 21 % 8 ≠ 0 then .fault (trapAt Cause.bounds va va) else k.checkLocal va size

/-- CHSEND (R381). -/
def execChsend (a : R5) (c : BitVec 4) (st : State) : Res :=
  let m := st.me.mods .store true
  .next (st.unpoisoned [a] (fun st => st.untainted [a] (fun st =>
    st.onChannel c.toNat (some false) (fun id t l e =>
      let va := (st.me.x a).toNat
      st.localDo .store m [(va, e.size)] (st.me.checkRange va e.size) (fun st =>
        let ch := st.me.chan c.toNat
        if ch.count = 0 ∨ !l.pendFits t e.size then st.wait
        else
          let bs := st.me.lsBytes (va % 2 ^ 21) e.size
          st.sends (c.toNat :: bs.data.map BitVec.toNat) (fun st =>
            let st := st.modMe (fun k => k.setChan c.toNat { ch with count := ch.count - 1 })
            (st.post' st.cur id t l 4 (squareOf (l.pcore e.peer)) e.size
              (.chan id e.peer e.pch bs.data bs.granules)).retire))))))

/-- Frees the slot that the last CHRECV returned, which sends its slot return (R382, R240). -/
def State.freeHeld (s : State) (ch id t : Nat) (l : Launch) (e : ChEntry) : State :=
  let c := s.me.chan ch
  match c.held with
  | none => s
  | some _ =>
    (s.modMe (fun k => k.setChan ch { c with held := none })).post' s.cur id t l 4 (squareOf (l.pcore e.peer)) 0
      (.slotReturn id e.peer e.pch)

/-- CHRECV (R382). -/
def execChrecv (d : R5) (c : BitVec 4) (st : State) : Res :=
  let m := st.me.mods .load true
  .next (st.onChannel c.toNat (some true) (fun id t l e =>
    if !st.orderly .load m then st.wait
    else
      let receive (st : State) : State :=
        let ch := st.me.chan c.toNat
        if ch.waiting = 0 then st.wait
        else st.slotFree (fun st =>
          let slot := ch.count
          let st := st.acquired m
          (st.modMe (fun k => (k.setChan c.toNat
              { count := (slot + 1) % e.slots, waiting := ch.waiting - 1, held := some slot }).setX d
            (BitVec.ofNat 64 (e.base + slot * e.size)) false Taint.clean)).retire)
      if (st.me.chan c.toNat).held.isNone then receive st
      else st.sends [c.toNat] (fun st => receive (st.freeHeld c.toNat id t l e))))

/-- CHPOLL (R383). -/
def execChpoll (d : R5) (c : BitVec 4) (st : State) : Res :=
  let m := st.me.mods .load true
  .next (st.onChannel c.toNat none (fun _ _ _ e =>
    if !st.orderly .load m then st.wait
    else st.slotFree (fun st =>
      let ch := st.me.chan c.toNat
      let v := if e.receives then ch.waiting else ch.count
      ((st.acquired m).modMe (fun k => k.setX d (BitVec.ofNat 64 v) false Taint.clean)).retire)))

/-! ## In-layer operations (R68 to R70, R384, R385) -/

/-- The checks of R68 over the ranges an operation names. A bad length reports the first named address
(notes/assumptions/52.md); a layer that changes state keeps the operation from issuing (R57). -/
def Core.checkInLayer (k : Core) (len : Nat) (vas : List Nat) : Checked Unit :=
  let bad (va : Nat) : Bool :=
    va % 256 != 0 || decide (2 ^ 21 ≤ va) || va / 2 ^ 20 != (va + len - 1) / 2 ^ 20
      || decide ((k.layer (decide (2 ^ 20 ≤ va))).usable < va % 2 ^ 20 + len) || va / 2 ^ 20 != vas.headD 0 / 2 ^ 20
  if len % 256 ≠ 0 ∨ len = 0 ∨ 2 ^ 20 < len then
    .fault (trapAt Cause.bounds (vas.headD 0) (vas.headD 0))
  else match vas.find? bad with
    | some va => .fault (trapAt Cause.bounds va va)
    | none => k.checkLocal (vas.headD 0) len

/-- Issues an in-layer operation after its checks. -/
def State.inLayer (s : State) (rs : List R5) (c : R5) (tl : Nat) (mk : List Nat → Nat → CmdKind × List Bool)
    (slot : Bool) : State :=
  s.unpoisoned (rs ++ [c]) (fun s => s.untainted (rs ++ [c]) (fun s =>
    let vas := rs.map (fun r => (s.me.x r).toNat)
    let len := (s.me.x c).toNat
    s.onCheck [] (s.me.checkInLayer len vas) (fun _ =>
      let (w, wr) := mk vas len
      let cmd := mkCmd w tl (vas.zipWith (fun v b => (v, len, b)) wr)
      if slot then
        match s.me.takeSlot with
        | none => s.wait
        | some (n, k) =>
          if Config.scoreboardEntries < s.me.scoreboard + cmd.ranges.length then s.wait
          else (s.setMe (k.bindReg c (rs ++ [c]) false n)).issueCmd { cmd with slot := some n }
      else s.issueCmd cmd)))

/-- LMZERO (R385). -/
def execLmzero (a c : R5) (t : BitVec 3) (st : State) : Res :=
  .next (st.inLayer [a] c t.toNat (fun vas n => (.lmzero (vas.getD 0 0) n, [true])) false)

/-- LMCOPY (R385). -/
def execLmcopy (a b c : R5) (t : BitVec 3) (st : State) : Res :=
  .next (st.inLayer [a, b] c t.toNat (fun vas n => (.lmcopy (vas.getD 0 0) (vas.getD 1 0) n, [true, false])) false)

/-- LMCMP (R385): takes a slot, and writes c when it performs. -/
def execLmcmp (a b c : R5) (t : BitVec 3) (st : State) : Res :=
  .next (st.inLayer [a, b] c t.toNat (fun vas n => (.lmcmp (vas.getD 0 0) (vas.getD 1 0) n c.toNat, [false, false])) true)

def CmdKind.isInLayer : CmdKind → Bool
  | .lmzero .. => true
  | .lmcopy .. => true
  | .lmcmp .. => true
  | _ => false

/-- LMFENCE (R70): waits for every earlier in-layer operation and for every earlier access to the local store. -/
def execLmfence (st : State) : Res :=
  .next (if st.me.cmds.any (fun c => c.word.isInLayer) || st.me.inflight.any (fun a => a.space == 1) then st.wait
    else st.retire)

/-! ## Multicast, reduction, exchange (R386 to R392) -/

/-- MCRD (R388). -/
def execMcrd (a b c : R5) (t : BitVec 3) (st : State) : Res :=
  let m := st.me.mods .load false
  .next (st.unpoisoned [a, b, c] (fun st => st.untainted [a, b, c] (fun st =>
    if st.inCompute st.cur then st.trapWith Cause.phase 0 0
    else
      let src := (st.me.x a).toNat
      let v := (st.me.x b).toNat
      let ofs := (st.me.x c).toNat
      let len := 256 * (bitsOf v 16 9 + 1)
      let mask := bitsOf v 0 16
      if mask = 0 ∨ bitsOf v 25 7 ≠ 0 ∨ 2 ^ 43 ≤ v then st.trapWith Cause.bounds 0 0
      else if ofs % 256 ≠ 0 ∨ 2 ^ 21 ≤ ofs ∨ 2 ^ 21 < ofs + len then st.trapWith Cause.bounds ofs ofs
      else if src % 256 ≠ 0 then st.trapWith Cause.bounds src src
      else st.onCheck (pagesOf src len) (st.check2 (st.whoOf st.cur 0) .load m.cache src len 0) (fun _ =>
        st.withTask (fun id tk l =>
          let n := len * popTo mask 16
          if !l.pendFits tk n then st.wait
          else st.sends [src, v, ofs] (fun st =>
            let cmd := mkCmd (.mcrd src ofs len mask (bitsOf v 32 4) (bitsOf v 36 4) (bitsOf v 40 3) m.cache) t.toNat []
            let st' := st.issueCmd { cmd with via := st.viaOf (st.whoOf st.cur 0) [(src, len)], cache := m.cache }
            -- its copies are sent by its issue (R204)
            st'.modLaunch id (fun l => l.pendAdd tk n)))))))

/-- Runs `g` for a member of a declared tree, with its instance; otherwise CHANNEL (R389). -/
def State.onTree (s : State) (n : Nat) (root : Bool) (g : Nat → Nat → Launch → Tree → State) : State :=
  s.withTask (fun id t l =>
    let tr := s.tree l s.cur n
    if !tr.v || !(l.members tr (l.instOf tr.lvl t)).contains t || (root && l.rootOf tr t != some t) then
      s.trapWith Cause.channel 0 0
    else g id t l tr)

/-- REDSEND (R389). -/
def execRedsend (a b : R5) (t : BitVec 3) (n o : BitVec 2) (st : State) : Res :=
  let m := st.me.mods .store true
  .next (st.unpoisoned [a, b] (fun st => st.untainted [a, b] (fun st =>
    if st.inCompute st.cur then st.trapWith Cause.phase 0 0
    else st.onTree n.toNat false (fun id tk l _ =>
      let va := (st.me.x a).toNat
      let cnt := (st.me.x b).toNat
      if cnt = 0 ∨ 64 < cnt then st.trapWith Cause.channel 0 0
      else if va % 4 ≠ 0 ∨ va / 2 ^ 21 % 8 ≠ 0 then st.trapWith Cause.bounds va va
      else st.localDo .store m [] (st.me.checkLocal va (4 * cnt)) (fun st =>
        if !l.pendFits tk (4 * cnt) then st.wait
        else if Config.scoreboardEntries < st.me.scoreboard + 1 then st.wait
        else st.sends [n.toNat, o.toNat, va, cnt] (fun st =>
          let k := Map.get 0 st.me.arch.redSent n.toNat
          let st := st.modMe (fun c => { c with arch := { c.arch with redSent := Map.put c.arch.redSent n.toNat (k + 1) } })
          let st := st.issueCmd (mkCmd (.redsend n.toNat o.toNat va cnt k) t.toNat [(va, 4 * cnt, false)])
          st.modLaunch id (fun l => l.pendAdd tk (4 * cnt))))))))

/-- The reduction `ordinal` of a tree's instance, if it has begun. -/
def State.redFind (s : State) (id n inst ordinal : Nat) : Option (Nat × Red) :=
  List.find? (fun e => e.2.launch == id && e.2.tree == n && e.2.inst == inst && e.2.ordinal == ordinal) s.reds

/-- Whether contributions of one reduction differ in operation or count (R390). -/
def Red.mixed (r : Red) : Bool :=
  match r.given with
  | [] => false
  | e :: es => es.any (fun f => f.2.1 != e.2.1 || f.2.2.vals.length != e.2.2.vals.length)

/-- Result bytes of a reduction with the poison of each (R390). -/
def Red.resultBytes (r : Red) (p : Partial) : PBytes :=
  let iadd := match r.given with | e :: _ => e.2.1 == 3 | [] => false
  (p.vals.zip p.pois).flatMap (fun (v, bad) =>
    markBytes bad (natBytes 4 (if bad then (if iadd then 0 else Fmt.f32.poison) else v.toNat)))

/-- The result is complete at the root's virtual square. -/
def Red.result (r : Red) (l : Launch) (root : Nat) : Option Partial :=
  if r.isOver then Map.find? r.sent (l.vcore root / 4) else none

/-- REDWAIT (R390): waits for its reduction; the flag fall traps FLAG_FALL (R244). -/
def execRedwait (a b : R5) (n : BitVec 2) (st : State) : Res :=
  .next (st.unpoisoned [a, b] (fun st => st.untainted [a, b] (fun st =>
    st.onTree n.toNat true (fun id tk l tr =>
      let va := (st.me.x a).toNat
      let k := Map.get 0 st.me.arch.redAwaited n.toNat
      let next (s : State) : State :=
        s.modMe (fun c => { c with redWait := none
                                   arch := { c.arch with redAwaited := Map.put c.arch.redAwaited n.toNat (k + 1) } })
      -- a wait with a time-out is on record while it lasts (R244)
      let await (s : State) : State :=
        if (s.me.x b).toNat % 2 ^ 32 = 0 then s.wait else (s.modMe (fun c => { c with redWait := some (n.toNat, k) })).wait
      if va % 4 ≠ 0 ∨ va / 2 ^ 21 % 8 ≠ 0 then st.trapWith Cause.bounds va va
      else match st.redFind id n.toNat (l.instOf tr.lvl tk) k with
        | none => await st
        | some (_, r) =>
          if (r.mixed || r.flushing) && st.me.loadsOut then st.wait
          else if r.mixed then (next st).trapWith Cause.channel 0 n.toNat
          else match r.result l tk with
            | none => await st
            | some p =>
              if r.flushing then
                -- the members absent from the root's union, numbered in ascending task index
                let all := (l.members tr (l.instOf tr.lvl tk)).length
                (next st).trapWith Cause.flagFall (2 ^ all - 1 - p.mask.toNat % 2 ^ all) n.toNat
              else
                let bs := r.resultBytes p
                st.onCheck [] (st.me.checkLocal va bs.length) (fun _ =>
                  (next (st.lsWrite st.cur (va % 2 ^ 21) bs)).retire)))))

/-- The launch's exchange slots per frame, if it uses them (R391). -/
def State.onExchange (s : State) (cls : Nat) (g : Nat → Nat → Launch → State) : State :=
  s.withTask (fun id t l =>
    if !l.sxc || (s.schedule l s.cur).2.2.1 ≤ cls then s.trapWith Cause.channel 0 0 else g id t l)

/-- XSEND (R391). The class must lie below the schedule's slots per frame. -/
def execXsend (a b c : R5) (t : BitVec 3) (k : BitVec 4) (st : State) : Res :=
  let m := st.me.mods .store true
  .next (st.unpoisoned [a, b, c] (fun st => st.untainted [a, b, c] (fun st =>
    if st.inCompute st.cur then st.trapWith Cause.phase 0 0
    else st.onExchange k.toNat (fun id tk l =>
      let va := (st.me.x a).toNat
      let len := (st.me.x b).toNat
      let v := (st.me.x c).toNat
      let ofs := bitsOf v 0 21
      let peer := bitsOf v 32 13
      if l.count ≤ peer then st.trapWith Cause.channel 0 0
      else if len % 256 ≠ 0 ∨ len = 0 ∨ 65536 < len then st.trapWith Cause.bounds 0 0
      else if ofs % 256 ≠ 0 ∨ 2 ^ 21 < ofs + len ∨ bitsOf v 21 11 ≠ 0 ∨ 2 ^ 45 ≤ v then st.trapWith Cause.bounds v v
      else st.localDo .store m [] (st.me.checkRange va len) (fun st =>
        if !l.pendFits tk len then st.wait
        else if Config.scoreboardEntries < st.me.scoreboard + 1 then st.wait
        else st.sends [k.toNat, va, len, v] (fun st =>
          let st := st.issueCmd (mkCmd (.xsend k.toNat va len peer ofs) t.toNat [(va, len, false)])
          st.modLaunch id (fun l => l.pendAdd tk len)))))))

/-- XRECV (R392). -/
def execXrecv (d : R5) (k : BitVec 4) (st : State) : Res :=
  let m := st.me.mods .load true
  .next (st.onExchange k.toNat (fun _ _ _ =>
    if !st.orderly .load m then st.wait
    else st.slotFree (fun st =>
      ((st.acquired m).modMe (fun c =>
        c.setX d (BitVec.ofNat 64 (Map.get 0 c.xbytes k.toNat)) false Taint.clean)).retire)))

end Sys2Proof.Machine
end

