-- ==== Sys2Proof/Machine/Vector.lean ====
section
/-! DEFINITION. Tile vector instructions: majors 0x30 to 0x37 and their queue-sourced forms (R395 to R419). -/

namespace Sys2Proof.Machine

/-! ## Operands (R396 to R400) -/

/-- A captured row operand: bits, side bit, taint, the queue it pops, its register code (R112). -/
structure VOp where
  row : Row
  side : Bool
  taint : Taint
  pop : Option Nat
  code : Nat
  deriving DecidableEq, Repr

def Core.rowOp (k : Core) (r : R7) : VOp :=
  { row := k.row r.toNat, side := k.rowSideOf r.toNat, taint := Map.get Taint.clean k.taint (tileTaint r.toNat),
    pop := none, code := 128 + r.toNat }

/-- A scalar broadcast to every lane. -/
def Core.splatOp (k : Core) (r : R5) : VOp :=
  { row := rowSplat (lowBits 32 (k.x r)), side := k.sideOf r, taint := k.taintOf r.toNat, pop := none, code := r.toNat }

/-- The q operand (R397, R312): a pop or peek beyond the pushes traps QUEUE, an unfilled entry waits (R186). -/
def State.qOp (s : State) (q : R5) (g : VOp → State) : State :=
  if 8 ≤ q.toNat then g (s.me.splatOp q)
  else
    let n := q.toNat % 4
    match s.me.queue n with
    | [] => s.trapWith Cause.queue n 0
    | e :: _ =>
      if !e.filled then s.wait
      else g { row := e.data, side := e.pois, taint := e.taint, pop := if q.toNat < 4 then some n else none, code := 256 + n }

/-- Lane `i` of an operand and whether it is poison as a floating-point lane (R400). -/
def VOp.fp (o : VOp) (i : Nat) : Nat × Bool := (lane o.row i, o.side || lane o.row i == Fmt.f32.poison)

/-- A result row with its side bit and flags. -/
structure VRes where
  row : Row
  side : Bool
  flags : Dword
  deriving DecidableEq, Repr

/-- A floating-point result lane by lane: a lane with a poison source is poison (R400). -/
def vfp (srcs : List VOp) (g : List Nat → Rounded) : VRes :=
  let ls := (List.range 64).map (fun i =>
    let xs := srcs.map (fun o => o.fp i)
    if xs.any (·.2) then ({ bits := Fmt.f32.poison, flags := 0 }, true) else (g (xs.map (·.1)), false))
  { row := rowOfLanes (ls.map (fun l => l.1.bits)), side := ls.any (·.2) || srcs.any (·.side),
    flags := flagsOf (ls.map (·.1)) }

/-- An integer or raw result lane by lane. -/
def vint (srcs : List VOp) (g : List Nat → Nat) : VRes :=
  { row := rowOfLanes ((List.range 64).map (fun i => g (srcs.map (fun o => lane o.row i)))),
    side := srcs.any (·.side), flags := 0 }

/-- Pops what operands pop. -/
def Core.popOps (k : Core) (srcs : List VOp) : Core :=
  srcs.foldl (fun k o => match o.pop with | some n => k.popQueue n | none => k) k

def Core.opTaint (k : Core) (srcs : List VOp) : Taint := srcs.foldl (fun t o => t.union k.loads o.taint) Taint.clean

/-- Pushes the micro-operation (R221, R402): a full queue stalls; then `g`. -/
def State.vpush (s : State) (groups cost : Nat) (g : State → State) : State :=
  let full := decide (16 ≤ s.me.uops.length)
  let granted := s.reserves.contains (uopReserve s.cur) && s.me.uops.length == 16
  if full && !granted then s.wait
  else
    let s := if full then { s with reserves := s.reserves.erase (uopReserve s.cur) } else s
    g (s.modMe (fun k => { k with uops := k.uops ++ [{ groups := groups, cost := cost }] }))

/-- Writes a row result: flags, side bit, the tile's taint with the sources' (R136), pops; and retires. -/
def State.vwrite (s : State) (d : R7) (srcs : List VOp) (r : VRes) : State :=
  (s.modMe (fun k =>
    let p := tileTaint d.toNat
    let t := (k.taintOf p).union k.loads (k.opTaint srcs)
    (((k.orFlags r.flags).popOps srcs).setRow d.toNat r.row r.side).setTaint p t)).retire

/-! ## Operation tables -/

/-- Operations of R403 and R404. -/
inductive VfOp where
  | add | sub | mul | fma | fms | fnma | min | max | abs | neg | cps | div | sqrt | rsq | rcp | exp2 | log2 | tanh | sig
  deriving DecidableEq, Repr

/-- Whether an operation samples RMODE (R401). -/
def VfOp.rounds : VfOp → Bool
  | .min | .max | .abs | .neg | .cps | .exp2 | .log2 | .tanh | .sig => false
  | _ => true

def VfOp.ternary : VfOp → Bool
  | .fma | .fms | .fnma => true
  | _ => false

/-- One lane's result from a, b and d. -/
def VfOp.eval (op : VfOp) (m : RMode) (xs : List Nat) : Rounded :=
  let f := Fmt.f32
  let a := xs.getD 0 0
  let b := xs.getD 1 0
  let x := f.val a
  let y := f.val b
  let z := f.val (xs.getD 2 0)
  match op with
  | .add => f.round m (FVal.add m x y)
  | .sub => f.round m (FVal.sub m x y)
  | .mul => f.round m (x.mul y)
  | .fma => f.round m (FVal.fma m x y z)
  | .fms => f.round m (FVal.fma m x y z.negate)
  | .fnma => f.round m (FVal.fma m x.negate y z)
  | .min => f.minMax false a b
  | .max => f.minMax true a b
  | .abs => { bits := a % 2 ^ 31 }
  | .neg => { bits := a ^^^ 2 ^ 31 }
  | .cps => { bits := a % 2 ^ 31 + b / 2 ^ 31 * 2 ^ 31 }
  | .div => f.div m x y
  | .sqrt => f.sqrt m x
  | .rsq => f.rsqrt m x
  | .rcp => f.div m (.fin false 1 0) x
  | .exp2 => exp2R x
  | .log2 => log2R x
  | .tanh => tanhR x
  | .sig => sigR x

/-- A floating-point vector instruction over captured operands; the ternary forms read d as well. -/
def State.vfOp (s : State) (op : VfOp) (d : R7) (srcs : List VOp) (cost : Nat) : State :=
  let srcs := if op.ternary then srcs ++ [s.me.rowOp d] else srcs
  let go (s : State) (m : RMode) : State := s.vpush 4 cost (fun s => s.vwrite d srcs (vfp srcs (op.eval m)))
  if op.rounds then s.sampled (go s) else go s .rne

/-- An integer vector instruction over captured operands. -/
def State.viOp (s : State) (d : R7) (srcs : List VOp) (cost : Nat) (g : List Nat → Nat) : State :=
  s.vpush 4 cost (fun s => s.vwrite d srcs (vint srcs g))

/-- Both operands of a binary queue-sourced form: SW = 1 puts q first (R397). -/
def swap2 (w : BitVec 1) (a q : VOp) : List VOp := if w = 1 then [q, a] else [a, q]

def lane2 (op : LaneOp) (xs : List Nat) : Nat := op.eval (xs.getD 0 0) (xs.getD 1 0)
def laneAbs (xs : List Nat) : Nat := (sx 32 (xs.getD 0 0)).natAbs % 2 ^ 32
def lanePop (xs : List Nat) : Nat := popTo (xs.getD 0 0) 32
def uop (u : BitVec 1) (s n : LaneOp) : LaneOp := if u = 1 then n else s

/-- VCLMUL's row (R406). -/
def vclmulRow (a b : Row) : Row :=
  rowOfLanes ((List.range 32).flatMap (fun j =>
    let p := clmulTo (lane a (2 * j)) (lane b (2 * j)) 32
    [p % 2 ^ 32, p / 2 ^ 32]))

def State.vclmul (s : State) (d : R7) (srcs : List VOp) : State :=
  s.vpush 4 8 (fun s => s.vwrite d srcs
    { row := vclmulRow ((srcs.map (·.row)).getD 0 0) ((srcs.map (·.row)).getD 1 0), side := srcs.any (·.side), flags := 0 })

/-! ## Major 0x30 and 0x31 (R403, R404) -/

/-- VADD (R403). -/
def execVadd (d a b : R7) (st : State) : Res :=
  .next (st.vfOp .add d [st.me.rowOp a, st.me.rowOp b] 4)

/-- VSUB (R403). -/
def execVsub (d a b : R7) (st : State) : Res :=
  .next (st.vfOp .sub d [st.me.rowOp a, st.me.rowOp b] 4)

/-- VMUL (R403). -/
def execVmul (d a b : R7) (st : State) : Res :=
  .next (st.vfOp .mul d [st.me.rowOp a, st.me.rowOp b] 4)

/-- VFMA (R403). -/
def execVfma (d a b : R7) (st : State) : Res :=
  .next (st.vfOp .fma d [st.me.rowOp a, st.me.rowOp b] 4)

/-- VFMS (R403). -/
def execVfms (d a b : R7) (st : State) : Res :=
  .next (st.vfOp .fms d [st.me.rowOp a, st.me.rowOp b] 4)

/-- VFNMA (R403). -/
def execVfnma (d a b : R7) (st : State) : Res :=
  .next (st.vfOp .fnma d [st.me.rowOp a, st.me.rowOp b] 4)

/-- VMIN (R403). -/
def execVmin (d a b : R7) (st : State) : Res :=
  .next (st.vfOp .min d [st.me.rowOp a, st.me.rowOp b] 4)

/-- VMAX (R403). -/
def execVmax (d a b : R7) (st : State) : Res :=
  .next (st.vfOp .max d [st.me.rowOp a, st.me.rowOp b] 4)

/-- VABS (R403). -/
def execVabs (d a : R7) (st : State) : Res :=
  .next (st.vfOp .abs d [st.me.rowOp a] 4)

/-- VNEG (R403). -/
def execVneg (d a : R7) (st : State) : Res :=
  .next (st.vfOp .neg d [st.me.rowOp a] 4)

/-- VCPS (R403). -/
def execVcps (d a b : R7) (st : State) : Res :=
  .next (st.vfOp .cps d [st.me.rowOp a, st.me.rowOp b] 4)

/-- VDIV (R404). -/
def execVdiv (d a b : R7) (st : State) : Res :=
  .next (st.vfOp .div d [st.me.rowOp a, st.me.rowOp b] 32)

/-- VSQRT (R404). -/
def execVsqrt (d a : R7) (st : State) : Res :=
  .next (st.vfOp .sqrt d [st.me.rowOp a] 32)

/-- VRSQ (R404). -/
def execVrsq (d a : R7) (st : State) : Res :=
  .next (st.vfOp .rsq d [st.me.rowOp a] 16)

/-- VRCP (R404). -/
def execVrcp (d a : R7) (st : State) : Res :=
  .next (st.vfOp .rcp d [st.me.rowOp a] 16)

/-- VEXP2 (R404). -/
def execVexp2 (d a : R7) (st : State) : Res :=
  .next (st.vfOp .exp2 d [st.me.rowOp a] 16)

/-- VLOG2 (R404). -/
def execVlog2 (d a : R7) (st : State) : Res :=
  .next (st.vfOp .log2 d [st.me.rowOp a] 16)

/-- VTANH (R404). -/
def execVtanh (d a : R7) (st : State) : Res :=
  .next (st.vfOp .tanh d [st.me.rowOp a] 16)

/-- VSIG (R404). -/
def execVsig (d a : R7) (st : State) : Res :=
  .next (st.vfOp .sig d [st.me.rowOp a] 16)

/-! ## Majors 0x32 and 0x33 (R405, R406) -/

/-- VIADD (R405). -/
def execViadd (d a b : R7) (st : State) : Res :=
  .next (st.viOp d [st.me.rowOp a, st.me.rowOp b] 4 (lane2 .add))

/-- VISUB (R405). -/
def execVisub (d a b : R7) (st : State) : Res :=
  .next (st.viOp d [st.me.rowOp a, st.me.rowOp b] 4 (lane2 .sub))

/-- VIMUL (R405). -/
def execVimul (d a b : R7) (st : State) : Res :=
  .next (st.viOp d [st.me.rowOp a, st.me.rowOp b] 8 (lane2 .mul))

/-- VIMULH (R405). -/
def execVimulh (d a b : R7) (u : BitVec 1) (st : State) : Res :=
  .next (st.viOp d [st.me.rowOp a, st.me.rowOp b] 8 (lane2 (uop u .mulh .mulhu)))

/-- VIMIN (R405). -/
def execVimin (d a b : R7) (u : BitVec 1) (st : State) : Res :=
  .next (st.viOp d [st.me.rowOp a, st.me.rowOp b] 4 (lane2 (uop u .min .minu)))

/-- VIMAX (R405). -/
def execVimax (d a b : R7) (u : BitVec 1) (st : State) : Res :=
  .next (st.viOp d [st.me.rowOp a, st.me.rowOp b] 4 (lane2 (uop u .max .maxu)))

/-- VIABS (R405). -/
def execViabs (d a : R7) (st : State) : Res :=
  .next (st.viOp d [st.me.rowOp a] 4 laneAbs)

/-- VAND (R406). -/
def execVand (d a b : R7) (st : State) : Res :=
  .next (st.viOp d [st.me.rowOp a, st.me.rowOp b] 4 (lane2 .and))

/-- VOR (R406). -/
def execVor (d a b : R7) (st : State) : Res :=
  .next (st.viOp d [st.me.rowOp a, st.me.rowOp b] 4 (lane2 .or))

/-- VXOR (R406). -/
def execVxor (d a b : R7) (st : State) : Res :=
  .next (st.viOp d [st.me.rowOp a, st.me.rowOp b] 4 (lane2 .xor))

/-- VANDN (R406). -/
def execVandn (d a b : R7) (st : State) : Res :=
  .next (st.viOp d [st.me.rowOp a, st.me.rowOp b] 4 (lane2 .andn))

/-- VSHL (R406). -/
def execVshl (d a b : R7) (st : State) : Res :=
  .next (st.viOp d [st.me.rowOp a, st.me.rowOp b] 4 (lane2 .shl))

/-- VSHR (R406). -/
def execVshr (d a b : R7) (st : State) : Res :=
  .next (st.viOp d [st.me.rowOp a, st.me.rowOp b] 4 (lane2 .shr))

/-- VSRA (R406). -/
def execVsra (d a b : R7) (st : State) : Res :=
  .next (st.viOp d [st.me.rowOp a, st.me.rowOp b] 4 (lane2 .sra))

/-- VPOPC (R406). -/
def execVpopc (d a : R7) (st : State) : Res :=
  .next (st.viOp d [st.me.rowOp a] 4 lanePop)

/-- VCLMUL (R406). -/
def execVclmul (d a b : R7) (st : State) : Res :=
  .next (st.vclmul d [st.me.rowOp a, st.me.rowOp b])

/-! ## Major 0x34 (R407 to R409) -/

/-- A floating-point comparison (R407): a poison lane compares as a NaN. -/
def State.vcmpF (s : State) (cc : Nat) (d a b : R7) : State :=
  let x := s.me.rowOp a
  let y := s.me.rowOp b
  let rs := (List.range 64).map (fun i =>
    let p := x.fp i
    let q := y.fp i
    let r := fcmp .f32 cc (if p.2 then Fmt.f32.poison else p.1) (if q.2 then Fmt.f32.poison else q.1)
    (r.1, r.2, p.2 || q.2))
  s.vpush 4 4 (fun s => s.vwrite d [x, y]
    { row := rowOfLanes (rs.map (fun r => if r.1 then 2 ^ 32 - 1 else 0)), side := x.side || y.side || rs.any (·.2.2),
      flags := rs.foldl (fun f r => f ||| r.2.1) 0 })

/-- An integer comparison (R407). -/
def State.vcmpI (s : State) (d a b : R7) (c : Nat → Nat → Bool) : State :=
  s.viOp d [s.me.rowOp a, s.me.rowOp b] 4 (fun xs => if c (xs.getD 0 0) (xs.getD 1 0) then 2 ^ 32 - 1 else 0)

/-- VCMP.f32 eq (R407). -/
def execVcmpF32Eq (d a b : R7) (st : State) : Res :=
  .next (st.vcmpF 0 d a b)

/-- VCMP.f32 lt (R407). -/
def execVcmpF32Lt (d a b : R7) (st : State) : Res :=
  .next (st.vcmpF 1 d a b)

/-- VCMP.f32 le (R407). -/
def execVcmpF32Le (d a b : R7) (st : State) : Res :=
  .next (st.vcmpF 2 d a b)

/-- VCMP.f32 un (R407). -/
def execVcmpF32Un (d a b : R7) (st : State) : Res :=
  .next (st.vcmpF 3 d a b)

/-- VCMP.i32 eq (R407). -/
def execVcmpI32Eq (d a b : R7) (st : State) : Res :=
  .next (st.vcmpI d a b (fun x y => decide (x = y)))

/-- VCMP.i32 lt (R407). -/
def execVcmpI32Lt (d a b : R7) (st : State) : Res :=
  .next (st.vcmpI d a b (fun x y => decide (sx 32 x < sx 32 y)))

/-- VCMP.i32 le (R407). -/
def execVcmpI32Le (d a b : R7) (st : State) : Res :=
  .next (st.vcmpI d a b (fun x y => decide (sx 32 x ≤ sx 32 y)))

/-- VCMP.n32 lt (R407). -/
def execVcmpN32Lt (d a b : R7) (st : State) : Res :=
  .next (st.vcmpI d a b (fun x y => decide (x < y)))

/-- VCMP.n32 le (R407). -/
def execVcmpN32Le (d a b : R7) (st : State) : Res :=
  .next (st.vcmpI d a b (fun x y => decide (x ≤ y)))

/-- VSEL (R408): a poisoned mask traps POISON. -/
def execVsel (d a b : R7) (st : State) : Res :=
  let m := st.me.rowOp d
  let x := st.me.rowOp a
  let y := st.me.rowOp b
  .next (if m.side then st.poisoned m.code
    else
      let pick := (lanes m.row).map (fun v => v != 0)
      let ls := (pick.zip ((lanes x.row).zip (lanes y.row))).map (fun p => if p.1 then p.2.1 else p.2.2)
      st.vpush 4 4 (fun st => st.vwrite d [m, x, y]
        { row := rowOfLanes ls, side := (x.side && pick.any id) || (y.side && pick.any not), flags := 0 }))

/-- VMSK, expand (R409). -/
def execVmskExpand (d : R7) (a : R5) (st : State) : Res :=
  let x := st.me.splatOp a
  let v := (st.me.x a).toNat
  .next (st.vpush 4 4 (fun st => st.vwrite d [x]
    { row := rowOfLanes ((List.range 64).map (fun i => if v.testBit i then 2 ^ 32 - 1 else 0)), side := x.side, flags := 0 }))

/-- Writes a scalar result of a vector instruction. -/
def State.vwriteX (s : State) (d : R5) (o : VOp) (v : Nat) : State :=
  (s.modMe (fun k => k.setX d (BitVec.ofNat 64 v) o.side o.taint)).retire

/-- VMSK, pack (R409). -/
def execVmskPack (d : R5) (a : R7) (st : State) : Res :=
  let x := st.me.rowOp a
  let v := (List.range 64).foldl (fun acc i => if lane x.row i = 0 then acc else acc + 2 ^ i) 0
  .next (st.vpush 1 1 (fun st => st.vwriteX d x v))

/-! ## Major 0x35 (R410 to R413) -/

/-- Sixteen-bit element `i` of a row. -/
def half (r : Row) (i : Nat) : Nat := bitsOf r.toNat (16 * i) 16

/-- The row with `bs` placed from byte `ofs`. -/
def placeBytes (r : Row) (ofs : Nat) (bs : List Byte) : Row :=
  let old := rowBytes r
  rowOfBytes (old.take ofs ++ bs ++ old.drop (ofs + bs.length))

/-- VCVT over a captured operand (R410). `h` is the half, `cv` the conversion. -/
def State.vcvt (s : State) (d : R7) (x : VOp) (h cv : Nat) : State :=
  let go (s : State) (srcs : List VOp) (r : VRes) : State := s.vpush 4 4 (fun s => s.vwrite d srcs r)
  if cv < 2 then
    let t := if cv = 0 then Fmt.bf16 else Fmt.f16
    s.sampled (fun m =>
      let old := s.me.rowOp d
      let rs := (List.range 64).map (fun i =>
        let p := x.fp i
        if p.2 then ({ bits := t.poison, flags := 0 }, true) else (t.round m (Fmt.f32.val p.1), false))
      go s [x, old] { row := placeBytes old.row (128 * h) (natBytes 128 (packCodes 16 (rs.map (fun r => r.1.bits)))),
                      side := old.side || x.side || rs.any (·.2), flags := flagsOf (rs.map (·.1)) })
  else if cv < 4 then
    let t := if cv = 2 then Fmt.bf16 else Fmt.f16
    let rs := (List.range 64).map (fun i =>
      let v := half x.row (64 * h + i)
      if x.side || v == t.poison then ({ bits := Fmt.f32.poison, flags := 0 }, true)
      else (Fmt.f32.round .rne (t.val v), false))
    go s [x] { row := rowOfLanes (rs.map (fun r => r.1.bits)), side := x.side || rs.any (·.2),
               flags := flagsOf (rs.map (·.1)) }
  else if cv < 6 then
    s.sampled (fun m =>
      let (lo, hi) : Int × Int := if cv = 4 then (-(2 ^ 31), 2 ^ 31 - 1) else (0, 2 ^ 32 - 1)
      let rs := (List.range 64).map (fun i =>
        let p := x.fp i
        if p.2 then (0, (0 : Dword), true)
        else
          let (v, fl) := (Fmt.f32.val p.1).toRange m lo hi
          ((v % 2 ^ 32).toNat, fl, false))
      go s [x] { row := rowOfLanes (rs.map (·.1)), side := x.side || rs.any (fun r => r.2.2),
                 flags := rs.foldl (fun f r => f ||| r.2.1) 0 })
  else
    s.sampled (fun m =>
      let rs := (List.range 64).map (fun i =>
        let v := lane x.row i
        if x.side then { bits := Fmt.f32.poison, flags := 0 }
        else Fmt.f32.round m (FVal.ofInt (if cv = 6 then sx 32 v else (v : Int))))
      go s [x] { row := rowOfLanes (rs.map (·.bits)), side := x.side, flags := flagsOf rs })

/-- Runs `g` when F_K is valid and its packed row fits from byte 16 × OFS (R411); otherwise FORMAT. -/
def State.withPacked (s : State) (k o : Nat) (g : Narrow → State) : State :=
  match s.me.fmtReg k with
  | none => s.trapWith Cause.format k 0
  | some f => if 256 < 16 * o + f.rowBytes then s.trapWith Cause.format k (16 * o + f.rowBytes) else g f

/-- VQNT over a captured operand (R411): d is a source. -/
def State.vqnt (s : State) (d : R7) (x : VOp) (o k : Nat) : State :=
  s.withPacked k o (fun f => s.sampled (fun m =>
    let old := s.me.rowOp d
    let (bs, fl) := packRow f m x.side (f.elsOf x.row)
    s.vpush 4 8 (fun s => s.vwrite d [x, old]
      { row := placeBytes old.row (16 * o) (bs.map (·.1)), side := old.side || x.side || bs.any (·.2), flags := fl })))

/-- VDQNT over a captured operand (R412). -/
def State.vdqnt (s : State) (d : R7) (x : VOp) (o k : Nat) : State :=
  s.withPacked k o (fun f =>
    let bs := markBytes x.side (((rowBytes x.row).drop (16 * o)).take f.rowBytes)
    s.vpush 4 8 (fun s => s.vwrite d [x] { row := f.rowOf (unpackRow f bs), side := x.side, flags := 0 }))

/-- VAMAX over a captured operand (R413). -/
def State.vamax (s : State) (d : R7) (x : VOp) (b : BitVec 2) : State :=
  let n := 8 * 2 ^ b.toNat
  let blocks := (List.range (64 / n)).map (fun j =>
    let xs := (List.range n).map (fun i => x.fp (n * j + i))
    let vs := xs.map (fun p => Fmt.f32.val p.1)
    if xs.any (·.2) then (Fmt.f32.poison, (0 : Dword), true)
    else if vs.any (·.isNan) then (Fmt.f32.nan, if anySignals vs then Flag.nv else 0, false)
    else (xs.foldl (fun a p => max a (p.1 % 2 ^ 31)) 0, 0, false))
  s.vpush 4 4 (fun s => s.vwrite d [x]
    { row := rowOfLanes (blocks.flatMap (fun r => List.replicate n r.1)), side := x.side || blocks.any (fun r => r.2.2),
      flags := blocks.foldl (fun f r => f ||| r.2.1) 0 })

/-- VCVT (R410). -/
def execVcvt (d a : R7) (h : BitVec 1) (v : BitVec 3) (st : State) : Res :=
  .next (st.vcvt d (st.me.rowOp a) h.toNat v.toNat)

/-- VQNT (R411). -/
def execVqnt (d a : R7) (o : BitVec 4) (k : BitVec 3) (st : State) : Res :=
  .next (st.vqnt d (st.me.rowOp a) o.toNat k.toNat)

/-- VDQNT (R412). -/
def execVdqnt (d a : R7) (o : BitVec 4) (k : BitVec 3) (st : State) : Res :=
  .next (st.vdqnt d (st.me.rowOp a) o.toNat k.toNat)

/-- VAMAX (R413). -/
def execVamax (d a : R7) (b : BitVec 2) (st : State) : Res :=
  .next (st.vamax d (st.me.rowOp a) b)

/-! ## Major 0x36 (R414 to R416) -/

/-- The six-level tree of R308: neighbours are joined until one value is left. -/
def pairUp {α : Type} (g : α → α → α) : List α → List α
  | x :: y :: r => g x y :: pairUp g r
  | r => r

def treeOf {α : Type} (g : α → α → α) : Nat → List α → List α
  | 0, xs => xs
  | n + 1, xs => treeOf g n (pairUp g xs)

/-- A reduction of FP32 lanes into every lane (R415). -/
def State.vredF (s : State) (d : R7) (x : VOp) (g : Nat → Nat → Rounded) : State :=
  let xs := (List.range 64).map x.fp
  let p := xs.any (·.2)
  let r := (treeOf (fun (a b : Rounded) => let c := g a.bits b.bits; { c with flags := a.flags ||| b.flags ||| c.flags })
    6 (xs.map (fun v => { bits := v.1, flags := 0 }))).headD { bits := 0, flags := 0 }
  s.vpush 4 8 (fun s => s.vwrite d [x] (if p then { row := rowSplat Fmt.f32.poison, side := true, flags := 0 }
    else { row := rowSplat r.bits, side := x.side, flags := r.flags }))

/-- A reduction of integer lanes into every lane. -/
def State.vredI (s : State) (d : R7) (x : VOp) (op : LaneOp) : State :=
  let r := (treeOf op.eval 6 (lanes x.row)).headD 0
  s.vpush 4 8 (fun s => s.vwrite d [x] { row := rowSplat r, side := x.side, flags := 0 })

/-- The sum of two FP32 patterns, rounded. -/
def addF32 (m : RMode) (a b : Nat) : Rounded := Fmt.f32.round m (FVal.add m (Fmt.f32.val a) (Fmt.f32.val b))

/-- Running sums: the results so far, last first. -/
def scanF (m : RMode) : List Nat → List Rounded → List Rounded
  | [], acc => acc
  | x :: xs, acc =>
    match acc with
    | [] => scanF m xs [Fmt.f32.round m (Fmt.f32.val x)]
    | r :: _ => scanF m xs (addF32 m r.bits x :: acc)

def scanI : List Nat → List Nat → List Nat
  | [], acc => acc
  | x :: xs, acc => scanI xs ((acc.headD 0 + x) % 2 ^ 32 :: acc)

/-- The transpose of R416, block by block. -/
def transposed (k : Core) (a r : Nat) : Row :=
  rowOfLanes ((List.range 64).map (fun i => lane (k.row (16 * a + i % 16)) (16 * (i / 16) + r)))

/-- VSHUF (R414): a poisoned index row traps POISON. -/
def execVshuf (d a b : R7) (st : State) : Res :=
  let x := st.me.rowOp a
  let y := st.me.rowOp b
  .next (if y.side then st.poisoned y.code
    else st.vpush 4 8 (fun st => st.vwrite d [x, y]
      { row := rowOfLanes ((lanes y.row).map (fun i => lane x.row (i % 64))), side := x.side, flags := 0 }))

/-- VROT (R414). -/
def execVrot (d a : R7) (k : BitVec 6) (st : State) : Res :=
  let x := st.me.rowOp a
  .next (st.vpush 4 8 (fun st => st.vwrite d [x]
    { row := rowOfLanes ((List.range 64).map (fun i => lane x.row ((i + k.toNat) % 64))), side := x.side, flags := 0 }))

/-- VREDSUM (R415, R308). -/
def execVredsum (d a : R7) (y : BitVec 2) (st : State) : Res :=
  let x := st.me.rowOp a
  .next (if y = 0 then st.sampled (fun m => st.vredF d x (addF32 m)) else st.vredI d x .add)

/-- VREDMAX (R415). -/
def execVredmax (d a : R7) (y : BitVec 2) (st : State) : Res :=
  let x := st.me.rowOp a
  .next (if y = 0 then st.vredF d x (Fmt.f32.minMax true)
    else st.vredI d x (if y = 1 then .max else .maxu))

/-- VREDMIN (R415). -/
def execVredmin (d a : R7) (y : BitVec 2) (st : State) : Res :=
  let x := st.me.rowOp a
  .next (if y = 0 then st.vredF d x (Fmt.f32.minMax false)
    else st.vredI d x (if y = 1 then .min else .minu))

/-- VSCAN (R415). -/
def execVscan (d a : R7) (y : BitVec 2) (st : State) : Res :=
  let x := st.me.rowOp a
  .next (if y = 0 then
      st.sampled (fun m => st.vpush 4 16 (fun st =>
        let xs := (List.range 64).map x.fp
        let rs := (scanF m (xs.map (·.1)) []).reverse
        st.vwrite d [x] (if xs.any (·.2) then { row := rowSplat Fmt.f32.poison, side := true, flags := 0 }
          else { row := rowOfLanes (rs.map (·.bits)), side := x.side, flags := flagsOf rs })))
    else st.vpush 4 16 (fun st => st.vwrite d [x]
      { row := rowOfLanes (scanI (lanes x.row) []).reverse, side := x.side, flags := 0 }))

/-- VXPOSE (R416). -/
def execVxpose (d a : BitVec 3) (st : State) : Res :=
  .next (st.vpush 4 64 (fun st => (st.modMe (fun k =>
    let src := a.toNat
    let side := (List.range 16).any (fun r => k.rowSideOf (16 * src + r))
    let p := 32 + d.toNat
    let t := (k.taintOf p).union k.loads (k.taintOf (32 + src))
    let rows := (List.range 16).map (transposed k src)
    ((rows.zipIdx).foldl (fun k' e => k'.setRow (16 * d.toNat + e.2) e.1 side) k).setTaint p t)).retire))

/-! ## Major 0x37 (R417, R418) -/

/-- VCPY (R417). -/
def execVcpy (d a : R7) (st : State) : Res :=
  let x := st.me.rowOp a
  .next (st.vpush 4 4 (fun st => st.vwrite d [x] { row := x.row, side := x.side, flags := 0 }))

/-- VZERO (R417). -/
def execVzero (d : R7) (st : State) : Res :=
  .next (st.vpush 4 4 (fun st => st.vwrite d [] { row := 0, side := false, flags := 0 }))

/-- VBCAST (R417). -/
def execVbcast (d : R7) (a : R5) (w : BitVec 2) (st : State) : Res :=
  let x := st.me.splatOp a
  let n := 32 / 2 ^ w.toNat
  let v := lowBits n (st.me.x a)
  .next (st.vpush 4 4 (fun st => st.vwrite d [x]
    { row := BitVec.ofNat 2048 (packCodes n (List.replicate (2048 / n) v)), side := x.side, flags := 0 }))

/-- VEXT (R417). -/
def execVext (d : R5) (a : R7) (i : BitVec 6) (st : State) : Res :=
  let x := st.me.rowOp a
  .next (st.vpush 1 1 (fun st => st.vwriteX d x (lane x.row i.toNat)))

/-- VINS (R417): d is a source. -/
def execVins (d : R7) (a : R5) (i : BitVec 6) (st : State) : Res :=
  let x := st.me.splatOp a
  let old := st.me.rowOp d
  .next (st.vpush 1 1 (fun st => st.vwrite d [x, old]
    { row := placeBytes old.row (4 * i.toNat) (natBytes 4 (lane x.row 0)), side := x.side || old.side, flags := 0 }))

/-- VIOTA (R417). -/
def execViota (d : R7) (a : R5) (s : BitVec 7) (st : State) : Res :=
  let x := st.me.splatOp a
  .next (st.vpush 4 4 (fun st => st.vwrite d [x]
    { row := rowOfLanes ((List.range 64).map (fun i => (((lane x.row 0 : Int) + i * s.toInt) % 2 ^ 32).toNat)),
      side := x.side, flags := 0 }))

/-- VSQ (R418): stalls while its SQ is full. -/
def execVsq (k : BitVec 1) (a : R7) (st : State) : Res :=
  let x := st.me.rowOp a
  .next (st.queueRoom (4 + k.toNat) (fun st => st.vpush 2 4 (fun st =>
    (st.modMe (fun c => c.pushRow (4 + k.toNat) x.row x.side x.taint)).retire)))

end Sys2Proof.Machine
end

