-- ==== Sys2Proof/Machine/VectorQ.lean ====
section
/-! DEFINITION. Queue-sourced vector forms: majors 0x38 to 0x3B (R397). -/

namespace Sys2Proof.Machine

/-- VADD, queue-sourced (R397, R403). -/
def execVaddQ (d a : R7) (q : R5) (w : BitVec 1) (st : State) : Res :=
  .next (st.qOp q (fun x => st.vfOp .add d (swap2 w (st.me.rowOp a) x) 4))

/-- VSUB, queue-sourced (R397, R403). -/
def execVsubQ (d a : R7) (q : R5) (w : BitVec 1) (st : State) : Res :=
  .next (st.qOp q (fun x => st.vfOp .sub d (swap2 w (st.me.rowOp a) x) 4))

/-- VMUL, queue-sourced (R397, R403). -/
def execVmulQ (d a : R7) (q : R5) (w : BitVec 1) (st : State) : Res :=
  .next (st.qOp q (fun x => st.vfOp .mul d (swap2 w (st.me.rowOp a) x) 4))

/-- VMIN, queue-sourced (R397, R403). -/
def execVminQ (d a : R7) (q : R5) (w : BitVec 1) (st : State) : Res :=
  .next (st.qOp q (fun x => st.vfOp .min d (swap2 w (st.me.rowOp a) x) 4))

/-- VMAX, queue-sourced (R397, R403). -/
def execVmaxQ (d a : R7) (q : R5) (w : BitVec 1) (st : State) : Res :=
  .next (st.qOp q (fun x => st.vfOp .max d (swap2 w (st.me.rowOp a) x) 4))

/-- VCPS, queue-sourced (R397, R403). -/
def execVcpsQ (d a : R7) (q : R5) (w : BitVec 1) (st : State) : Res :=
  .next (st.qOp q (fun x => st.vfOp .cps d (swap2 w (st.me.rowOp a) x) 4))

/-- VFMA, queue-sourced (R397, R403). -/
def execVfmaQ (d a : R7) (q : R5) (st : State) : Res :=
  .next (st.qOp q (fun x => st.vfOp .fma d [st.me.rowOp a, x] 4))

/-- VFMS, queue-sourced (R397, R403). -/
def execVfmsQ (d a : R7) (q : R5) (st : State) : Res :=
  .next (st.qOp q (fun x => st.vfOp .fms d [st.me.rowOp a, x] 4))

/-- VFNMA, queue-sourced (R397, R403). -/
def execVfnmaQ (d a : R7) (q : R5) (st : State) : Res :=
  .next (st.qOp q (fun x => st.vfOp .fnma d [st.me.rowOp a, x] 4))

/-- VABS, queue-sourced (R397, R403). -/
def execVabsQ (d : R7) (q : R5) (st : State) : Res :=
  .next (st.qOp q (fun x => st.vfOp .abs d [x] 4))

/-- VNEG, queue-sourced (R397, R403). -/
def execVnegQ (d : R7) (q : R5) (st : State) : Res :=
  .next (st.qOp q (fun x => st.vfOp .neg d [x] 4))

/-- VIADD, queue-sourced (R397, R405). -/
def execViaddQ (d a : R7) (q : R5) (w : BitVec 1) (st : State) : Res :=
  .next (st.qOp q (fun x => st.viOp d (swap2 w (st.me.rowOp a) x) 4 (lane2 .add)))

/-- VISUB, queue-sourced (R397, R405). -/
def execVisubQ (d a : R7) (q : R5) (w : BitVec 1) (st : State) : Res :=
  .next (st.qOp q (fun x => st.viOp d (swap2 w (st.me.rowOp a) x) 4 (lane2 .sub)))

/-- VIMUL, queue-sourced (R397, R405). -/
def execVimulQ (d a : R7) (q : R5) (w : BitVec 1) (st : State) : Res :=
  .next (st.qOp q (fun x => st.viOp d (swap2 w (st.me.rowOp a) x) 8 (lane2 .mul)))

/-- VIMULH, queue-sourced (R397, R405). -/
def execVimulhQ (d a : R7) (q : R5) (w : BitVec 1) (u : BitVec 1) (st : State) : Res :=
  .next (st.qOp q (fun x => st.viOp d (swap2 w (st.me.rowOp a) x) 8 (lane2 (uop u .mulh .mulhu))))

/-- VIMIN, queue-sourced (R397, R405). -/
def execViminQ (d a : R7) (q : R5) (w : BitVec 1) (u : BitVec 1) (st : State) : Res :=
  .next (st.qOp q (fun x => st.viOp d (swap2 w (st.me.rowOp a) x) 4 (lane2 (uop u .min .minu))))

/-- VIMAX, queue-sourced (R397, R405). -/
def execVimaxQ (d a : R7) (q : R5) (w : BitVec 1) (u : BitVec 1) (st : State) : Res :=
  .next (st.qOp q (fun x => st.viOp d (swap2 w (st.me.rowOp a) x) 4 (lane2 (uop u .max .maxu))))

/-- VIABS, queue-sourced (R397, R405). -/
def execViabsQ (d : R7) (q : R5) (st : State) : Res :=
  .next (st.qOp q (fun x => st.viOp d [x] 4 laneAbs))

/-- VAND, queue-sourced (R397, R406). -/
def execVandQ (d a : R7) (q : R5) (w : BitVec 1) (st : State) : Res :=
  .next (st.qOp q (fun x => st.viOp d (swap2 w (st.me.rowOp a) x) 4 (lane2 .and)))

/-- VOR, queue-sourced (R397, R406). -/
def execVorQ (d a : R7) (q : R5) (w : BitVec 1) (st : State) : Res :=
  .next (st.qOp q (fun x => st.viOp d (swap2 w (st.me.rowOp a) x) 4 (lane2 .or)))

/-- VXOR, queue-sourced (R397, R406). -/
def execVxorQ (d a : R7) (q : R5) (w : BitVec 1) (st : State) : Res :=
  .next (st.qOp q (fun x => st.viOp d (swap2 w (st.me.rowOp a) x) 4 (lane2 .xor)))

/-- VANDN, queue-sourced (R397, R406). -/
def execVandnQ (d a : R7) (q : R5) (w : BitVec 1) (st : State) : Res :=
  .next (st.qOp q (fun x => st.viOp d (swap2 w (st.me.rowOp a) x) 4 (lane2 .andn)))

/-- VSHL, queue-sourced (R397, R406). -/
def execVshlQ (d a : R7) (q : R5) (w : BitVec 1) (st : State) : Res :=
  .next (st.qOp q (fun x => st.viOp d (swap2 w (st.me.rowOp a) x) 4 (lane2 .shl)))

/-- VSHR, queue-sourced (R397, R406). -/
def execVshrQ (d a : R7) (q : R5) (w : BitVec 1) (st : State) : Res :=
  .next (st.qOp q (fun x => st.viOp d (swap2 w (st.me.rowOp a) x) 4 (lane2 .shr)))

/-- VSRA, queue-sourced (R397, R406). -/
def execVsraQ (d a : R7) (q : R5) (w : BitVec 1) (st : State) : Res :=
  .next (st.qOp q (fun x => st.viOp d (swap2 w (st.me.rowOp a) x) 4 (lane2 .sra)))

/-- VPOPC, queue-sourced (R397, R406). -/
def execVpopcQ (d : R7) (q : R5) (st : State) : Res :=
  .next (st.qOp q (fun x => st.viOp d [x] 4 lanePop))

/-- VCLMUL, queue-sourced (R397, R406). -/
def execVclmulQ (d a : R7) (q : R5) (w : BitVec 1) (st : State) : Res :=
  .next (st.qOp q (fun x => st.vclmul d (swap2 w (st.me.rowOp a) x)))

/-- VCVT, queue-sourced (R397, R410). -/
def execVcvtQ (d : R7) (h : BitVec 1) (v : BitVec 3) (q : R5) (st : State) : Res :=
  .next (st.qOp q (fun x => st.vcvt d x h.toNat v.toNat))

/-- VQNT, queue-sourced (R397, R411). -/
def execVqntQ (d : R7) (o : BitVec 4) (k : BitVec 3) (q : R5) (st : State) : Res :=
  .next (st.qOp q (fun x => st.vqnt d x o.toNat k.toNat))

/-- VDQNT, queue-sourced (R397, R412). -/
def execVdqntQ (d : R7) (o : BitVec 4) (k : BitVec 3) (q : R5) (st : State) : Res :=
  .next (st.qOp q (fun x => st.vdqnt d x o.toNat k.toNat))

/-- VAMAX, queue-sourced (R397, R413). -/
def execVamaxQ (d : R7) (b : BitVec 2) (q : R5) (st : State) : Res :=
  .next (st.qOp q (fun x => st.vamax d x b))

end Sys2Proof.Machine
end

