-- ==== Sys2Proof/Machine/Matrix.lean ====
section
/-! DEFINITION. Matrix instructions on the joint array: majors 0x3C and 0x3D, the start of a gang operation, its
trailing checks and its time-out (R420 to R436, R190, R230). -/

namespace Sys2Proof.Machine

/-! ## Shape records (R422) -/

/-- The operand part of a shape record. -/
structure ShapeRec where
  rows : Nat
  cols : Nat
  fmt : Nat
  fn : Nat
  byCols : Bool
  sparse : Bool
  deriving DecidableEq, Repr

def ShapeRec.of (x : Nat) : ShapeRec :=
  { rows := bitsOf x 0 6 + 1, cols := bitsOf x 6 6 + 1, fmt := bitsOf x 16 3, fn := bitsOf x 19 3,
    byCols := x.testBit 22, sparse := x.testBit 23 }

/-- The epilogue part. -/
structure EpiRec where
  ostr : Nat
  orm : Nat
  fk : Nat
  out : Nat
  act : Nat
  be : Bool
  bt : Nat
  deriving DecidableEq, Repr

def EpiRec.of (x : Nat) : EpiRec :=
  { ostr := bitsOf x 84 12, orm := bitsOf x 81 3, fk := bitsOf x 78 3, out := bitsOf x 75 3, act := bitsOf x 72 3,
    be := x.testBit 71, bt := bitsOf x 64 7 }

/-- Whether MSHP accepts a value (R422): no zero field set and no reserved value. -/
def shapeOk (x : Nat) : Bool :=
  let r := ShapeRec.of x
  let e := EpiRec.of x
  bitsOf x 12 4 == 0 && bitsOf x 24 40 == 0 && bitsOf x 96 32 == 0 && decide (r.fmt ≤ 3) && decide (e.out ≤ 3)
    && decide (e.act ≤ 3) && e.orm != 6 && !(r.fmt == 3 && r.fn == 0) && !(e.out == 3 && e.fk == 0)

def Core.shape (k : Core) (i : Nat) : BitVec 128 := Map.get 0 k.arch.shapes i

/-! ## Accumulators -/

/-- The core's own row `r` of accumulator `a`. -/
def Core.acc (k : Core) (a r : Nat) : Row := Map.get 0 k.arch.accs (16 * a + r)
def Core.setAcc (k : Core) (a r : Nat) (v : Row) : Core :=
  { k with arch := { k.arch with accs := Map.set 0 k.arch.accs (16 * a + r) v } }

/-! ## Gang operations: forms -/

/-- The four gang operations in the order of their minors. -/
def formMma : Nat := 0
def formMma64 : Nat := 1
def formMmac : Nat := 2
def formMmas : Nat := 3

/-- The accumulators a form writes. -/
def GangIssue.accs (g : GangIssue) : List Nat :=
  if g.form = formMma64 ∨ g.form = formMmac then [g.acc, g.acc + 1] else [g.acc]

/-- The narrow format a record names, if any. -/
def Core.recFmt (k : Core) (r : ShapeRec) : Option Narrow :=
  if r.fmt = 3 then some (Narrow.ofReg (Map.get 0 k.arch.fmts r.fn)) else none

/-- The format registers that two records name. -/
def namedFmts (a b : ShapeRec) : List Nat :=
  (List.range 8).filter (fun n => (a.fmt == 3 && a.fn == n) || (b.fmt == 3 && b.fn == n))

/-- Whether a narrow operand's length along k suits its format (R424). -/
def narrowFits (nf : Option Narrow) (k : Nat) : Bool :=
  match nf with
  | none => true
  | some f => if f.blk = 0 then k * f.w % 8 == 0 else k % f.blk == 0

/-- Whether two records suit a form (R424). -/
def formSuits (form : Nat) (a b : ShapeRec) (nfa nfb : Option Narrow) : Bool :=
  let same16 := decide (a.fmt ≤ 1) && a.fmt == b.fmt
  if form = formMma then
    !a.sparse && !b.sparse && a.fmt != 2 && b.fmt != 2 && (a.fmt == 3 || same16)
      && !(a.fmt == 3 && a.byCols) && !(b.fmt == 3 && !b.byCols)
      && narrowFits nfa a.cols && narrowFits nfb a.cols
  else if form = formMma64 then !a.sparse && !b.sparse && a.fmt == 2 && b.fmt == 2
  else if form = formMmac then !a.sparse && !b.sparse && same16
  else a.sparse && !a.byCols && !b.sparse && same16 && a.cols % 4 == 0

/-- An operand's bytes before rounding up (R425). -/
def operandBytes (form : Nat) (isA : Bool) (r : ShapeRec) (nf : Option Narrow) : Nat :=
  let n := r.rows * r.cols
  match nf with
  | some f =>
    let (ls, len) := if r.byCols then (r.cols, r.rows) else (r.rows, r.cols)
    if f.blk = 0 then ls * len * f.w / 8 else ls * (len / f.blk) * (1 + f.blk * f.w / 8)
  | none =>
    if form = formMma64 then 8 * n
    else if form = formMmac then 4 * n
    else if form = formMmas ∧ isA then n
    else 2 * n

/-- Rounded up to a multiple of 32. -/
def streamBytes (form : Nat) (isA : Bool) (r : ShapeRec) (nf : Option Narrow) : Nat :=
  (operandBytes form isA r nf + 31) / 32 * 32

/-! ## Operand streams -/

/-- An element: its value with its block scale, whether it is poison (R430), and whether metadata prune its place
(R308, R433). -/
structure El where
  v : FVal
  p : Bool
  pruned : Bool := false
  deriving DecidableEq, Repr

def El.zero : El := { v := .fin false 0 0, p := false }

/-- An element of a binary format. -/
def El.of (f : Fmt) (bs : PBytes) : El :=
  let x := bytesNat (bs.map (·.1))
  { v := f.val x, p := bs.any (·.2) || x == f.poison }

/-- One line of a narrow operand: inline blocks along k (R54, R301). -/
def narrowLine (f : Narrow) (len : Nat) (bs : PBytes) : List El :=
  let run (n scale : Nat) (sp : Bool) (bs : PBytes) : List El :=
    let x := bytesNat (bs.map (·.1))
    (List.range n).map (fun i =>
      let lo := i * f.w / 8
      let hi := (i * f.w + f.w - 1) / 8
      let p := sp || ((bs.drop lo).take (hi + 1 - lo)).any (·.2)
      let v := if scale = 255 then FVal.nan false
        else match f.val (bitsOf x (i * f.w) f.w) with
          | .fin n m e => .fin n m (e + scale - 127)
          | v => v
      { v := v, p := p })
  if f.blk = 0 then run len 127 false bs
  else
    let per := 1 + f.blk * f.w / 8
    (List.range (len / f.blk)).flatMap (fun b =>
      match (bs.drop (b * per)).take per with
      | (s, p) :: body => run f.blk s.toNat p body
      | [] => [])

/-- A list of rows from a list of columns, `n` rows long. -/
def transpose {α : Type} (d : α) (n : Nat) (cols : List (List α)) : List (List α) :=
  (List.range n).map (fun i => cols.map (fun c => c.getD i d))

/-- An operand as lines along k: the rows of A, the columns of B. Each element is a pair, whose second part only MMAC
uses. `alongRows`: k runs along the record's rows of elements (A), not along its columns (B). -/
def operandLines (form : Nat) (isA : Bool) (r : ShapeRec) (nf : Option Narrow) (bs : PBytes) :
    List (List (El × El)) :=
  let zero : El × El := (El.zero, El.zero)
  let cols := if form = formMmas ∧ isA then r.cols / 2 else r.cols
  let n := r.rows * cols
  match nf with
  | some f =>
    -- A's lines are its rows and B's its columns (R424)
    let (ls, len) := if r.byCols then (r.cols, r.rows) else (r.rows, r.cols)
    let per := if f.blk = 0 then len * f.w / 8 else len / f.blk * (1 + f.blk * f.w / 8)
    (List.range ls).map (fun i => (narrowLine f len ((bs.drop (i * per)).take per)).map (·, El.zero))
  | none =>
    let f := if r.fmt = 2 then Fmt.f64 else if r.fmt = 1 then Fmt.f16 else Fmt.bf16
    let w := if r.fmt = 2 then 8 else 2
    let flat : List (El × El) :=
      if form = formMmac then
        (chunks 4 n bs).map (fun c => (El.of f (c.take 2), El.of f (c.drop 2)))
      else (chunks w n bs).map (fun c => (El.of f c, El.zero))
    let flat := flat.take n
    if r.byCols then
      let cs := chunks r.rows cols flat
      if isA then transpose zero r.rows cs else cs
    else
      let rs := chunks cols r.rows flat
      if isA then rs else transpose zero cols rs

/-- A pruned position's element. -/
def El.gap : El := { El.zero with pruned := true }

/-- A sparse row spread over its dense positions by a metadata dword (R433). -/
def denseLine (meta' : Dword) (k : Nat) (line : List (El × El)) : List (El × El) :=
  let zero : El × El := (El.zero, El.zero)
  (List.range k).map (fun i =>
    let g := i / 4
    let p0 := bitsOf meta'.toNat (4 * g) 2
    let p1 := bitsOf meta'.toNat (4 * g + 2) 2
    if i % 4 = p0 then line.getD (2 * g) zero
    else if i % 4 = p1 then line.getD (2 * g + 1) zero
    else (El.gap, El.zero))

/-! ## The multiply-accumulate forms (R430, R308) -/

/-- One rounded accumulation: `x` plus an exact sum of products; poison dominates. -/
def accumulate (f : Fmt) (x : Nat) (poison : Bool) (products : List FVal) : Nat × Dword :=
  if poison || x == f.poison then (f.poison, 0)
  else
    let r := f.round .rne (FVal.sum .rne (f.val x :: products))
    (r.bits, r.flags)

/-- The products of one group of k, and whether one is poison. A pruned position contributes an exact zero whatever the
other operand holds there (R308), a positive one (notes/assumptions/64.md). -/
def groupProducts (as bs : List (El × El)) : Bool × List FVal :=
  let ps := as.zip bs
  (ps.any (fun e => !e.1.1.pruned && (e.1.1.p || e.2.1.p)),
    ps.map (fun e => if e.1.1.pruned then El.zero.v else e.1.1.v.mul e.2.1.v))

/-- An element of the result: the words for the first and the second accumulator, and the flags. -/
def gangCell (form grp : Nat) (lo hi : Nat) (a b : List (El × El)) : Nat × Nat × Dword :=
  if form = formMma64 then
    let r := (a.zip b).foldl (fun (acc : Nat × Dword) e =>
      let s := accumulate Fmt.f64 acc.1 (e.1.1.p || e.2.1.p) [e.1.1.v.mul e.2.1.v]
      (s.1, acc.2 ||| s.2)) (lo + hi * 2 ^ 32, 0)
    (r.1 % 2 ^ 32, r.1 / 2 ^ 32, r.2)
  else if form = formMmac then
    (a.zip b).foldl (fun (acc : Nat × Nat × Dword) e =>
      let p := e.1.1.p || e.1.2.p || e.2.1.p || e.2.2.p
      let re := accumulate Fmt.f32 acc.1 p [e.1.1.v.mul e.2.1.v, (e.1.2.v.mul e.2.2.v).negate]
      let im := accumulate Fmt.f32 acc.2.1 p [e.1.2.v.mul e.2.1.v, e.1.1.v.mul e.2.2.v]
      (re.1, im.1, acc.2.2 ||| re.2 ||| im.2)) (lo, hi, 0)
  else
    let r := ((chunks grp a.length a).zip (chunks grp b.length b)).foldl (fun (acc : Nat × Dword) e =>
      let g := groupProducts e.1 e.2
      let s := accumulate Fmt.f32 acc.1 g.1 g.2
      (s.1, acc.2 ||| s.2)) (lo, 0)
    (r.1, hi, r.2)

/-- A row of the result over the columns of B; elements beyond them are unchanged. -/
def gangRow (form grp : Nat) (z : Bool) (lo hi : Row) (a : List (El × El)) (bs : List (List (El × El))) :
    Row × Row × Dword :=
  let cells := bs.mapIdx (fun j b =>
    gangCell form grp (if z then 0 else lane lo j) (if z then 0 else lane hi j) a b)
  let rest (r : Row) := (lanes r).drop bs.length
  (rowOfLanes (cells.map (·.1) ++ rest lo), rowOfLanes (cells.map (·.2.1) ++ rest hi),
    cells.foldl (fun f c => f ||| c.2.2) 0)

/-- NV, OF and NX, the flags a gang operation sets. -/
def gangFlags : Dword := Flag.nv ||| Flag.ov ||| Flag.nx

/-! ## Operand FIFOs (R425, R205) -/

def Square.fifo (q : Square) (i : Nat) : Fifo := Map.get Fifo.reset q.fifos i
def Square.setFifo (q : Square) (i : Nat) (f : Fifo) : Square := { q with fifos := Map.set Fifo.reset q.fifos i f }

/-- The first `n` bytes with their poison. -/
def Fifo.head (f : Fifo) (n : Nat) : PBytes := withGranules (f.bytes.take n) (f.pois.take (n / 32))

/-- A FIFO after a pop; a revocable superstep keeps what is popped. -/
def Fifo.pop (f : Fifo) (keep : Bool) (n : Nat) : Fifo :=
  { f with bytes := f.bytes.drop n, pois := f.pois.drop (n / 32),
           keptBytes := if keep then f.keptBytes ++ f.bytes.take n else f.keptBytes,
           keptPois := if keep then f.keptPois ++ f.pois.take (n / 32) else f.keptPois }

/-- CPYFI commands to a FIFO outstanding in a square. -/
def State.fillsOf (s : State) (sq i : Nat) : Nat :=
  ((List.range 4).map (fun c => ((s.core (4 * sq + c)).cmds.filter (fun x => match x.word with
    | .cpyfi f .. => f == i
    | _ => false)).length)).foldl (· + ·) 0

/-! ## The start of a gang operation (R423, R426, R428, R429) -/

/-- The cores of a square that have issued a gang operation. -/
def State.gangIssued (s : State) (sq : Nat) : List (Nat × GangIssue) :=
  (coresOf sq).filterMap (fun c => (s.core c).gangWait.map (fun g => (c, g)))

/-- The shape records a core's gang operation names. -/
def Core.gangRecs (k : Core) (g : GangIssue) : Nat × Nat := ((k.shape g.shape).toNat, (k.shape g.mb).toNat)

/-- A core's own operation without its armed flag, with its records and named format registers: what must agree. -/
def Core.gangKey (k : Core) (g : GangIssue) : GangIssue × Nat × Nat × List Dword :=
  let (a, b) := k.gangRecs g
  ({ g with armed := true }, a, b,
    (namedFmts (ShapeRec.of a) (ShapeRec.of b)).map (fun n => Map.get 0 k.arch.fmts n))

/-- Traps in every core that has issued, once each may trap (R270): `fs` none gives each its record numbers. The
square's request for tempo goes with the operation (R230). -/
def State.gangTrap (s : State) (sq code fa : Nat) (fs : Option Nat) : State :=
  let ws := s.gangIssued sq
  if ws.any (fun w => (s.core w.1).loadsOut) then s
  else
    ws.foldl (fun s w =>
      let s := s.modCore w.1 (fun k => { k with gangWait := none })
      s.trapOn w.1 (trapAt code fa (fs.getD (w.2.shape + 8 * w.2.mb)))) (s.forgetTempo sq)

/-- The check of R423 on four issued operations: cause, FADDR, FSTART. -/
def State.gangCheck (s : State) (ws : List (Nat × GangIssue)) : Option (Nat × Nat × Option Nat) :=
  match ws with
  | [] => none
  | (c, g) :: rest =>
    let k := s.core c
    let (xa, xb) := k.gangRecs g
    let a := ShapeRec.of xa
    let b := ShapeRec.of xb
    let nfa := k.recFmt a
    let nfb := k.recFmt b
    let bad (n : Nat) : Bool :=
      let f := Narrow.ofReg (Map.get 0 k.arch.fmts n)
      !f.valid || f.split
    if ws.any (fun w => !w.2.armed) then some (Cause.shape, 4, none)
    else if rest.any (fun w => (s.core w.1).gangKey w.2 != k.gangKey g) then some (Cause.shape, 3, none)
    else match (namedFmts a b).find? bad with
      | some n => some (Cause.format, n, some 0)
      | none =>
        if !formSuits g.form a b nfa nfb then some (Cause.shape, 2, none)
        else if a.cols ≠ b.rows then some (Cause.shape, 1, none)
        else if g.form = formMmas ∧ ws.any (fun w => !Map.has (s.core w.1).arch.metas g.sel) then
          some (Cause.shape, 6, none)
        else none

/-- The FIFO bytes an operation needs, by FIFO; one FIFO's two operands together (R426). -/
def gangNeeds (g : GangIssue) (na nb : Nat) : List (Nat × Nat) :=
  if g.fifoA = g.fifoB then [(g.fifoA, na + nb)] else [(g.fifoA, na), (g.fifoB, nb)]

/-- Squares that wait for a column's tempo, in request order. -/
def State.tempoWaiters (s : State) (col : Nat) : List Nat :=
  s.tempoQueue.filter (fun q => columnOf q == col && decide ((s.gangIssued q).length = 4))

/-- Tempo tokens of an operation (R230). -/
def gangTokens (g : GangIssue) (m n k : Nat) : Nat :=
  (m * n * (if g.form = formMmac then 4 * k else k) + 4095) / 4096

/-- The operation runs: bytes popped, rows written, each core's instruction past its word; its checks trail (R434). -/
def State.gangRun (s : State) (sq : Nat) (g : GangIssue) (a b : ShapeRec) (nfa nfb : Option Narrow) : State :=
  let q := s.square sq
  let na := streamBytes g.form true a nfa
  let nb := streamBytes g.form false b nfb
  let fa := q.fifo g.fifoA
  let bytesA := fa.head na
  let q := q.setFifo g.fifoA (fa.pop q.revocable na)
  let fb := q.fifo g.fifoB
  let bytesB := fb.head nb
  let q := q.setFifo g.fifoB (fb.pop q.revocable nb)
  let rowsA := operandLines g.form true a nfa bytesA
  let colsB := operandLines g.form false b nfb bytesB
  let grp := if nfa.isSome || nfb.isSome then 8 else 4
  let lo := g.acc
  let hi := if g.form = formMma64 ∨ g.form = formMmac then g.acc + 1 else g.acc
  let runCore (acc : State × Map Row × List Dword) (c : Nat) : State × Map Row × List Dword :=
    let k := s.core (4 * sq + c)
    let meta' := Map.get [] k.arch.metas g.sel
    let (k', old, fl) := (List.range (min 16 (a.rows - 16 * c))).foldl (fun (st : Core × Map Row × Dword) r =>
      let line := rowsA.getD (16 * c + r) []
      let line := if g.form = formMmas then denseLine (meta'.getD r 0) a.cols line else line
      let (x, y, f) := gangRow g.form grp g.zero (k.acc lo r) (k.acc hi r) line colsB
      let old := Map.put (Map.put st.2.1 (1024 * c + 16 * hi + r) (k.acc hi r)) (1024 * c + 16 * lo + r) (k.acc lo r)
      let k' := if hi = lo then st.1.setAcc lo r x else (st.1.setAcc lo r x).setAcc hi r y
      (k', old, st.2.2 ||| f)) (k, acc.2.1, 0)
    (acc.1.setCore (4 * sq + c) ({ k' with gangWait := none }).retire, old, acc.2.2 ++ [fl &&& gangFlags])
  let op (old : Map Row) (fl : List Dword) : GangOp :=
    { op := g, pcs := (coresOf sq).map (fun c => ((s.core c).arch.pc, (s.core c).arch.seq0)),
      marks := (coresOf sq).map (fun c => (s.core c).serial), old := old, flags := fl, replays := 0, epilogue := false }
  let s := s.setSquare sq q
  let (s, old, fl) := (List.range 4).foldl runCore (s, [], [])
  s.modSquare sq (fun q => { q with gang := some (op old fl), tempoAsked := false })

/-- Starts the gang operation that the square's cores have issued, if it may start; traps, or waits (R423, R426,
R428, R429). `late`: the FIFO time-out has passed. -/
def State.gangStart (s : State) (sq : Nat) (late : Bool) : State :=
  let ws := s.gangIssued sq
  match ws with
  | [] => s
  | (c, g) :: _ =>
    match s.launchOf c with
    | none => s
    | some (_, _, l) =>
      let gone := (List.range l.count).any (fun t => squareOf (l.pcore t) == sq && (l.task t).ended)
      if gone then s.gangTrap sq Cause.shape (if ws.any (fun w => !w.2.armed) then 4 else 5) none
      else if ws.length < 4 || (coresOf sq).any (fun c => (s.core c).level != 0) || (s.square sq).gang.isSome then s
      else match s.gangCheck ws with
        | some (code, fa, fs) => s.gangTrap sq code fa fs
        | none =>
          let k := s.core c
          let (xa, xb) := k.gangRecs g
          let a := ShapeRec.of xa
          let b := ShapeRec.of xb
          let nfa := k.recFmt a
          let nfb := k.recFmt b
          let needs := gangNeeds g (streamBytes g.form true a nfa) (streamBytes g.form false b nfb)
          let held (i : Nat) := ((s.square sq).fifo i).bytes.length
          match needs.find? (fun e => decide (Config.fifoBytes < e.2)) with
          | some (i, n) => s.gangTrap sq Cause.fifo i (some (n - Config.fifoBytes))
          | none =>
            match needs.find? (fun e => decide (held e.1 < e.2) && late && s.fillsOf sq e.1 == 0) with
            | some (i, n) => s.gangTrap sq Cause.fifo i (some (n - held i))
            | none =>
              if needs.any (fun e => decide (held e.1 < e.2)) then s
              else
                let col := columnOf sq
                let s := if (s.square sq).tempoAsked then s
                  else { s.modSquare sq (fun q => { q with tempoAsked := true }) with tempoQueue := s.tempoQueue ++ [sq] }
                let tokens := gangTokens g a.rows b.cols a.cols
                if (s.tempoWaiters col).head? = some sq ∧ 1000 * tokens ≤ (s.column col).milli then
                  let s := s.modColumn col (fun k => { k with milli := k.milli - 1000 * tokens })
                  ({ s with tempoQueue := s.tempoQueue.filter (· != sq) }).gangRun sq g a b nfa nfb
                else s

/-- A waiting gang operation as though it had not issued: a stop falls before it (R429). -/
def Core.withdrawGang (k : Core) : Core :=
  match k.gangWait with
  | some g => { k with armed := g.armed, gangWait := none }
  | none => k

/-! ## Instructions -/

/-- Matrix instructions need a launch with G = 1 (R190). -/
def State.onMatrix (s : State) (g : State → State) : State :=
  match s.launchOf s.cur with
  | some (_, _, l) => if l.gang then g s else s.illegal
  | none => s.illegal

/-- The core waits for the gang operation that it has issued, which starts if it may. -/
def State.gangAwait (s : State) : State :=
  let s := s.gangStart (squareOf s.cur) false
  if s.me.gangWait.isSome then s.wait else s

/-- A gang operation at its core: its issue step enters the micro-operation queue (R221, notes/assumptions/42.md), it
clears the armed flag, and it waits until it starts (R428, R431). -/
def State.gangOp (s : State) (i : GangIssue) : State :=
  s.onMatrix (fun s =>
    if s.me.gangWait.isSome then s.gangAwait
    else if s.me.cmds.any (fun c => match c.word with | .mepi a .. => i.accs.contains a | _ => false) then s.wait
    else s.vpush 4 4 (fun s =>
      (s.modMe (fun k => { k with armed := false, gangWait := some { i with armed := k.armed } })).gangAwait))

/-- MMA (R430). -/
def execMma (c : BitVec 2) (s : BitVec 3) (a b : BitVec 2) (z : BitVec 1) (m : BitVec 3) (st : State) : Res :=
  .next (st.gangOp { form := formMma, acc := c.toNat, shape := s.toNat, fifoA := a.toNat, fifoB := b.toNat,
                     zero := z == 1, mb := m.toNat, sel := 0, armed := false })

/-- MMA64 (R430): the pair's even accumulator. -/
def execMma64 (c : BitVec 1) (s : BitVec 3) (a b : BitVec 2) (z : BitVec 1) (m : BitVec 3) (st : State) : Res :=
  .next (st.gangOp { form := formMma64, acc := 2 * c.toNat, shape := s.toNat, fifoA := a.toNat, fifoB := b.toNat,
                     zero := z == 1, mb := m.toNat, sel := 0, armed := false })

/-- MMAC (R430): the pair's even accumulator. -/
def execMmac (c : BitVec 1) (s : BitVec 3) (a b : BitVec 2) (z : BitVec 1) (m : BitVec 3) (st : State) : Res :=
  .next (st.gangOp { form := formMmac, acc := 2 * c.toNat, shape := s.toNat, fifoA := a.toNat, fifoB := b.toNat,
                     zero := z == 1, mb := m.toNat, sel := 0, armed := false })

/-- MMAS (R430, R433). -/
def execMmas (c : BitVec 2) (s : BitVec 3) (a b e : BitVec 2) (z : BitVec 1) (m : BitVec 3) (st : State) : Res :=
  .next (st.gangOp { form := formMmas, acc := c.toNat, shape := s.toNat, fifoA := a.toNat, fifoB := b.toNat,
                     zero := z == 1, mb := m.toNat, sel := e.toNat, armed := false })

/-- GANG (R428). -/
def execGang (st : State) : Res :=
  .next (st.onMatrix (fun st => (st.modMe (fun k => { k with armed := true })).retire))

/-- MSHP (R422). -/
def execMshp (k : BitVec 3) (a b : R5) (st : State) : Res :=
  .next (st.onMatrix (fun st => st.unpoisoned [a, b] (fun st =>
    let v := (st.me.x a).toNat + 2 ^ 64 * (st.me.x b).toNat
    if !shapeOk v then st.trapWith Cause.shape 7 0
    else (st.modMe (fun c => { c with arch := { c.arch with
      shapes := Map.set 0 c.arch.shapes k.toNat (BitVec.ofNat 128 v) } })).retire)))

/-- MZERO (R431). -/
def execMzero (c : BitVec 2) (st : State) : Res :=
  .next (st.onMatrix (fun st => st.vpush 4 4 (fun st =>
    (st.modMe (fun k => (List.range 16).foldl (fun k r => k.setAcc c.toNat r 0) k)).retire)))

/-- MLDA (R431). -/
def execMlda (c : BitVec 2) (t : BitVec 3) (st : State) : Res :=
  .next (st.onMatrix (fun st => st.vpush 4 4 (fun st =>
    (st.modMe (fun k => (List.range 16).foldl (fun k r =>
      let n := 16 * t.toNat + r
      k.setAcc c.toNat r (if k.rowSideOf n then rowSplat Fmt.f32.poison else k.row n)) k)).retire)))

/-- MSTA (R431): the tile's taint is unchanged. -/
def execMsta (c : BitVec 2) (t : BitVec 3) (st : State) : Res :=
  .next (st.onMatrix (fun st => st.vpush 4 4 (fun st =>
    (st.modMe (fun k => (List.range 16).foldl (fun k r =>
      let v := k.acc c.toNat r
      k.setRow (16 * t.toNat + r) v ((lanes v).any (· == Fmt.f32.poison))) k)).retire)))

/-- Bytes of an epilogue's output row of `n` elements (R435). -/
def epiRowBytes (e : EpiRec) (nf : Narrow) (n : Nat) : Nat :=
  if e.out = 0 then 4 * n
  else if e.out < 3 then 2 * n
  else if nf.blk = 0 then (n * nf.w + 7) / 8
  else n / nf.blk * (1 + nf.blk * nf.w / 8)

/-- An element through the bias and the activation, with flags; poison stays. -/
def epiElem (e : EpiRec) (x bias : Nat) : Nat × Dword :=
  let f := Fmt.f32
  if x = f.poison ∨ (e.be ∧ bias = f.poison) then (f.poison, 0)
  else
    let r : Rounded := if e.be then f.round .rne (FVal.add .rne (f.val x) (f.val bias)) else { bits := x, flags := 0 }
    let y := r.bits
    match e.act with
    | 0 => (y, r.flags)
    | 1 => (if (f.val y).isNan || FVal.cmp (f.val y) (.fin false 0 0) == some .gt then y else 0, r.flags)
    | 2 => let t := sigR (f.val y); (t.bits, r.flags ||| t.flags)
    | _ => let t := tanhR (f.val y); (t.bits, r.flags ||| t.flags)

/-- A row converted to the epilogue's output (R435). -/
def epiConvert (e : EpiRec) (nf : Narrow) (mode : RMode) (ys : List Nat) : PBytes × Dword :=
  let f := Fmt.f32
  if e.out < 3 then
    let t := if e.out = 0 then f else if e.out = 1 then Fmt.bf16 else Fmt.f16
    let rs : List (Rounded × Bool) := ys.map (fun y =>
      if y = f.poison then ({ bits := t.poison, flags := 0 }, true) else (t.round mode (f.val y), false))
    (rs.flatMap (fun r => markBytes r.2 (natBytes (if e.out = 0 then 4 else 2) r.1.bits)), flagsOf (rs.map (·.1)))
  else packFrom nf f mode false ys

/-- MEPI (R435): what it stages is computed when it issues, in program order; it performs as an engine command. -/
def execMepi (c : BitVec 2) (s : BitVec 3) (a : R5) (t : BitVec 3) (st : State) : Res :=
  .next (st.onMatrix (fun st => st.unpoisoned [a] (fun st => st.untainted [a] (fun st =>
    let k := st.me
    let x := (k.shape s.toNat).toNat
    let r := ShapeRec.of x
    let e := EpiRec.of x
    let nf := Narrow.ofReg (Map.get 0 k.arch.fmts e.fk)
    let va := (k.x a).toNat
    let n := min 16 (r.rows - 16 * (st.cur % 4))
    let per := epiRowBytes e nf r.cols
    let span := if n = 0 then 0 else (n - 1) * 16 * e.ostr + per
    if e.ostr = 0 ∨ (e.out = 3 ∧ nf.blk ≠ 0 ∧ r.cols % nf.blk ≠ 0) then st.trapWith Cause.shape 7 0
    else if e.out = 3 && (!nf.valid || nf.split) then st.trapWith Cause.format e.fk 0
    else st.withMode e.orm (fun mode =>
      if va / 2 ^ 21 % 8 ≠ 0 then st.trapWith Cause.bounds va va
      else
        -- a layer in transition does not hold the command's issue
        match (if n = 0 then .ok () else k.checkLocal va span) with
        | .fault t => st.trap t
        | _ =>
          let bias (j : Nat) : Nat := if k.rowSideOf e.bt then Fmt.f32.poison else lane (k.row e.bt) j
          let rows := (List.range n).map (fun i =>
            let ys := (List.range r.cols).map (fun j => epiElem e (lane (k.acc c.toNat i) j) (bias j))
            let out := epiConvert e nf mode (ys.map (·.1))
            ((va + i * 16 * e.ostr, out.1), (ys.foldl (fun f y => f ||| y.2) 0) ||| out.2))
          let cmd := mkCmd (.mepi c.toNat va) t.toNat
            (if n = 0 then [] else [(va, span, true)])
          let st := st.modSquare (squareOf st.cur) (fun q => { q with
            gang := q.gang.map (fun g => { g with epilogue := g.epilogue || g.op.accs.contains c.toNat }) })
          st.issueCmd { cmd with staged := some (rows.map (·.1)), flags := rows.foldl (fun f y => f ||| y.2) 0 })))))

/-- Whether a metadata dword is valid (R432). -/
def metaOk (d : Dword) : Bool :=
  (List.range 16).all (fun g => decide (bitsOf d.toNat (4 * g) 2 < bitsOf d.toNat (4 * g + 2) 2))

/-- MDLD (R432). -/
def execMdld (e : BitVec 2) (r : R7) (st : State) : Res :=
  .next (st.onMatrix (fun st =>
    if st.me.rowSideOf r.toNat then st.poisoned (128 + r.toNat)
    else
      let ds := (List.range 16).map (fun i => BitVec.ofNat 64 (bitsOf (st.me.row r.toNat).toNat (64 * i) 64))
      if !ds.all metaOk then st.trapWith Cause.shape 6 0
      else (st.modMe (fun k => { k with arch := { k.arch with metas := Map.put k.arch.metas e.toNat ds } })).retire))

/-- BYTES and PEND of MFST (R427). -/
def State.fifoState (s : State) (sq f : Nat) : Nat :=
  ((s.square sq).fifo f).bytes.length + 2 ^ 17 * min 63 (s.fillsOf sq f)

/-- What an MFST at the program counter has read early, while an operation popped its FIFO. -/
def Core.sampled? (k : Core) : Option Early := k.early.find? (fun e => e.acc.pc == k.arch.pc && e.acc.space == 0)

/-- MFST (R427): its one moment lies before an operation that pops, or among its pops where the load has performed early
(R436), with BUSY = 1. -/
def execMfst (f : BitVec 2) (l : BitVec 1) (d : R5) (st : State) : Res :=
  .next (st.onMatrix (fun st =>
    let sq := squareOf st.cur
    let q := st.square sq
    let fifo := q.fifo f.toNat
    let out (st : State) (v : Nat) : State := (st.modMe (fun k => k.setX d (BitVec.ofNat 64 v) false Taint.clean)).retire
    match if l = 0 then st.me.sampled? else none with
    | some e => out (st.modMe (fun k => { k with early := k.early.erase e })) (bytesNat e.acc.bytes)
    | none =>
      let v := st.fifoState sq f.toNat
      out (if l = 1 then st.setSquare sq (q.setFifo f.toNat (fifo.pop q.revocable fifo.bytes.length)) else st) v))

/-! ## Events of the array -/

/-- GANG_START (R428). -/
def execGangStart (sq : Nat) (st : State) : Res :=
  .next (st.gangStart sq false)

/-- FIFO_TIMEOUT (R426). -/
def execFifoTimeout (sq : Nat) (st : State) : Res :=
  .next (st.gangStart sq true)

/-- Writes staged rows and performs the command (R435, R436). -/
def State.mepiDone (s : State) (c : Nat) (x : Cmd) : State :=
  ((x.staged.getD []).foldl (fun s r => s.lsWrite c (r.1 % 2 ^ 21) r.2) s).cmdDone c x.id

/-- The old accumulator rows come back, each core at its gang operation. -/
def State.gangUndo (s : State) (sq : Nat) (g : GangOp) : State :=
  let s := g.old.foldl (fun s e =>
    s.modCore (4 * sq + e.1 / 1024) (fun k => k.setAcc (e.1 % 1024 / 16) (e.1 % 16) e.2)) s
  (List.range 4).foldl (fun s c =>
    let p := g.pcs.getD c (0, SeqCtx.reset)
    s.modCore (4 * sq + c) (fun k => { k with arch := { k.arch with seq0 := p.2 } }.setPc p.1)) s

/-- Whether a core issued a command after a gang operation (R436). -/
def GangOp.isBefore (g : GangOp) (c : Nat) (x : Cmd) : Bool := decide (g.marks.getD (c % 4) 0 ≤ x.id)

/-- GANG_RESIDUE_CHECK (R434, R436): the checks fail `failed` times, then pass; equal residues below 7 are no mismatch
(R278). Up to two replays mend a mismatch while the operands are kept; a persistent one, or one after a MEPI has read the
accumulator, is a machine check in all four cores, whose records name the mismatching row; it waits for the gang's older
loads (R270). -/
def execGangResidueCheck (sq failed : Nat) (row : BitVec 6) (expct obs : BitVec 3) (st : State) : Res :=
  .next (match (st.square sq).gang with
    | none => st
    | some g =>
      let closed := st.modSquare sq (fun q => { q with gang := none })
      let failed := if isMismatch expct obs then failed else 0
      if failed = 0 ∨ (failed ≤ 2 ∧ !g.epilogue) then
        let s := (List.range 4).foldl (fun s c => s.modCore (4 * sq + c) (fun k => k.orFlags (g.flags.getD c 0))) closed
        if failed = 0 then s else s.logError 6 false 2 0 (4 * sq * 2 ^ 24 + 4 * 2 ^ 8 + row.toNat)
      else if st.gangLoads sq then st
      else
        let sub := if g.epilogue then 4 else 1
        let t : TrapInfo := { code := Cause.machineCheck, sub := sub, between := true }
        let tbk := st.mayTakeBack sq
        let s := (closed.gangUndo sq g).logError 6 true 2 0 (4 * sq * 2 ^ 24 + 4 * 2 ^ 8 + row.toNat)
        let s := (List.range 4).foldl (fun s c => s.modCore (4 * sq + c) (fun k => { k with
          cmds := k.cmds.filter (fun x => !(x.staged.isSome && g.isBefore c x)),
          mcRecord := mcRecordOf (g.pcs.getD c (0, SeqCtx.reset)).1 (s.clockOf sq) (BitVec.ofNat 32 (0x3C * 2 ^ 25 + g.op.form * 2 ^ 12))
            0 sub 4 row.toNat expct obs (if g.epilogue then 0 else 2) tbk })) s
        s.gangError sq Config.cores t)

end Sys2Proof.Machine
end

