-- ==== Sys2Proof/Machine/StreamAcc.lean ====
section
/-! DEFINITION. Stream-accumulator instructions: major 0x24, and the slice's verdict (R163 to R180, R437, R438,
R475). -/

namespace Sys2Proof.Machine

/-- The operations of R437 by OP. -/
def saOpAdd : Nat := 0
def saOpNrm : Nat := 1
def saOpClr : Nat := 2
def saOpFence : Nat := 3
def saOpEvict : Nat := 4
def saOpLoad : Nat := 5
def saOpGain : Nat := 6
def saOpSq : Nat := 7

def SaReq.hnd (r : SaReq) : Nat := r.handle.toNat % 65536
def SaReq.off (r : SaReq) : Nat := r.ofs.toNat

/-- An SA fault (R177). -/
def SaReq.fault (r : SaReq) (reason : Nat) : TrapInfo :=
  trapAt Cause.sa (r.hnd + 65536 * (r.off % 65536) + 2 ^ 32 * reason) 0

/-- The checks of R177 and R438 that need no transfer, in the order of their reasons. -/
def State.saCheck (s : State) (ctx : Nat) (r : SaReq) : Option Nat :=
  let sl := saSlice r.hnd
  let v := s.vec sl (saIndex r.hnd)
  if r.handle.toNat ≠ r.hnd ∨ !v.valid ∨ v.ctx ≠ ctx ∨ (s.square sl).withheld then some 1
  else if r.off % 64 ≠ 0 ∨ 64 * v.nr ≤ r.off then some 2
  else if s.ways ctx = 0 then some 3
  else if r.op = saOpNrm ∧ !(if r.slot = 0 then v.sv0 else v.sv1) then some 4
  else if r.op = saOpGain ∧ r.addr.toNat % 64 ≠ 0 then some 5
  else none

/-- The address of the gain row of elements from `off` on. -/
def SaVec.gainVa (v : SaVec) (off : Nat) : Nat := (64 * v.gaddr + 4 * off) % 2 ^ 64

/-- The use mark that follows every other of a slice, for least recently used. -/
def Slice.nextUse (k : Slice) : Nat := k.vecs.foldl (fun a e => max a (e.2.used + 1)) 1

/-- Makes a vector resident for core `c` (R162, R176): refused or held waits, a failed reload is reason 6. What making
room has done to other vectors stands. -/
def State.saResident (s : State) (c sl i : Nat) : State × Checked Unit :=
  let v := s.vec sl i
  if v.st = 1 then (s.setVec sl i { v with used := (s.slice sl).nextUse }, .ok ())
  else
    match s.makeRoom c sl v.ctx v.granules 33 with
    | (s, none) => (s, .hold)
    | (s, some w) =>
      let n := (s.slice sl).nextUse
      if v.st = 0 then (s.setVec sl i { v with st := 1, elems := [], way := w, used := n }, .ok ())
      else match s.reloadVec sl i with
        | .ok v' => (s.setVec sl i { v' with way := w, used := n }, .ok ())
        | .hold => (s.keepBacking v (v.st == 3), .hold)
        | .fault t => (s, .fault t)

/-- SANRM's row (R167): `gain` holds 64 FP32 patterns with their poison, or nothing for unit gain. -/
def saNormalise (v : SaVec) (off slot : Nat) (bf16 : Bool) (eps : Nat) (gain : List (Nat × Bool)) : Row :=
  let out := if bf16 then Fmt.bf16 else Fmt.f32
  let sk := if slot = 0 then v.slot0 else v.slot1
  let m0 := Fmt.f64.div .rne (Fmt.f64.val sk.toNat) (FVal.ofInt (64 * v.nr))
  let m := if FVal.cmp (Fmt.f64.val m0.bits) (.fin false 0 0) == some .lt then .fin false 0 0 else Fmt.f64.val m0.bits
  let x := Fmt.f64.val (Fmt.f64.round .rne (FVal.add .rne m (Fmt.f32.val eps))).bits
  let r := Fmt.f32.val (Fmt.f32.rsqrt .rne x).bits
  let ys := (List.range 64).map (fun i =>
    let e := v.elem (off + i)
    let g := gain.getD i (0x3F800000, false)
    if sk == f64Poison || e == w40Poison || g.2 || g.1 == Fmt.f32.poison then out.poison
    else
      let t := Fmt.f32.val (Fmt.f32.round .rne ((Fmt.w40.val e.toNat).mul r)).bits
      (out.round .rne (t.mul (Fmt.f32.val g.1))).bits)
  BitVec.ofNat 2048 (packCodes out.width ys)

/-- Translates a SANRM's gain row as the issuing core does (R168): physical address and bytes of its parts, nothing for
unit gain, and none yet where the slice's own checks refuse the operation as things stand. -/
def State.saGainAt (s : State) (c : Nat) (r : SaReq) : Checked (Option (List (Nat × Nat))) :=
  let v := s.vec (saSlice r.hnd) (saIndex r.hnd)
  if r.op ≠ saOpNrm then .ok (some [])
  else if (s.saCheck (s.ctxOf c) r).isSome then .ok none
  else if v.gaddr = 0 then .ok (some [])
  else match s.check2 (s.whoOf c 0) .load 0 (v.gainVa r.off) 256 0 with
    | .ok ps => .ok (some (ps.map (fun p => (p.pa, p.size))))
    | .hold => .hold
    | .fault t => .fault t

/-- A plain load by core `c` after everything it has issued. -/
def State.lastLoad (s : State) (c : Nat) : Access :=
  { mkAccess .load 2 { ord := 0, space := 0, scope := 0, cache := 0, nt := false } 0 .discard none [] with
    id := (s.core c).serial, owner := (s.core c).task }

/-- The gain row's elements with their poison, under the core's own buffered stores (R168, R83); none while an older
access of the core to its bytes has not performed (R123), or its home slice refuses the read (R89). -/
def State.saGain (s : State) (c : Nat) (at' : List (Nat × Nat)) : Option (List (Nat × Bool)) :=
  if (s.core c).inflight.any (fun a => at'.any (fun g => a.touches g.1 g.2))
      ∨ at'.any (fun g => s.refuses c (s.core c).serial g.1) then none
  else
    let bs := at'.flatMap (fun g => s.overlay c (s.lastLoad c) 0 g.1 (s.rdBytes g.1 g.2))
    some (if at'.isEmpty then [] else (chunks 4 64 bs).map (fun w => (bytesNat (w.map (·.1)), w.any (·.2))))

/-- Core `c`'s operation has its verdict: it passes, and its instruction retires. -/
def State.saDone (s : State) (c : Nat) (f : Core → Core) : State :=
  s.modCore c (fun k => (f { k with saWait := none }).retire)

/-- The effect at the slice on a vector that passed every check: it passes, waits (a refusal, a hold), or traps. -/
def State.saEffect (s : State) (c sl i : Nat) (r : SaReq) : State × Checked Unit :=
  let sq := squareOf c
  let ready (g : State → State × Checked Unit) : State × Checked Unit :=
    match s.saResident c sl i with
    | (s, .ok _) => g s
    | (s, .hold) => (s, .hold)
    | (s, .fault _) => (s, .fault (r.fault 6))
  if r.op = saOpAdd then
    ready (fun s =>
      let s := s.takeUndo c sl 1 (s.undoAdd sl sq i r.off (r.fmt == 1) r.row r.pois)
      (s.setVec sl i ((s.vec sl i).addRow r.off (r.fmt == 1) r.row r.pois), .ok ()))
  else if r.op = saOpNrm then
    ready (fun s =>
      let v := s.vec sl i
      match (match r.gain with | some ps => Checked.ok (some ps) | none => s.saGainAt c r) with
      | .fault t => (s, .fault t)
      | .hold => (s.keepHeld (s.whoOf c 0) (pagesOf (v.gainVa r.off) 256), .hold)
      | .ok at' => match s.saGain c (at'.getD []) with
        | some g => (s.modCore c (fun k =>
            k.pushRow r.dest (saNormalise v r.off r.slot (r.fmt == 1) r.eps g) false Taint.clean), .ok ())
        | none => (s, .hold))
  else if r.op = saOpClr then
    let v := s.vec sl i
    let clear (s : State) : State × Checked Unit := (s.setVec sl i (s.vec sl i).clear, .ok ())
    let record (image : Option (Map (BitVec 40) × Nat)) : State :=
      s.takeUndo c sl (v.nr + 1) (.saClear sl sq i (v.nr + 1) v.elems v.header v.st image)
    -- the record holds the whole vector, an evicted one as its image has it (R179, notes/assumptions/65.md)
    if (s.square sq).revocable && decide (2 ≤ v.st) then
      match s.reloadVec sl i with
      | .ok v' => clear (record (some (v'.elems, v'.header)))
      | .hold => (s.keepBacking v (v.st == 3), .hold)
      | .fault _ => clear (s.unrevoke sq)
    else clear (record none)
  else if r.op = saOpFence then
    ready (fun s =>
      let s := s.takeUndo c sl 1 (s.undoFence sl sq i r.slot (r.fmt == 1))
      ((s.setVec sl i ((s.vec sl i).capture r.slot (r.fmt == 1))).modCore c (fun k => k.acquireL1 r.scope), .ok ()))
  else if r.op = saOpEvict then
    let v := s.vec sl i
    if v.st ≠ 1 then (s, .ok ())
    else if s.hasUndo sl i || s.saBusy c sl i true then (s, .hold)
    else match s.evictVec sl i (if r.fmt = 2 then v.compact else r.fmt == 1) with
      | .ok s => (s, .ok ())
      | .hold => (s.keepBacking v (if r.fmt = 2 then v.compact else r.fmt == 1), .hold)
      | .fault _ => (s, .fault (r.fault 6))
  else if r.op = saOpLoad then ready (fun s => (s, .ok ()))
  else if r.op = saOpGain then
    ready (fun s => (s.setVec sl i { s.vec sl i with gaddr := r.addr.toNat / 64 }, .ok ()))
  else
    ready (fun s => (s.modCore c (fun k =>
      k.setX (BitVec.ofNat 5 r.dest) (s.vec sl i).sumSq false Taint.clean), .ok ()))

/-- The home slice checks and applies core `c`'s operation and returns its verdict (R475): the instruction retires,
traps, or goes on waiting through a refusal or a hold. The order of a vector's operations is logged (R180), as that of
the operations that pass. -/
def State.saApply (s : State) (c : Nat) : State :=
  match (s.core c).saWait with
  | none => s
  | some r =>
    let failed (s : State) (t : TrapInfo) : State :=
      if (s.core c).loadsOut then s else (s.modCore c (fun k => { k with saWait := none })).trapOn c t
    match s.saCheck (s.ctxOf c) r with
    | some n => failed s (r.fault n)
    | none =>
      match s.saEffect c (saSlice r.hnd) (saIndex r.hnd) r with
      | (s', .hold) => s'
      | (s', .fault t) => failed s' t
      | (s', .ok _) => match s'.choose c 6 r.hnd with
        | none => s
        | some s'' => s''.saDone c id

/-- Whether a buffered SAADD of core `c` to a handle waits (R123, R171). -/
def State.saBuffered (s : State) (c h : Nat) : Bool :=
  (s.square (squareOf c)).xbuf.any (fun e => e.core == c && match e.kind with
    | .saadd h' .. => h' == h
    | _ => false)

def saMods (ord scope : Nat) : ModFields := { ord := ord, space := 0, scope := scope, cache := 0, nt := false }

/-- An SA instruction: operand checks, PHASE, its order, and the request to its slice. A request already sent waits for
its verdict. In a compute phase it passes its core's own buffered adds (notes/assumptions/48.md). -/
def State.saIssue (s : State) (rs : List R5) (kind : AccKind) (ord : Nat) (mk : State → SaReq)
    (room : State → (State → State) → State) : State :=
  let finish (s : State) : State :=
    let c := s.cur
    let s' := s.saApply c
    if s'.me.saWait.isSome then s'.wait else s'
  if s.me.saWait.isSome then finish s
  else
    s.unpoisoned rs (fun s => s.untainted rs (fun s =>
      let r := mk s
      let bad (n : Nat) : State := s.trap (r.fault n)
      if (r.op = saOpClr ∨ r.op = saOpFence) ∧ s.inCompute s.cur then s.trapWith Cause.phase 0 0
      else if r.op = saOpAdd ∧ s.inCompute s.cur then
        match s.saCheck (s.ctxOf s.cur) r with
        | some n => bad n
        | none =>
          s.sends [r.op, r.hnd, r.off, r.row.toNat] (fun s =>
            s.bufferStore [mkPart 0 0 (if r.fmt = 1 then 128 else 256) 0 0] 0 0 false id
              (fun _ => .saadd r.hnd r.off (r.fmt == 1) r.row r.pois) State.retire)
      else if !s.orderly kind (saMods ord r.scope) || (!s.inCompute s.cur && s.saBuffered s.cur r.hnd) then s.wait
      else if ord = 3 ∧ !s.me.inflight.isEmpty then s.wait
      else s.onCheck (pagesOf ((s.vec (saSlice r.hnd) (saIndex r.hnd)).gainVa r.off) 256) (s.saGainAt s.cur r) (fun gain =>
       let r := { r with gain := gain }
       room s (fun s =>
        let send (s : State) : State :=
          let s := s.setMe { s.me with saWait := some r }
          match s.delays with
          | true :: ds => ({ s with delays := ds }).wait
          | false :: ds => finish { s with delays := ds }
          | [] => finish s
        if kind = .load then send s else s.sends [r.op, r.hnd, r.off, r.row.toNat] send))))

/-- A request with every field clear. -/
def saReq (op : Nat) (handle ofs : Dword) (scope : Nat) : SaReq :=
  { op := op, handle := handle, ofs := ofs, slot := 0, fmt := 0, scope := scope, dest := 0, row := 0, pois := false,
    addr := 0, eps := 0, gain := some [] }

/-- The scope SC: b [6] followed by a [6:5] (R437). -/
def saScope (p : BitVec 2) (q : BitVec 1) : Nat := 4 * q.toNat + p.toNat

/-- No room needed. -/
def anyRoom (s : State) (g : State → State) : State := g s

/-- SAADD (R163). -/
def execSaadd (r : R7) (p : BitVec 2) (h : R5) (q : BitVec 1) (f : BitVec 1) (o : R5) (st : State) : Res :=
  .next (if !(Map.get Taint.clean st.me.taint (tileTaint r.toNat)).isEmpty then st.wait
    else st.saIssue [h, o] .store 1 (fun s =>
      { saReq saOpAdd (s.me.x h) (s.me.x o) (saScope p q) with
        fmt := f.toNat, row := s.me.row r.toNat, pois := s.me.rowSideOf r.toNat }) anyRoom)

/-- SANRM (R167 to R169). -/
def execSanrm (f s : BitVec 1) (k : BitVec 2) (p : BitVec 2) (h : R5) (q : BitVec 1) (o : R5) (st : State) : Res :=
  .next (st.saIssue [h, o] .load 1 (fun st =>
    { saReq saOpNrm (st.me.x h) (st.me.x o) (saScope p q) with
      slot := s.toNat, fmt := f.toNat, dest := k.toNat,
      eps := ((st.context (st.ctxOf st.cur)).cr 0x0B).toNat % 2 ^ 32 })
    (fun st g => st.queueRoom k.toNat (fun st => st.slotFree g)))

/-- SACLR (R173). -/
def execSaclr (p : BitVec 2) (h : R5) (q : BitVec 1) (st : State) : Res :=
  .next (st.saIssue [h] .store 3 (fun s => saReq saOpClr (s.me.x h) 0 (saScope p q)) anyRoom)

/-- SAFENCE (R171). -/
def execSafence (e k : BitVec 1) (p : BitVec 2) (h : R5) (q : BitVec 1) (st : State) : Res :=
  .next (st.saIssue [h] (.atomic .swp) 2 (fun s =>
    { saReq saOpFence (s.me.x h) 0 (saScope p q) with slot := k.toNat, fmt := e.toNat }) anyRoom)

/-- SAEVICT (R174). -/
def execSaevict (f : BitVec 2) (p : BitVec 2) (h : R5) (q : BitVec 1) (st : State) : Res :=
  .next (st.saIssue [h] (.atomic .swp) 1 (fun s =>
    { saReq saOpEvict (s.me.x h) 0 (saScope p q) with fmt := f.toNat }) anyRoom)

/-- SALOAD (R176). -/
def execSaload (p : BitVec 2) (h : R5) (q : BitVec 1) (st : State) : Res :=
  .next (st.saIssue [h] (.atomic .swp) 1 (fun s => saReq saOpLoad (s.me.x h) 0 (saScope p q)) anyRoom)

/-- SAGAIN (R168). -/
def execSagain (p : BitVec 2) (h : R5) (q : BitVec 1) (a : R5) (st : State) : Res :=
  .next (st.saIssue [h, a] .store 1 (fun s =>
    { saReq saOpGain (s.me.x h) 0 (saScope p q) with addr := s.me.x a }) anyRoom)

/-- SASQ (R170). -/
def execSasq (d : R5) (p : BitVec 2) (h : R5) (q : BitVec 1) (st : State) : Res :=
  .next (st.saIssue [h] .load 1 (fun s =>
    { saReq saOpSq (s.me.x h) 0 (saScope p q) with dest := d.toNat })
    (fun st g => st.slotFree g))

/-- SA_SLICE_APPLY (R475). -/
def execSaSliceApply (core : Nat) (st : State) : Res :=
  .next (st.saApply core)

/-- SA_EVICTION_RETRY (R175): the slice tries again the evictions that it owes; a way that has crossed its threshold is
disabled once its vectors have left, which leave in exact format (R107). Retries count and post nothing. -/
def execSaEvictionRetry (slice : Nat) (st : State) : Res :=
  let s := (st.slice slice).leaving.foldl (fun s w => s.leaveWay slice w false) st
  .next (s.displace slice (fun v =>
    v.compact && !(s.slice slice).leaving.contains ((s.slice slice).liveWays.getD v.way 16)) (s.owed slice)).1

end Sys2Proof.Machine
end

