-- ==== Sys2Proof/Machine/Sync.lean ====
section
/-! DEFINITION. Synchronisation: major 0x27, supersteps and barriers (R145 to R153, R200 to R205, R439 to R442,
R476). -/

namespace Sys2Proof.Machine

/-! ## Barriers (R202, R204, R476) -/

/-- The gang of a square begins a revocable superstep: each core's snapshot, the FIFOs' positions, the log's (R205). -/
def State.beginRevocable (s : State) (sq id : Nat) : State :=
  let s := s.freeRevocable sq
  let mark := match s.launch? id with
    | some l => if l.scr ≠ 0 then l.logPosOf ((l.place.findIdx (· == sq)) * l.nc) else 0
    | none => 0
  let s := s.modSquare sq (fun q => { q with
    revocable := true, takeBacks := 0, superstep := q.superstep + 1, logMark := mark,
    fifos := q.fifos.map (fun e => (e.1, { e.2 with snapLen := e.2.bytes.length })) })
  (List.range 4).foldl (fun s c => s.modCore (4 * sq + c) (fun k =>
    match k.task with
    | some (i, _) => if i = id then { k with snapshot := some k.arch } else k
    | none => k)) s

/-- The barrier of level `lv` completes for an instance (R153, R202): its tasks compute again, each past its BAR, with
every core's L1 invalidated when the level's scope is wider than core; a global barrier commits the old superstep and, with
TB = 1, begins a revocable one (R205, R208). -/
def State.barrierDone (s : State) (id lv : Nat) (l : Launch) (ts : List Nat) : State :=
  let s := ts.foldl (fun s t =>
    let s := s.modCore (l.pcore t) (fun k => k.acquireL1 (l.lscope lv))
    if (l.task t).ended then s
    else (s.modLaunch id (fun l => l.modTask t (fun k => { k with phase := .compute }))).modCore (l.pcore t) Core.retire) s
  if l.globalLevel = some lv then
    ((ts.map (fun t => squareOf (l.pcore t))).eraseDups).foldl (fun s sq =>
      if l.tb then s.beginRevocable sq id
      else (s.modSquare sq (fun q => { q with superstep := q.superstep + 1 })).freeRevocable sq) s
  else s

/-- The levels that the waiting tasks of some tasks name; none where one has not arrived. -/
def Launch.named (l : Launch) (ts : List Nat) : Option (List Nat) :=
  let live := ts.filter (fun t => !(l.task t).ended)
  if live.all (fun t => match (l.task t).phase with | .wait _ => true | _ => false) then
    some ((live.filterMap (fun t => match (l.task t).phase with | .wait n => some n | _ => none)).eraseDups)
  else none

/-- Domain instances, within some tasks, whose tasks have all arrived naming different levels (R476). -/
def Launch.clashes (l : Launch) (ts : List Nat) : List Nat :=
  match l.domainLevel with
  | none => []
  | some d =>
    ((ts.map (l.instOf d)).eraseDups).filter (fun i => match l.named (l.instTasks d i) with
      | some ns => decide (1 < ns.length)
      | none => false)

/-- Whether a level's instance holds tasks of other devices (R192). -/
def Launch.spansDevices (l : Launch) (lv : Nat) : Bool := l.dom lv == 7 || (l.dom lv == 6 && decide (1 < l.fld 576 19))

/-- Whether an access of a task is still in flight: of one that has ended too (R153). -/
def State.taskBusy (s : State) (id : Nat) (l : Launch) (t : Nat) : Bool :=
  (s.core (l.pcore t)).inflight.any (fun a => a.owner == some (id, t) && a.kind != .load)

/-- A barrier instance tries to complete: tasks of one domain instance that name different levels all trap PHASE
(R476); else it completes once every task waits at its level and the counter is zero. `outside`: the tasks that other
devices hold have arrived, with nothing pending there. -/
def State.barrierTry (s : State) (id lv inst : Nat) (outside : Bool) : State :=
  match s.launch? id with
  | none => s
  | some l =>
    let ts := l.instTasks lv inst
    match l.domainLevel with
    | none => s
    | some d =>
      match l.clashes ts with
      | i :: _ =>
        if (l.instTasks d i).any (fun t => !(l.task t).ended && (s.core (l.pcore t)).loadsOut) then s
        else (l.instTasks d i).foldl (fun s t =>
          if (l.task t).ended then s
          else
            let s := s.modLaunch id (fun l => l.modTask t (fun k => { k with phase := .exchange }))
            s.trapOn (l.pcore t) { code := Cause.phase }) s
      | [] =>
        if l.named ts = some [lv] ∧ l.pend lv inst = 0 ∧ !ts.any (s.taskBusy id l) ∧ (outside ∨ !l.spansDevices lv) then s.barrierDone id lv l ts else s

/-- BAR at a level (R440, R202): the task enters WAIT with every access performed, and the instruction retires when
the barrier completes. -/
def State.barAt (s : State) (lv : Nat) (id t : Nat) (l : Launch) : State :=
  match (l.task t).phase with
  | .compute => s.trapWith Cause.phase 0 0
  | .exchange =>
    if !s.me.inflight.isEmpty then s.wait
    else
      let s := s.modLaunch id (fun l => l.modTask t (fun k => { k with phase := .wait lv }))
      -- the counter may already be zero and this arrival the last
      let s' := s.barrierTry id lv (l.instOf lv t) false
      match s'.launch? id with
      | some l' => (match (l'.task t).phase with | .wait _ => s'.wait | _ => s')
      | none => s'
  | .wait _ => s.wait

/-- BAR naming a level (R440). -/
def execBar (n : BitVec 3) (st : State) : Res :=
  .next (st.withTask (fun id t l =>
    let below := match l.domainLevel with | some d => decide (n.toNat < d) | none => true
    if !l.barr n.toNat || below then st.trapWith Cause.phase n.toNat 0
    else st.barAt n.toNat id t l))

/-- BAR naming the task's superstep domain level (R440). -/
def execBarDomain (st : State) : Res :=
  .next (st.withTask (fun id t l =>
    match l.domainLevel with
    | none => st.trapWith Cause.phase 0 0
    | some d => st.barAt d id t l))

/-- SSTEP (R202): the exchange phase begins; its entries may perform and its slot counts start at zero (R392). -/
def execSstep (st : State) : Res :=
  .next (st.withTask (fun id t l =>
    if l.domainLevel.isNone || (l.task t).phase != .compute then st.trapWith Cause.phase 0 0
    else if !st.me.inflight.isEmpty then st.wait
    else
      let st := st.modLaunch id (fun l => l.modTask t (fun k => { k with phase := .exchange, steps := k.steps + 1 }))
      (st.modMe (fun k => { k with xbytes := [] })).retire))

/-- TLWAIT (R149). -/
def execTlwait (b : R5) (t : BitVec 3) (s : BitVec 3) (st : State) : Res :=
  .next (st.unpoisoned [b] (fun st =>
    let n := (st.me.x b).toNat
    if Map.get 0 st.me.arch.tlIssued t.toNat < n then st.illegal
    else if Map.get 0 st.me.arch.tlCount t.toNat < n then st.wait
    else (st.modMe (fun k => k.acquireL1 s.toNat)).retire))

/-- FESET and FECLR (R441): a release at device scope, then the bit. -/
def State.feWrite (s : State) (a : R5) (i : Nat) (v : Bool) : State :=
  s.unpoisoned [a] (fun s => s.untainted [a] (fun s => s.withTask (fun id _ l =>
    let x := (s.me.x a).toNat
    if l.count ≤ x ∨ l.tbRole i = 0 ∨ l.tbRem i then s.trapWith Cause.bounds x 0
    else if !s.me.inflight.isEmpty then s.wait
    else if (l.task x).ended then s.retire
    else s.sends [x, i] (fun s => (s.modLaunch id (fun l => { l with full := Map.set false l.full (4 * x + i) v })).retire))))

/-- FESET (R441). -/
def execFeset (a : R5) (i : BitVec 2) (st : State) : Res :=
  .next (st.feWrite a i.toNat true)

/-- FECLR (R441). -/
def execFeclr (a : R5) (i : BitVec 2) (st : State) : Res :=
  .next (st.feWrite a i.toNat false)

/-- FEWAIT (R441): an acquire at device scope. -/
def execFewait (c v : BitVec 1) (i : BitVec 2) (st : State) : Res :=
  .next (st.withTask (fun id t l =>
    let key := 4 * t + i.toNat
    if Map.get false l.full key != (v == 1) then st.wait
    else
      let st := if c = 1 then st.modLaunch id (fun l => { l with full := Map.set false l.full key (v != 1) }) else st
      (st.modMe (fun k => k.acquireL1 3)).retire))

/-- TLADV (R442). -/
def execTladv (d : R5) (t : BitVec 3) (st : State) : Res :=
  let n := Map.get 0 st.me.arch.tlIssued t.toNat + 1
  .next ((st.modMe (fun k => k.setX d (BitVec.ofNat 64 n) false Taint.clean)).issueCmd (mkCmd .tladv t.toNat []))

/-- BARRIER_COMPLETE (R204): where the barrier spans devices, the event says that the others have arrived. -/
def execBarrierComplete (launch level inst : Nat) (st : State) : Res :=
  .next (st.barrierTry launch level inst true)

end Sys2Proof.Machine
end

