-- ==== Sys2Proof/Machine/Copy.lean ====
section
/-! DEFINITION. Copy-engine commands and LAUNCH: majors 0x28 and 0x29 (R443 to R445, R217, R148). -/

namespace Sys2Proof.Machine

/-! ## What a command moves -/

/-- The space of a memory-side address by SP (R443). -/
def spSpace (sp : Nat) : Nat := if sp = 0 then 2 else if sp = 1 then 5 else if sp = 2 then 3 else 4

/-- One move of a command: source and destination address, bytes read and written. -/
structure Move where
  src : Nat
  dst : Nat
  len : Nat
  out : Nat
  deriving DecidableEq, Repr

/-- The spaces of a command's source and destination; 1 is the local store and 0 an operand FIFO. -/
def CmdKind.spaces : CmdKind → Option (Nat × Nat)
  | .cpy dir sp .. => some (if dir = 0 then 1 else spSpace sp, if dir = 1 then 1 else spSpace sp)
  | .cpy2d dir sp .. => some (if dir = 0 then 1 else spSpace sp, if dir = 1 then 1 else spSpace sp)
  | .cpyga sp .. => some (spSpace sp, 1)
  | .cpysc sp .. => some (1, spSpace sp)
  | .cpyfi _ fromLocal sp .. => some (if fromLocal then 1 else spSpace sp, 0)
  | .cpycv decoding sp .. => some (if decoding then (spSpace sp, 1) else (1, spSpace sp))
  | _ => none

/-- The memory addresses of a table of `n` dwords in the local store. -/
def Core.table (k : Core) (a n : Nat) : List Nat :=
  (List.range n).map (fun i => bytesNat ((k.lsBytes (a % 2 ^ 21 + 8 * i) 8).map (·.1)))

def wrap64 (i : Int) : Nat := (i % 2 ^ 64).toNat

/-- The moves of a command, in their order (R443). -/
def CmdKind.moves (w : CmdKind) (k : Core) : List Move :=
  match w with
  | .cpy _ _ a b n => [{ src := b, dst := a, len := n, out := n }]
  | .cpy2d _ _ a b n rows ds ss =>
    (List.range rows).map (fun (j : Nat) => { src := wrap64 (b + j * ss), dst := wrap64 (a + j * ds), len := n, out := n })
  | .cpyga _ a b n lg =>
    (k.table b n).mapIdx (fun i x => { src := x, dst := a + i * 2 ^ lg, len := 2 ^ lg, out := 2 ^ lg })
  | .cpysc _ a b n lg =>
    (k.table a n).mapIdx (fun i x => { src := b + i * 2 ^ lg, dst := x, len := 2 ^ lg, out := 2 ^ lg })
  | .cpyfi _ _ _ b n => [{ src := b, dst := 0, len := n, out := n }]
  | .cpycv decoding _ a b rows fmt _ =>
    let p := (Narrow.ofReg fmt).rowBytes
    (List.range rows).map (fun (i : Nat) =>
      if decoding then { src := (b + i * p) % 2 ^ 64, dst := a + i * 256, len := p, out := 256 }
      else { src := b + i * 256, dst := (a + i * p) % 2 ^ 64, len := 256, out := p })
  | _ => []

/-- A move in pieces that end at the bank rows of its local side (R59). -/
def Move.rows (m : Move) (fromLocal : Bool) : List Move :=
  (spans 256 (if fromLocal then m.src else m.dst) m.len).map (fun sp =>
    { src := m.src + sp.2.2, dst := m.dst + sp.2.2, len := sp.2.1, out := sp.2.1 })

/-- The moves as a command performs them: a plain copy stops at the first row that it cannot reach. -/
def CmdKind.steps (w : CmdKind) (k : Core) : List Move :=
  match w, w.spaces with
  | .cpyfi .., some (1, _) => (w.moves k).flatMap (fun m => (List.range (m.len / 32)).map (fun (i : Nat) =>
      { src := m.src + 32 * i, dst := m.dst, len := 32, out := 32 }))
  | .cpy .., some (ss, ds) => if ss = 1 ∨ ds = 1 then (w.moves k).flatMap (fun m => m.rows (ss == 1)) else w.moves k
  | .cpy2d .., some (ss, ds) => if ss = 1 ∨ ds = 1 then (w.moves k).flatMap (fun m => m.rows (ss == 1)) else w.moves k
  | _, _ => w.moves k

/-- Whether each move is an element that must lie within one bank row (R443). -/
def CmdKind.byElement : CmdKind → Bool
  | .cpyga .. => true
  | .cpysc .. => true
  | _ => false

/-! ## Checks (R444) -/

/-- The checks of one range of a command. A layer in transition and a held leaf delay the command and are no fault. -/
def State.rangeCheck (s : State) (w : Who) (space : Nat) (k : Kind) (bank : Bool) (va n : Nat) : Checked (List Part) :=
  if space = 0 then .ok []
  else if space = 1 then
    if va / 2 ^ 21 % 8 ≠ 0 ∧ va < 2 ^ 24 then .fault (trapAt Cause.bounds va va)
    else if bank ∧ va / 256 ≠ (va + n - 1) / 256 then .fault (trapAt Cause.bounds va va)
    else match (s.core w.core).checkLocal va n with
      | .ok _ => .ok [mkPart va (va % 2 ^ 21) n 0 0]
      | .hold => .hold
      | .fault t => .fault t
  else s.checkSpace w space k w.cache va n 0

/-- The lowest-addressed fault over several ranges, each a part of the command (R48). -/
def State.rangesFault (s : State) (w : Who) (space : Nat) (k : Kind) (bank : Bool) (rs : List (Nat × Nat)) :
    Option TrapInfo :=
  rs.foldl (fun b r =>
    match s.rangeCheck w space k bank r.1 r.2 with
    | .fault t => (match b with
      | some u => if t.faddr.toNat < u.faddr.toNat then some t else b
      | none => some t)
    | _ => b) none

/-- Checks 6 and 7: the source in full, then the destination. CPY2D's record starts at its first row. -/
def State.copyFault (s : State) (w : Who) (cmd : CmdKind) : Option TrapInfo :=
  let ms := cmd.moves (s.core w.core)
  let start (t : TrapInfo) (base : Nat) : TrapInfo := match cmd with
    | .cpy2d .. => { t with fstart := BitVec.ofNat 64 base }
    | _ => t
  match cmd.spaces with
  | none => none
  | some (ss, ds) =>
    match s.rangesFault w ss .load (cmd.byElement && ss == 1) (ms.map (fun m => (m.src, m.len))) with
    | some t => some (start t ((ms.map (·.src)).headD 0))
    | none => (s.rangesFault w ds .store (cmd.byElement && ds == 1) (ms.map (fun m => (m.dst, m.out)))).map
        (fun t => start t ((ms.map (·.dst)).headD 0))

/-- A bounding local range of some moves. -/
def boundRange (rs : List (Nat × Nat)) (written : Bool) : List (Nat × Nat × Bool) :=
  match rs with
  | [] => []
  | r :: _ =>
    let lo := rs.foldl (fun a r => min a (r.1 % 2 ^ 21)) (r.1 % 2 ^ 21)
    let hi := rs.foldl (fun a r => max a (r.1 % 2 ^ 21 + r.2)) 0
    [(lo, hi - lo, written)]

/-- The local ranges of a command (R224): its table, its local source and its local destination. -/
def CmdKind.localRanges (w : CmdKind) (k : Core) : List (Nat × Nat × Bool) :=
  let ms := w.moves k
  let tables := match w with
    | .cpyga _ _ b n _ => [(b % 2 ^ 21, 8 * n, false)]
    | .cpysc _ a _ n _ => [(a % 2 ^ 21, 8 * n, false)]
    | _ => []
  match w.spaces with
  | none => []
  | some (ss, ds) =>
    tables ++ (if ss = 1 then boundRange (ms.map (fun m => (m.src, m.len))) false else [])
      ++ (if ds = 1 then boundRange (ms.map (fun m => (m.dst, m.out))) true else [])

/-- The copy engine's context of a core, for a command with a cache field. -/
def State.copyWho (s : State) (c : Nat) (privileged : Bool) (cache : Nat) : Who :=
  { s.whoOf c 2 with privileged := privileged, cache := cache }

/-- The ranges of space 2, or of space 5, that a command reads and writes. -/
def CmdKind.reach (cmd : CmdKind) (k : Core) (space : Nat) : List (Nat × Nat × Kind) :=
  match cmd with
  | .mcrd a _ len .. => if space = 2 then [(a, len, .load)] else []
  | _ =>
    match cmd.spaces with
    | none => []
    | some (ss, ds) =>
      (if ss = space then (cmd.moves k).map (fun m => (m.src, m.len, .load)) else [])
        ++ (if ds = space then (cmd.moves k).map (fun m => (m.dst, m.out, .store)) else [])

/-- The translations that a command keeps. -/
def State.viaFor (s : State) (w : Who) (cmd : CmdKind) : List (Nat × Nat × Nat) :=
  s.viaOf w ((cmd.reach (s.core w.core) 2).map (fun r => (r.1, r.2.1)))

/-- The table of a gather or scatter: in the local store with WIN = 0. -/
def State.tableFault (s : State) (w : CmdKind) : Option TrapInfo :=
  let chk (va n : Nat) : Option TrapInfo :=
    match s.rangeCheck (s.whoOf s.cur 2) 1 .load false va (8 * n) with
    | .fault t => some t
    | _ => none
  match w with
  | .cpyga _ _ b n _ => chk b n
  | .cpysc _ a _ n _ => chk a n
  | _ => none

/-- Issues a copy command after checks 1 to 5: `limits` are checks 3 to 5. -/
def State.copyIssue (s : State) (rs : List R5) (sp tl : Nat) (mk : Core → CmdKind) (limits : Core → Option TrapInfo) :
    State :=
  s.unpoisoned rs (fun s =>
    if sp = 1 ∧ s.me.level = 0 then s.trapWith Cause.priv 0 0
    else
      let k := s.me
      match limits k with
      | some t => s.trap t
      | none => s.untainted rs (fun s =>
        let w := mk k
        match s.tableFault w with
        | some t => s.trap t
        | none =>
          let cmd := mkCmd w tl (w.localRanges k)
          -- a table that an older command still writes is not read yet (R224)
          if w.byElement && k.conflicts { cmd with id := k.serial, ranges := cmd.ranges.take 1 } then s.wait
          else match s.copyFault (s.copyWho s.cur (k.level != 0) k.mdefCache) w with
            | some t => s.trap t
            | none =>
              let ds := match w.spaces with | some (_, d) => d | none => 1
              if s.inCompute s.cur && (ds == 2 || ds == 5) then s.trapWith Cause.phase 0 0
              else
                let cmd := { cmd with cache := k.mdefCache, via := s.viaFor (s.copyWho s.cur (k.level != 0) k.mdefCache) w }
                if ds < 2 then s.issueCmd cmd
                else s.sends (rs.map (fun r => (k.x r).toNat)) (fun s => s.issueCmd cmd)))

/-- BOUNDS for a register's value outside the limits of R443 (R444 check 3). -/
def limitFault (v : Dword) : TrapInfo := trapAt Cause.bounds v.toNat 0

/-- CPY (R443). -/
def execCpy (a b c : R5) (t : BitVec 3) (d p : BitVec 2) (st : State) : Res :=
  .next (st.copyIssue [a, b, c] p.toNat t.toNat
    (fun k => .cpy d.toNat p.toNat (k.x a).toNat (k.x b).toNat (k.x c).toNat)
    (fun k =>
      let n := (k.x c).toNat
      if n = 0 ∨ (if d = 2 then 2 ^ 24 else 2 ^ 21) < n then some (limitFault (k.x c)) else none))

/-- CPY2D (R443): the pair c, c + 1; `c` is the field without its low bit. -/
def execCpy2d (a b : R5) (c : BitVec 4) (t : BitVec 3) (d p : BitVec 2) (st : State) : Res :=
  let c0 : R5 := c.setWidth 5 <<< 1
  let c1 : R5 := c0 + 1
  .next (st.copyIssue [a, b, c0, c1] p.toNat t.toNat
    (fun k =>
      let x := (k.x c0).toNat
      let y := (k.x c1).toNat
      .cpy2d d.toNat p.toNat (k.x a).toNat (k.x b).toNat (bitsOf x 0 20) (bitsOf x 20 16 + 1)
        (sx 32 (bitsOf y 0 32)) (sx 32 (bitsOf y 32 32)))
    (fun k =>
      let x := (k.x c0).toNat
      if bitsOf x 0 20 = 0 ∨ 2 ^ 36 ≤ x then some (limitFault (k.x c0)) else none))

/-- The limits of CPYGA and CPYSC: `tab` holds the table's address. -/
def tableLimits (c tab : R5) (k : Core) : Option TrapInfo :=
  let x := (k.x c).toNat
  if (k.x tab).toNat % 8 ≠ 0 then some (limitFault (k.x tab))
  else if 2 ^ 20 ≤ x ∨ 8 < bitsOf x 16 4 then some (limitFault (k.x c)) else none

/-- CPYGA (R443). -/
def execCpyga (a b c : R5) (t : BitVec 3) (p : BitVec 2) (st : State) : Res :=
  .next (st.copyIssue [a, b, c] p.toNat t.toNat
    (fun k => .cpyga p.toNat (k.x a).toNat (k.x b).toNat (bitsOf (k.x c).toNat 0 16 + 1) (bitsOf (k.x c).toNat 16 4))
    (tableLimits c b))

/-- CPYSC (R443). -/
def execCpysc (a b c : R5) (t : BitVec 3) (p : BitVec 2) (st : State) : Res :=
  .next (st.copyIssue [a, b, c] p.toNat t.toNat
    (fun k => .cpysc p.toNat (k.x a).toNat (k.x b).toNat (bitsOf (k.x c).toNat 0 16 + 1) (bitsOf (k.x c).toNat 16 4))
    (tableLimits c a))

/-- CPYFI (R443, R425). -/
def execCpyfi (f : BitVec 2) (b c : R5) (t : BitVec 3) (d : BitVec 1) (p : BitVec 2) (st : State) : Res :=
  .next (st.copyIssue [b, c] p.toNat t.toNat
    (fun k => .cpyfi f.toNat (d == 1) p.toNat (k.x b).toNat (k.x c).toNat)
    (fun k =>
      let n := (k.x c).toNat
      if n < 32 ∨ Config.fifoBytes < n ∨ n % 32 ≠ 0 then some (trapAt Cause.fifo f.toNat n) else none))

/-- CPYCV (R443): encoding samples RMODE at issue (R304). -/
def execCpycv (a b c : R5) (t : BitVec 3) (d : BitVec 1) (p : BitVec 2) (st : State) : Res :=
  let go (m : Nat) (st : State) : State :=
    st.copyIssue [a, b, c] p.toNat t.toNat
      (fun k => .cpycv (d == 1) p.toNat (k.x a).toNat (k.x b).toNat (bitsOf (k.x c).toNat 0 16 + 1)
        (Map.get 0 k.arch.fmts (bitsOf (k.x c).toNat 16 3)) m)
      (fun k =>
        let x := (k.x c).toNat
        let f := bitsOf x 16 3
        if 2 ^ 19 ≤ x ∨ f = 0 then some (limitFault (k.x c))
        else if (k.fmtReg f).isNone then some (trapAt Cause.format f 0)
        else if d = 0 ∧ (roundMode m).isNone then some (trapAt Cause.format m 0)
        else none)
  .next (go (bitsOf st.me.arch.rmode.toNat 0 3) st)

/-- PREF (R443): a hint. -/
def execPref (_b _c : R5) (_p : BitVec 2) (st : State) : Res :=
  .next st.retire

/-! ## Performing -/

/-- A command that fails after its commit point (R444): its remaining elements are abandoned, their bytes no longer pending
(R204), it counts as performed, and its core stops at its next boundary. -/
def State.engineFault (s : State) (c : Nat) (x : Cmd) (t : TrapInfo) : State :=
  let s := match if x.pendBytes = 0 then none else s.launchOf c with
    | some (i, t', _) => s.modLaunch i (fun l => l.pendSub t' x.pendBytes)
    | none => s
  (s.cmdDone c x.id).modCore c (fun k => { k with
    stopReq := k.stopReq ++ [.engine (BitVec.ofNat 8 t.code) t.walk t.faddr x.pc] })

/-- Bytes of a source range, with the slice's and the L1's part. -/
def State.fetchRange (s : State) (c space : Nat) (ps : List Part) : State × PBytes :=
  if space = 1 then (s, ps.flatMap (fun p => (s.core c).lsBytes p.pa p.size))
  else (ps.foldl (fun s p => s.touch p.pa p.ca false) s, ps.flatMap (fun p => s.rdBytes p.pa p.size))

/-- Writes bytes over a destination range; device memory drops the line from its core's L1 (R148). -/
def State.putRange (s : State) (c space : Nat) : List Part → PBytes → State
  | [], _ => s
  | p :: ps, bs =>
    let now := bs.take p.size
    let s := if space = 1 then s.lsWrite c p.pa now
      else ((s.wrBytes p.pa now).touch p.pa p.ca true).modCore c (fun k => k.l1Drop deviceTag p.pa)
    State.putRange s c space ps (bs.drop p.size)

/-- The physical addresses of a range, byte by byte. -/
def partAddrs (ps : List Part) : List Nat := ps.flatMap (fun p => (List.range p.size).map (p.pa + ·))

/-- Whether two ranges of device memory share a byte. -/
def partsMeet (ps qs : List Part) : Bool :=
  ps.any (fun p => qs.any (fun q => decide (p.pa < q.pa + q.size) && decide (q.pa < p.pa + p.size)))

/-- The bytes a move writes when its ranges overlap: each read sees the earlier writes (R443). -/
def overlapBytes (s : State) : List Nat → List Nat → Map (Byte × Bool) → PBytes
  | a :: as, d :: ds, m =>
    let b := match Map.find? m a with
      | some b => b
      | none => (s.rd a, s.rdPois a)
    b :: overlapBytes s as ds (Map.put m d b)
  | _, _, _ => []

/-- A row through CPYCV's format: bytes, and the flags of encoding. -/
def cvRow (decoding : Bool) (f : Narrow) (mode : RMode) (bs : PBytes) : PBytes × Dword :=
  if decoding then
    let row := f.rowOf (unpackRow f bs)
    -- an element read from poison is the poison pattern, which the raw row carries (R302)
    (markBytes false (rowBytes row), 0)
  else
    -- an element read from a poisoned granule is the poison value (R283)
    let n := f.target.width / 8
    packRow f mode false ((chunks n f.elems bs).map (fun e =>
      if e.any (·.2) then f.target.poison else bytesNat (e.map (·.1))))

/-- What a move writes from what it read. -/
def CmdKind.convert (w : CmdKind) (bs : PBytes) : PBytes × Dword :=
  match w with
  | .cpycv decoding _ _ _ _ fmt mode => cvRow decoding (Narrow.ofReg fmt) ((roundMode mode).getD .rne) bs
  | _ => (bs, 0)

/-- Appends bytes to a FIFO (R425). -/
def Fifo.push (f : Fifo) (bs : PBytes) : Fifo :=
  { f with bytes := f.bytes ++ bs.map (·.1), pois := f.pois ++ bs.granules }

/-- What performing a command came to. -/
inductive Performed where
  /-- Its moves are done, or sent to another device. -/
  | moved (s : State)
  | failed (s : State) (t : TrapInfo)
  deriving Repr

/-- A transfer of a command to another device or the host (R45, R46). -/
def State.farRequest (s : State) (ctx space : Nat) (kind : PayloadKind) (va n : Nat) (data : List Byte) : Outgoing :=
  if space = 4 then { dev := 2 ^ 18, what := { kind := kind, key := 0, ofs := va, size := n, data := data } }
  else
    let w := s.remoteWindow ctx (va / 2 ^ 58)
    { dev := w.dev, what := { kind := kind, key := w.key, ofs := va % 2 ^ 58, size := n, data := data } }

/-- Where a byte of another device or the host lies. -/
def State.farPlace (s : State) (ctx space va : Nat) : Nat × Dword × Nat :=
  if space = 4 then (2 ^ 18, 0, va)
  else
    let w := s.remoteWindow ctx (va / 2 ^ 58)
    (w.dev, w.key, va % 2 ^ 58)

/-- The bytes that moves between places beyond the device write, each read seeing the command's earlier writes (R443), from
what the places held when they were read. -/
def State.farBytes (s : State) (ctx space : Nat) (ms : List Move) (resp : PBytes) : PBytes :=
  let reads := ms.flatMap (fun m => (List.range m.len).map (fun i => s.farPlace ctx space ((m.src + i) % 2 ^ 64)))
  let writes := ms.flatMap (fun m => (List.range m.len).map (fun i => s.farPlace ctx space ((m.dst + i) % 2 ^ 64)))
  if !reads.any writes.contains then resp
  else
    ((reads.zip (writes.zip resp)).foldl (fun (acc : PBytes × List ((Nat × Dword × Nat) × (Byte × Bool))) e =>
      let b := match List.find? (fun w => w.1 == e.1) acc.2 with | some w => w.2 | none => e.2.2
      (acc.1 ++ [b], (e.2.1, b) :: acc.2)) ([], [])).1

/-- The moves in their order. `resp`: what another device answered to the command's reads. -/
def State.runMoves (s : State) (c : Nat) (x : Cmd) (w : Who) (ss ds : Nat) (resp : PBytes) : List Move → Performed
  | [] => .moved s
  | m :: ms =>
    let src : Checked (List Part) :=
      if 3 ≤ ss ∧ ss ≤ 4 then .ok [] else s.rangeCheck w ss .load (x.word.byElement && ss == 1) m.src m.len
    match src, s.rangeCheck w ds .store (x.word.byElement && ds == 1) m.dst m.out with
    | .fault t, _ => .failed s t
    | _, .fault t => .failed s t
    | .ok ps, .ok qs =>
      let (s1, bs) := if 3 ≤ ss ∧ ss ≤ 4 then (s, resp.take m.len)
        else if 2 ≤ ss ∧ 2 ≤ ds ∧ ds ≠ 3 ∧ ds ≠ 4 ∧ partsMeet ps qs then
          (s, overlapBytes s (partAddrs ps) (partAddrs qs) [])
        else s.fetchRange c ss ps
      let (out, fl) := x.word.convert bs
      let s2 := s1.modCore c (fun k => k.setCmd { (k.cmds.find? (fun y => y.id == x.id)).getD x with
        flags := ((k.cmds.find? (fun y => y.id == x.id)).getD x).flags ||| fl })
      if 3 ≤ ds ∧ ds ≤ 4 then
        if out.any (·.2) then .failed s2 { code := Cause.poison, faddr := BitVec.ofNat 64 m.src }
        else
          let s3 := s2.sendOut [s2.farRequest w.ctx ds .store m.dst m.out (out.map (·.1))]
          State.runMoves s3 c x w ss ds (resp.drop m.len) ms
      else if ds = 0 then
        match x.word with
        | .cpyfi f .. =>
          let sq := squareOf c
          let s3 := s2.modSquare sq (fun q => q.setFifo f ((q.fifo f).push out))
          State.runMoves s3 c x w ss ds (resp.drop m.len) ms
        | _ => .moved s2
      else State.runMoves (s2.putRange c ds qs out) c x w ss ds (resp.drop m.len) ms
    | _, _ => .failed s { code := Cause.lease }

/-- A command's request is refused (R90, R91): its hint is logged, and a fourth refusal takes a reservation while the
slice has room. -/
def State.refuseCmd (s : State) (c id line hint : Nat) : State :=
  match s.logged c 2 hint with
  | .stopped s => s
  | .chosen s _ =>
    match List.find? (fun y => y.id == id) (s.core c).cmds with
    | none => s
    | some y =>
      let n := Map.get 0 y.refusals line
      let s := s.modCore c (fun k => k.setCmd { y with refusals := Map.put y.refusals line (n + 1) })
      if 3 ≤ n then s.reserveLine line c id else s

/-- What keeps a command from going on: nothing, a held leaf or a layer in transition, or a refusal of a line (R37, R57,
R89). -/
inductive Delay where
  | none
  /-- A fault, with which the command ends there. -/
  | fails
  | held
  | refused (line : Nat)
  deriving DecidableEq, Repr

/-- The delay that a range of a command meets. -/
def State.rangeDelay (s : State) (c : Nat) (x : Cmd) (w : Who) (space : Nat) (k : Kind) (va n : Nat) : Delay :=
  match s.rangeCheck w space k false va n with
  | .hold => .held
  | .ok ps =>
    if space = 2 ∨ space = 5 then
      (match ps.find? (fun p => s.refuses c x.id p.pa) with
      | some p => .refused (p.pa / 1024)
      | none => .none)
    else .none
  | .fault _ => .fails

/-- The first delay of a command's moves, in their order, before any that fails. -/
def State.copyDelay (s : State) (c : Nat) (x : Cmd) (w : Who) (ss ds : Nat) (ms : List Move) : Delay :=
  let all := ms.flatMap (fun m => [s.rangeDelay c x w ss .load m.src m.len, s.rangeDelay c x w ds .store m.dst m.out])
  match all.find? (fun d => d != .none) with
  | some .fails => .none
  | some d => d
  | none => .none

/-- Who performs a command. -/
def State.cmdWho (s : State) (c : Nat) (x : Cmd) : Who :=
  { (match x.word with | .mcrd .. => s.whoOf c 0 | _ => s.whoOf c 2) with
    privileged := x.privileged, via := x.via, cache := x.cache }

/-- The parts of device memory that a command touches, and whether it writes them, where its checks pass. -/
def State.cmdParts (s : State) (c : Nat) (x : Cmd) : List (Part × Bool) :=
  let parts (space : Nat) : List (Part × Bool) := (x.word.reach (s.core c) space).flatMap (fun r =>
    match s.checkSpace (s.cmdWho c x) space r.2.2 x.cache r.1 r.2.1 0 with
    | .ok ps => ps.map (fun p => (p, r.2.2 == .store))
    | _ => [])
  parts 2 ++ parts 5

/-- Whether an older command of the core that a slice has refused touches a byte of device memory that a command touches
(R90). -/
def State.behindRefused (s : State) (c : Nat) (x : Cmd) : Bool :=
  let olds := ((s.core c).cmds.takeWhile (fun o => o.id != x.id)).filter (fun o => !o.refusals.isEmpty)
  !olds.isEmpty && olds.any (fun o => (s.cmdParts c o).any (fun p => (s.cmdParts c x).any (fun q => p.1.meets q.1)))

/-- Whether a FIFO fill waits for room or for an older fill of the same core and timeline (R425). -/
def State.fifoWaits (s : State) (c : Nat) (x : Cmd) (ms : List Move) : Bool :=
  match x.word with
  | .cpyfi f .. =>
    let q := (s.square (squareOf c)).fifo f
    decide (Config.fifoBytes < q.bytes.length + (ms.map (·.len)).headD 0)
      || ((s.core c).cmds.takeWhile (fun y => y.id != x.id)).any (fun y => y.tl == x.tl && match y.word with
        | .cpyfi g .. => g == f
        | _ => false)
  | _ => false

/-- Room in a FIFO that only kept bytes deny ends the revocable superstep (R205). -/
def State.fillRoom (s : State) (c : Nat) (x : Cmd) : State :=
  match x.word with
  | .cpyfi f _ _ _ n =>
    let q := (s.square (squareOf c)).fifo f
    if q.bytes.length + n ≤ Config.fifoBytes ∧ Config.fifoBytes < q.bytes.length + q.keptBytes.length + n then
      s.unrevoke (squareOf c)
    else s
  | _ => s

/-- A copy command performs: reads of another device leave first and return in `resp`; writes to one are complete when
it acknowledges them. `hint` is a refusing slice's. -/
def State.copyPerform (s : State) (c : Nat) (x : Cmd) (resp : Option PBytes) (hint : Nat) : State :=
  match x.word.spaces with
  | none => s
  | some (ss, ds) =>
    let w := s.cmdWho c x
    let ms := x.word.moves (s.core c)
    let s := s.fillRoom c x
    let far (n : Nat) := decide (3 ≤ n) && decide (n ≤ 4)
    let near := if far ss then 0 else ss
    let mark (s : State) (n : Nat) : State := s.modCore c (fun k =>
      match k.cmds.find? (fun y => y.id == x.id) with
      | some y => k.setCmd { y with sent := n }
      | none => k)
    if x.sent = 2 then (match resp with | some _ => s.cmdDone c x.id | none => s)
    else if far ss ∧ x.sent = 0 then
      match s.rangesFault w ss .load false (ms.map (fun m => (m.src, m.len))) with
      | some t => s.engineFault c x t
      | none => mark (s.sendOut (ms.map (fun m => s.farRequest w.ctx ss .load m.src m.len []))) 1
    else if far ss ∧ resp.isNone then s
    else if s.fifoWaits c x ms || s.behindRefused c x then s
    else match s.copyDelay c x w near ds (x.word.steps (s.core c)) with
      | .held => (s.keepHeld w (if ss = 2 then ms.flatMap (fun m => pagesOf m.src m.len) else [])).keepHeld w
          (if ds = 2 then ms.flatMap (fun m => pagesOf m.dst m.out) else [])
      | .refused line => s.refuseCmd c x.id line (max 1 hint)
      | _ =>
        let resp := resp.map (fun bs => if far ss && far ds then s.farBytes w.ctx ss ms bs else bs)
        match if near = 2 ∨ near = 5 ∨ ds = 2 ∨ ds = 5 then s.arbitrate c else some s with
        | none => s
        | some s => match s.runMoves c x w ss ds (resp.getD []) (x.word.steps (s.core c)) with
          | .failed s' t => s'.engineFault c x t
          | .moved s' => if far ds then mark (s'.unrevoke (squareOf c)) 2 else s'.cmdDone c x.id

/-! ## Launch queues (R216, R217, R445) -/

/-- Whether a queue's ring is aligned to its size and below the top of device memory (R216). -/
def LaunchQueue.usable (q : LaunchQueue) : Bool :=
  let base := 256 * bitsOf q.base.toNat 8 40
  let size := 256 * 2 ^ q.logd
  base % size == 0 && decide (base + size ≤ Config.memTop)

def LaunchQueue.full (q : LaunchQueue) : Bool := decide (2 ^ q.logd ≤ (q.tail + 65536 - q.head) % 65536)

/-- The physical address of a ring's slot. -/
def LaunchQueue.slot (q : LaunchQueue) (i : Nat) : Nat := 256 * bitsOf q.base.toNat 8 40 + 256 * (i % 2 ^ q.logd)

/-- Appends a record's 256 bytes at a queue's tail and raises TAIL. -/
def State.appendLaunch (s : State) (i : Nat) (bs : PBytes) : State :=
  let q := s.lqueue i
  (s.wrBytes (q.slot q.tail) bs).modLqueue i
    (fun q => { q with tail := (q.tail + 1) % 65536 })

/-- LAUNCH (R445). -/
def execLaunch (a b c : R5) (st : State) : Res :=
  .next (st.unpoisoned [a, b] (fun st => st.untainted [a, b] (fun st =>
    let va := (st.me.x a).toNat
    let i := (st.me.x b).toNat
    if va % 256 ≠ 0 then st.trapWith Cause.bounds va 0
    else if 15 < i then st.trapWith Cause.bounds i 0
    else if st.me.freeSlotNo.isNone then st.wait
    else st.onCheck (pagesOf va 256) (st.check2 (st.whoOf st.cur 0) .load st.me.mdefCache va 256 0) (fun ps =>
      -- the record's read and the ring's write are requests as any other (R89)
      if !st.me.inflight.isEmpty || ps.any (fun p => st.refuses st.cur st.me.serial p.pa) then st.wait
      else
        let bs := ps.flatMap (fun p => st.overlay st.cur (st.lastLoad st.cur) 0 p.pa (st.rdBytes p.pa p.size))
        let ctx := bitsOf (bytesNat (bs.map (·.1))) 34 6
        if st.me.level = 0 ∧ ctx ≠ st.ctxOf st.cur then st.trapWith Cause.priv 0 0
        else
          let q := st.lqueue i
          let no := !q.usable || q.full
          if !no && st.refuses st.cur st.me.serial (q.slot q.tail) then st.wait else
          let done (st : State) : State :=
            let st := ps.foldl (fun s p => s.touch p.pa p.ca false) st
            let st := st.modMe (fun k => { k with loadSeq := k.loadSeq + 1 })
            let st := if no then st else st.appendLaunch i bs
            (st.modMe (fun k => k.setX c (if no then 1 else 0) false Taint.clean)).retire
          if no then done st else st.sends (i :: (PBytes.data bs).map BitVec.toNat) done))))

end Sys2Proof.Machine
end

