-- ==== Sys2Proof/Machine/Solver.lean ====
section
/-! DEFINITION. The quadratic-programme solver: major 0x3E (R446 to R455). -/

namespace Sys2Proof.Machine

/-! ## Arithmetic (R449): FP32 patterns under RNE, no flags; poison dominates -/

def f32Poison : Nat := Fmt.f32.poison
def f32One : Nat := 0x3F800000

/-- The pattern of a rounded result of sources, poison when a source is. -/
def qf (srcs : List Nat) (v : FVal) : Nat := if srcs.contains f32Poison then f32Poison else (Fmt.f32.round .rne v).bits
def qv (x : Nat) : FVal := Fmt.f32.val x
def qAdd (a b : Nat) : Nat := qf [a, b] (FVal.add .rne (qv a) (qv b))
def qSub (a b : Nat) : Nat := qf [a, b] (FVal.sub .rne (qv a) (qv b))
def qMul (a b : Nat) : Nat := qf [a, b] ((qv a).mul (qv b))
def qFma (a b c : Nat) : Nat := qf [a, b, c] (FVal.fma .rne (qv a) (qv b) (qv c))
def qDiv (a b : Nat) : Nat := if a = f32Poison ∨ b = f32Poison then f32Poison else (Fmt.f32.div .rne (qv a) (qv b)).bits
def qNeg (a : Nat) : Nat := if a = f32Poison then a else a ^^^ 2 ^ 31
def qMax (a b : Nat) : Nat := if a = f32Poison ∨ b = f32Poison then f32Poison else (Fmt.f32.minMax true a b).bits
def qMin (a b : Nat) : Nat := if a = f32Poison ∨ b = f32Poison then f32Poison else (Fmt.f32.minMax false a b).bits
def qLt (a b : Nat) : Bool := a != f32Poison && b != f32Poison && FVal.cmp (qv a) (qv b) == some .lt
def qLe (a b : Nat) : Bool :=
  a != f32Poison && b != f32Poison && (FVal.cmp (qv a) (qv b) == some .lt || FVal.cmp (qv a) (qv b) == some .eq)
def qFinite (a : Nat) : Bool := (qv a).isFinite
def qBad (a : Nat) : Bool := a == f32Poison || (qv a).isNan

/-- A chain of FMAs from +0 in ascending index. -/
def qDot (xs ys : List Nat) : Nat := (xs.zip ys).foldl (fun acc e => qFma e.1 e.2 acc) 0

/-- The largest magnitude. -/
def qNorm (xs : List Nat) : Nat := xs.foldl (fun a x => qMax a (if x = f32Poison then x else x % 2 ^ 31)) 0

/-- a·u + b·v for scalars a and b. -/
def qLin (a : Nat) (u : List Nat) (b : Nat) (v : List Nat) : List Nat :=
  (u.zip v).map (fun e => qFma a e.1 (qMul b e.2))

def qZip (f : Nat → Nat → Nat) (u v : List Nat) : List Nat := (u.zip v).map (fun e => f e.1 e.2)

/-- Matrices are lists of rows. -/
abbrev Mat := List (List Nat)
def matVec (a : Mat) (x : List Nat) : List Nat := a.map (fun r => qDot r x)
def matCol (a : Mat) (j : Nat) : List Nat := a.map (fun r => r.getD j 0)
/-- Aᵀw for a matrix of `n` columns. -/
def matTVec (a : Mat) (n : Nat) (w : List Nat) : List Nat := (List.range n).map (fun j => qDot (matCol a j) w)
/-- The symmetric matrix whose lower triangle is given (R449). -/
def symmetric (p : Mat) (n : Nat) : Mat :=
  (List.range n).map (fun i => (List.range n).map (fun j =>
    if j ≤ i then (p.getD i []).getD j 0 else (p.getD j []).getD i 0))

/-- A row of the factor before its diagonal: entry j from the rows of the factor so far (R450). -/
def cholRow (ls : Mat) (krow : List Nat) : Nat → List Nat → List Nat
  | 0, acc => acc
  | fuel + 1, acc =>
    let j := acc.length
    let lj := ls.getD j []
    let t := (acc.zip lj).foldl (fun t e => qFma (qNeg e.1) e.2 t) (krow.getD j 0)
    cholRow ls krow fuel (acc ++ [qDiv t (lj.getD j 0)])

/-- The Cholesky factor of the lower triangle `k`: its rows, and whether it ended before the last (R450). -/
def cholesky : Mat → Mat → Mat × Bool
  | [], ls => (ls, true)
  | krow :: rest, ls =>
    let j := ls.length
    let row := cholRow ls krow j []
    let s := row.foldl (fun s x => qFma (qNeg x) x s) (krow.getD j 0)
    if !qLt 0 s || !qFinite s then (ls, false)
    else cholesky rest (ls ++ [row ++ [(Fmt.f32.sqrt .rne (qv s)).bits]])

/-- (b − chain) / d with one rounding (R451). -/
def qStep (b chain d : Nat) : Nat :=
  if b = f32Poison ∨ chain = f32Poison ∨ d = f32Poison then f32Poison
  else (Fmt.f32.div .rne (FVal.sub .rne (qv b) (qv chain)) (qv d)).bits

/-- L v = b, ascending. -/
def forwardSolve (l : Mat) (b : List Nat) : List Nat :=
  (l.zip b).foldl (fun v e => v ++ [qStep e.2 (qDot e.1 v) (e.1.getD v.length 0)]) []

/-- Lᵀ v = b, descending: `done` holds the entries after the next. -/
def backSolve (l : Mat) (b : List Nat) : Nat → List Nat → List Nat
  | 0, done => done
  | i + 1, done =>
    let col := (matCol l i).drop (i + 1)
    backSolve l b i (qStep (b.getD i 0) (qDot col done) ((l.getD i []).getD i 0) :: done)

/-- FTRS by MODE (R451). -/
def solveMode (mode : Nat) (l : Mat) (b : List Nat) : List Nat :=
  if mode = 0 then forwardSolve l b
  else if mode = 1 then backSolve l b b.length []
  else let v := forwardSolve l b; backSolve l v v.length []

/-! ## Reading and writing the local store -/

/-- `n` FP32 elements at offset `o`; one read from a poisoned granule is poison (R283). -/
def Core.rdF32 (k : Core) (o n : Nat) : List Nat :=
  (List.range n).map (fun i =>
    if k.lsRdPois (o + 4 * i) then f32Poison else bytesNat ((k.lsBytes (o + 4 * i) 4).map (·.1)))

def Core.rdWord (k : Core) (o : Nat) : Nat := bytesNat ((k.lsBytes o 4).map (·.1))

/-- A matrix of `r` rows of 256 bytes, `c` elements used of each. -/
def Core.rdMat (k : Core) (o r c : Nat) : Mat := (List.range r).map (fun i => k.rdF32 (o + 256 * i) c)

def State.wrF32 (s : State) (o : Nat) (xs : List Nat) : State :=
  s.lsWrite s.cur o (markBytes false (xs.flatMap (natBytes 4)))

/-- A vector over `rows` rows, its unused lanes +0 (R447). -/
def State.wrVec (s : State) (o rows : Nat) (xs : List Nat) : State :=
  s.wrF32 o (xs ++ List.replicate (64 * rows - xs.length) 0)

/-- The lower triangle of a matrix; what lies above the diagonal is not touched (R450). -/
def State.wrLower (s : State) (o : Nat) : Nat → Mat → State
  | _, [] => s
  | i, r :: rs => State.wrLower (s.wrF32 (o + 256 * i) (r.take (i + 1))) o (i + 1) rs

/-! ## The problem block (R447, R448) -/

/-- The parts of a block. -/
structure Qp where
  o : Nat
  n : Nat
  m : Nat
  rho : Nat
  sigma : Nat
  alpha : Nat
  eabs : Nat
  erel : Nat
  einf : Nat
  maxit : Nat
  chkev : Nat
  iter : Nat
  status : Nat
  fv : Bool
  run : Bool
  deriving DecidableEq, Repr

def Qp.of (k : Core) (o : Nat) : Qp :=
  let f (i : Nat) : Nat := (k.rdF32 (o + i) 1).headD 0
  let w := k.rdWord (o + 44)
  { o := o, n := k.rdWord o, m := k.rdWord (o + 4), rho := f 8, sigma := f 12, alpha := f 16, eabs := f 20,
    erel := f 24, einf := f 28, maxit := k.rdWord (o + 32), chkev := k.rdWord (o + 36), iter := k.rdWord (o + 40),
    status := bitsOf w 0 8, fv := w.testBit 8, run := w.testBit 9 }

def Qp.size (q : Qp) : Nat := 3584 + 256 * (2 * q.n + q.m)
def Qp.dims (q : Qp) : Bool := decide (1 ≤ q.n) && decide (q.n ≤ 64) && decide (1 ≤ q.m) && decide (q.m ≤ 128)

/-- The header of R447: its fields in range and its zero fields zero. -/
def Qp.headerOk (k : Core) (q : Qp) : Bool :=
  let pos (x : Nat) := qFinite x && x != f32Poison && qLt 0 x
  let nonneg (x : Nat) := qFinite x && x != f32Poison && qLe 0 x
  q.dims && pos q.rho && pos q.sigma && pos q.alpha && qLt q.alpha 0x40000000 && nonneg q.eabs && nonneg q.erel
    && nonneg q.einf && decide (1 ≤ q.maxit) && decide (q.maxit ≤ 2 ^ 20) && decide (1 ≤ q.chkev)
    && decide (q.chkev ≤ 4096) && (k.lsBytes (q.o + 64) 192).all (fun b => b.1 == 0 && !b.2)
    && bitsOf (k.rdWord (q.o + 44)) 10 22 == 0 && (k.lsBytes q.o 64).all (fun b => !b.2)

/-- Writes ITER and the status word. -/
def State.wrStatus (s : State) (q : Qp) : State :=
  s.lsWrite s.cur (q.o + 40) (markBytes false (natBytes 4 q.iter
    ++ natBytes 4 (q.status + (if q.fv then 256 else 0) + (if q.run then 512 else 0))))

def Qp.aOfs (q : Qp) : Nat := q.o + 3584 + 256 * q.n
def Qp.lOfs (q : Qp) : Nat := q.o + 3584 + 256 * (q.n + q.m)

/-! ## Issue -/

/-- A solver word needs a launch with SOLV = 1 (R446). -/
def State.onSolver (s : State) (g : State → State) : State :=
  match s.launchOf s.cur with
  | some (_, _, l) => if l.solv then g s else s.illegal
  | none => s.illegal

/-- A QP fault: FADDR holds the reason (R448). -/
def State.qpFault (s : State) (reason : Nat) : State := s.trapWith Cause.qp reason 0

/-- The local ranges of the solver's addresses are checked: WIN = 0, R52, then the core's own accesses in order. -/
def State.solverCheck (s : State) (va n : Nat) (g : State → State) : State :=
  if va / 2 ^ 21 % 8 ≠ 0 then s.trapWith Cause.bounds va va
  else s.onCheck [] (s.me.checkLocal va n) (fun _ =>
    if s.me.inflight.any (fun b => b.acquires) || !s.me.localClear [(va, n)] then s.wait else g s)

/-- Waits for older commands that conflict with ranges: first byte, length, written (R224). -/
def State.solverAfter (s : State) (ranges : List (Nat × Nat × Bool)) (g : State → State) : State :=
  let cmd := { mkCmd .tladv 0 (ranges.map (fun r => (r.1 % 2 ^ 21, r.2))) with id := s.me.serial }
  if s.me.conflicts cmd then s.wait else g s

/-- A solver command on the scoreboard with the ranges it touches (R224, R446): it waits for older commands that
conflict, and too few free entries stall it. Its micro-operations pass through the core's queue (R221,
notes/assumptions/42.md). -/
def State.solverCmd (s : State) (ranges : List (Nat × Nat × Bool)) (g : State → State) : State :=
  if Config.scoreboardEntries < s.me.scoreboard + ranges.length then s.wait
  else s.solverAfter ranges (fun s => s.vpush 4 4 g)

/-- Runs `g` on the bound block, with the ranges of it that the command touches; none bound is reason 2, and `bad` gives
the reason of a fault of the instruction's own. -/
def State.onBlock (s : State) (bad : Core → Qp → Option Nat) (ranges : Qp → List (Nat × Nat × Bool))
    (g : State → Qp → State) : State :=
  s.onSolver (fun s =>
    match s.me.qp with
    | none => s.qpFault 2
    | some a =>
      s.solverCheck a 3584 (fun s => s.solverAfter [(a, 256, false)] (fun s =>
        let q := Qp.of s.me (a % 2 ^ 21)
        if !q.dims then s.qpFault 1
        else s.solverCheck a q.size (fun s => match bad s.me q with
          | some n => s.qpFault n
          | none => s.solverCmd (ranges q) (fun s => g s q)))))

/-- No fault of its own. -/
def noFault (_ : Core) (_ : Qp) : Option Nat := none

/-- A block without a valid factorisation is reason 3 (R453, R455). -/
def unfactored (_ : Core) (q : Qp) : Option Nat := if q.fv then none else some 3

/-- QPSET (R448). -/
def execQpset (a : R5) (st : State) : Res :=
  .next (st.onSolver (fun s => s.unpoisoned [a] (fun s => s.untainted [a] (fun s =>
    let va := (s.me.x a).toNat
    if va % 256 ≠ 0 then s.trapWith Cause.bounds va va
    else s.solverCheck va 3584 (fun s => s.solverAfter [(va, 256, false)] (fun s =>
      let q := Qp.of s.me (va % 2 ^ 21)
      if !q.headerOk s.me then s.qpFault 1
      else s.solverCheck va q.size (fun s => s.solverCmd [(va, 256, true)] (fun s =>
        ((s.wrStatus { q with iter := 0, status := 0, fv := false, run := false }).modMe
          (fun k => { k with qp := some va })).retire))))))))

/-- The lower triangle of K (R452): row i from its first element to its diagonal. -/
def formK (q : Qp) (p a : Mat) : Mat :=
  (List.range q.n).map (fun i => (List.range (i + 1)).map (fun j =>
    let t0 := (p.getD i []).getD j 0
    let t := if i = j then qAdd t0 q.sigma else t0
    ((matCol a i).zip (matCol a j)).foldl (fun t e => qFma (qMul q.rho e.1) e.2 t) t))

/-- QPFAC (R452). -/
def execQpfac (st : State) : Res :=
  .next (st.onBlock noFault (fun q => [(q.o, 256, true), (q.o + 3584, 256 * (q.n + q.m), false), (q.lOfs, 256 * q.n, true)])
    (fun s q =>
    let p := s.me.rdMat (q.o + 3584) q.n q.n
    let a := s.me.rdMat q.aOfs q.m q.n
    let k := formK q p a
    let s := s.wrLower q.lOfs 0 k
    if k.any (fun r => r.contains f32Poison) then (s.wrStatus { q with status := 6, fv := false }).retire
    else
      let (l, ok) := cholesky k []
      let s := s.wrLower q.lOfs 0 l
      (s.wrStatus (if ok then { q with fv := true } else { q with status := 5, fv := false })).retire))

/-- The vectors of a block. -/
structure QpVecs where
  x : List Nat
  z : List Nat
  y : List Nat
  deriving DecidableEq, Repr

/-- RPRIM, RDUAL, EPRIM and EDUAL (R453). -/
def residuals (q : Qp) (p a : Mat) (qv' : List Nat) (v : QpVecs) : List Nat :=
  let ax := matVec a v.x
  let px := matVec (symmetric p q.n) v.x
  let aty := matTVec a q.n v.y
  let dual := qZip qAdd (qZip qAdd px qv') aty
  [qNorm (qZip qSub ax v.z), qNorm dual,
    qAdd q.eabs (qMul q.erel (qMax (qNorm ax) (qNorm v.z))),
    qAdd q.eabs (qMul q.erel (qMax (qMax (qNorm px) (qNorm aty)) (qNorm qv')))]

/-- PrimalInfeasible (R453). -/
def primalInfeasible (q : Qp) (a : Mat) (l u y yp : List Nat) : Bool :=
  let dy := qZip qSub y yp
  let nrm := qNorm dy
  let sum := (dy.zip (l.zip u)).foldl (fun s e =>
    if qLt 0 e.1 then qFma e.2.2 e.1 s else if qLt e.1 0 then qFma e.2.1 e.1 s
    else if e.1 = f32Poison then f32Poison else s) 0
  qLt 0 nrm && qLe (qNorm (matTVec a q.n dy)) (qMul q.einf nrm) && qLt sum 0

/-- DualInfeasible (R453). -/
def dualInfeasible (q : Qp) (p a : Mat) (qv' l u x xp : List Nat) : Bool :=
  let dx := qZip qSub x xp
  let nrm := qNorm dx
  let lim := qMul q.einf nrm
  qLt 0 nrm && qLe (qNorm (matVec (symmetric p q.n) dx)) lim && qLt (qDot qv' dx) 0
    && ((matVec a dx).zip (l.zip u)).all (fun e =>
      (!qFinite e.2.2 || qLe e.1 lim) && (!qFinite e.2.1 || qLe (qNeg lim) e.1))

/-- One iteration of R453's x, z and y. -/
def admm (q : Qp) (a lf : Mat) (qv' l u : List Nat) (v : QpVecs) : QpVecs :=
  let w := qZip (fun z y => qSub (qMul q.rho z) y) v.z v.y
  let r := qZip (fun x c => qFma q.sigma x (qNeg c)) v.x qv'
  let r := qZip qAdd r (matTVec a q.n w)
  let xt := solveMode 2 lf r
  let zt := matVec a xt
  let beta := qSub f32One q.alpha
  let x := qLin q.alpha xt beta v.x
  let zh := qLin q.alpha zt beta v.z
  let raw := qZip (fun h y => qAdd h (qDiv y q.rho)) zh v.y
  let zn := qZip qMin u (qZip qMax l raw)
  let y := qZip (fun d y => qFma q.rho d y) (qZip qSub zh zn) v.y
  { x := x, z := zn, y := y }

/-- QPITER (R453): one iteration a step, so that a stop falls between two (R215); it retires when it exits. -/
def execQpiter (st : State) : Res :=
  .next (st.onBlock unfactored (fun q => [(q.o, 3584, true), (q.o + 3584, q.size - 3584, false)]) (fun s q =>
      let k := s.me
      let q := if q.run then q else { q with iter := 0, run := true }
      if q.maxit ≤ q.iter then (s.wrStatus { q with status := 2, run := false }).retire
      else
        let p := k.rdMat (q.o + 3584) q.n q.n
        let a := k.rdMat q.aOfs q.m q.n
        let lf := k.rdMat q.lOfs q.n q.n
        let qv' := k.rdF32 (q.o + 256) q.n
        let l := k.rdF32 (q.o + 1792) q.m
        let u := k.rdF32 (q.o + 2304) q.m
        let v : QpVecs := { x := k.rdF32 (q.o + 512) q.n, z := k.rdF32 (q.o + 768) q.m, y := k.rdF32 (q.o + 1280) q.m }
        let v' := admm q a lf qv' l u v
        let q := { q with iter := q.iter + 1 }
        let s := (s.wrVec (q.o + 2816) 2 v.y).wrVec (q.o + 3328) 1 v.x
        let s := ((s.wrVec (q.o + 512) 1 v'.x).wrVec (q.o + 768) 2 v'.z).wrVec (q.o + 1280) 2 v'.y
        let exit (s : State) (st : Nat) : State := (s.wrStatus { q with status := st, run := false }).retire
        let go (s : State) : State := if q.iter = q.maxit then exit s 2 else s.wrStatus q
        if (v'.x ++ v'.z ++ v'.y).any qBad then exit s 6
        else if q.iter % q.chkev = 0 ∨ q.iter = q.maxit then
          let rs := residuals q p a qv' v'
          let s := s.wrF32 (q.o + 48) rs
          if qLe (rs.getD 0 0) (rs.getD 2 0) && qLe (rs.getD 1 0) (rs.getD 3 0) then exit s 1
          else if primalInfeasible q a l u v'.y v.y then exit s 3
          else if dualInfeasible q p a qv' l u v'.x v.x then exit s 4
          else go s
        else go s))

/-- A vector shifted left by `k` stages of width `w`, its tail repeating the last stage (R454). -/
def shiftVec (xs : List Nat) (k w : Nat) : List Nat :=
  let n := xs.length
  (List.range n).map (fun i =>
    if i + k * w < n then xs.getD (i + k * w) 0 else xs.getD (n - w + (i + k * w - n) % w) 0)

/-- A shift that does not fit its block is reason 4 (R454). -/
def badShift (a b : R5) (c : Core) (q : Qp) : Option Nat :=
  let k := (c.x a).toNat
  let v := (c.x b).toNat
  let wx := bitsOf v 0 8
  let wz := bitsOf v 8 8
  if 64 < k ∨ 65536 ≤ v ∨ wx = 0 ∨ 64 < wx ∨ wz = 0 ∨ 128 < wz ∨ q.n < k * wx ∨ q.m < k * wz then some 4 else none

/-- QPSHIFT (R454). -/
def execQpshift (a b : R5) (st : State) : Res :=
  .next (st.onSolver (fun st => st.unpoisoned [a, b] (fun st =>
    st.onBlock (badShift a b) (fun q => [(q.o, 256, true), (q.o + 512, 1280, true)])
    (fun s q =>
      let k := (s.me.x a).toNat
      let v := (s.me.x b).toNat
      let wx := bitsOf v 0 8
      let wz := bitsOf v 8 8
      let sh (o r n w : Nat) (s : State) : State := s.wrVec (q.o + o) r (shiftVec (s.me.rdF32 (q.o + o) n) k w)
      let s := sh 512 1 q.n wx s
      let s := sh 768 2 q.m wz s
      let s := sh 1280 2 q.m wz s
      (s.wrStatus { q with status := 0, iter := 0 }).retire))))

/-- QPRES (R455). -/
def execQpres (st : State) : Res :=
  .next (st.onBlock unfactored (fun q => [(q.o, 256, true), (q.o + 256, 1536, false), (q.o + 3584, 256 * (q.n + q.m), false)])
    (fun s q =>
      let k := s.me
      let v : QpVecs := { x := k.rdF32 (q.o + 512) q.n, z := k.rdF32 (q.o + 768) q.m, y := k.rdF32 (q.o + 1280) q.m }
      let rs := residuals q (k.rdMat (q.o + 3584) q.n q.n) (k.rdMat q.aOfs q.m q.n) (k.rdF32 (q.o + 256) q.n) v
      (s.wrF32 (q.o + 48) rs).retire))

/-- QPSTAT (R455). -/
def execQpstat (c : R5) (st : State) : Res :=
  .next (st.onSolver (fun s =>
    match s.me.qp with
    | none => { (s.modMe (fun k => k.setX c (Config.unboundStatus s.freeCount) false Taint.clean)) with
        freeCount := s.freeCount + 1 }.retire
    | some a => s.solverCheck a 256 (fun s => s.solverCmd [(a, 256, false)] (fun s =>
        let q := Qp.of s.me (a % 2 ^ 21)
        let v := q.status ||| (q.iter * 256) ||| (if q.fv then 2 ^ 31 else 0)
        (s.modMe (fun k => k.setX c (BitVec.ofNat 64 v) false Taint.clean)).retire))))

/-- FCHOL (R450). -/
def execFchol (a b c : R5) (st : State) : Res :=
  .next (st.onSolver (fun s => s.unpoisoned [a, b] (fun s => s.untainted [a, b] (fun s =>
    let va := (s.me.x a).toNat
    let n := (s.me.x b).toNat
    if n = 0 ∨ 64 < n then s.qpFault 1
    else s.solverCheck va (256 * n) (fun s => s.solverCmd [(va, 256 * n, true)] (fun s =>
      let k := (List.range n).map (fun i => s.me.rdF32 (va % 2 ^ 21 + 256 * i) (i + 1))
      let done (s : State) (v : Dword) : State := (s.modMe (fun k => k.setX c v false Taint.clean)).retire
      if k.any (fun r => r.contains f32Poison) then done s 6
      else
        let (l, ok) := cholesky k []
        done (s.wrLower (va % 2 ^ 21) 0 l) (if ok then 0 else 5)))))))

/-- FTRS (R451). -/
def execFtrs (a b c : R5) (st : State) : Res :=
  .next (st.onSolver (fun s => s.unpoisoned [a, b, c] (fun s => s.untainted [a, b, c] (fun s =>
    let va := (s.me.x a).toNat
    let vb := (s.me.x b).toNat
    let v := (s.me.x c).toNat
    let n := bitsOf v 0 7
    let mode := bitsOf v 8 2
    if n = 0 ∨ 64 < n ∨ v.testBit 7 ∨ 1024 ≤ v ∨ mode = 3 then s.qpFault 1
    else s.solverCheck va (256 * n) (fun s => s.solverCheck vb 256 (fun s =>
      s.solverCmd [(va, 256 * n, false), (vb, 256, true)] (fun s =>
      let l := s.me.rdMat (va % 2 ^ 21) n n
      let r := solveMode mode l (s.me.rdF32 (vb % 2 ^ 21) n)
      (s.wrVec (vb % 2 ^ 21) 1 r).retire)))))))

end Sys2Proof.Machine
end

