-- ==== Sys2Proof/Machine/System.lean ====
section
/-! DEFINITION. Control registers and the system instructions: major 0x01 (R456 to R462), with the registers' reads
and writes that the host's writes share. -/

namespace Sys2Proof.Machine

/-! ## Launch-queue control (R216, R217) -/

/-- LNQCTL as it reads. -/
def LaunchQueue.word (q : LaunchQueue) : Dword :=
  BitVec.ofNat 64 ((if q.enabled then 1 else 0) + q.prio * 2 ^ 16 + (if q.pre then 2 ^ 19 else 0) + q.logd * 2 ^ 20
    + q.head * 2 ^ 32 + q.tail * 2 ^ 48)

/-- A well-formed write of LNQCTL. HEAD is read only; a TAIL that passes the ring, or any new TAIL of an unusable
queue, is not accepted and posts QUEUE_OVERFLOW. -/
def State.writeLnqctl (s : State) (i : Nat) (v : Dword) : State :=
  let x := v.toNat
  let q := { s.lqueue i with
    logd := bitsOf x 20 4, pre := x.testBit 19, prio := bitsOf x 16 3, enabled := x.testBit 0 }
  let t := bitsOf x 48 16
  if t ≠ q.tail ∧ (!q.usable ∨ 2 ^ q.logd < (t + 65536 - q.head) % 65536) then
    (s.modLqueue i (fun _ => q)).post 0x07 0 (BitVec.ofNat 64 i)
  else s.modLqueue i (fun _ => { q with tail := t })

/-! ## Layer power (R56, R57, R60) -/

/-- Starts the transition of a layer that its bit asks for, if it differs from the state reached. A power-down makes a
revocable superstep unrevocable (R60). -/
def State.startLayer (s : State) (c : Nat) (b : Bool) : State :=
  let l := (s.core c).layer b
  if l.want = l.on then s.modCore c (fun k => k.setLayer b { l with busy := false, down := false })
  else
    let s := s.modCore c (fun k => k.setLayer b { l with busy := true, down := !l.want })
    if l.want then s else s.unrevoke (squareOf c)

/-- A write of a layer's power bit; during a transition it is recorded. -/
def State.powerLayer (s : State) (c : Nat) (b on : Bool) : State :=
  let l := (s.core c).layer b
  let s := s.modCore c (fun k => k.setLayer b { l with want := on })
  if l.busy then s else s.startLayer c b

/-- A well-formed write of LPWR; BBSY and ABSY are ignored. -/
def State.writeLpwr (s : State) (c : Nat) (v : Dword) : State :=
  (s.powerLayer c false (v.getLsbD 0)).powerLayer c true (v.getLsbD 1)

/-! ## Control registers (R457) -/

/-- Whether a number names a control register. -/
def crListed (n : Nat) : Bool :=
  decide (n ≤ 0x0B) || (decide (0x40 ≤ n) && decide (n ≤ 0x4E)) || (decide (0x50 ≤ n) && decide (n ≤ 0x5F))
    || (decide (0x80 ≤ n) && decide (n ≤ 0xAF))

/-- Read-only registers: LSSIZE, LSPRM, LNQCNT. -/
def crReadOnly (n : Nat) : Bool := n == 0x0A || n == 0x4E || decide (0xA0 ≤ n)

/-- The level that a read and a write of a register asks for. -/
def crReadLevel (n : Nat) : Nat := if n ≤ 0x0B then 0 else 1
def crWriteLevel (n : Nat) : Nat := if n ≤ 0x08 ∨ n = 0x0B then 0 else 1

/-- Whether a register has a copy per context. -/
def crOfContext (n : Nat) : Bool :=
  n == 0x0B || (decide (0x40 ≤ n) && decide (n ≤ 0x4B)) || (decide (0x58 ≤ n) && decide (n ≤ 0x5F))

/-- The value of a register, on core `c` and in context `ctx`. -/
def State.readCr (s : State) (c ctx n : Nat) : Dword :=
  let k := s.core c
  if n = 0x00 then k.arch.mdef
  else if n = 0x01 then k.arch.rmode
  else if n ≤ 0x08 then Map.get 0 k.arch.fmts (n - 1)
  else if n = 0x09 then k.xstat
  else if n = 0x0A then k.lssize
  else if crOfContext n then (s.context ctx).cr n
  else if n = 0x4C then k.lpwr
  else if n = 0x4D then k.lsecc
  else if n = 0x4E then k.lsprm
  else if n = 0x50 then k.epc
  else if n = 0x51 then k.ecause
  else if n = 0x52 then k.faddr
  else if n = 0x53 then k.fstart
  else if n = 0x54 then k.xepc
  else if n = 0x55 then k.xcause
  else if n = 0x56 then k.xfaddr
  else if n = 0x57 then k.xfstart
  else if n < 0x90 then (s.lqueue (n - 0x80)).base
  else if n < 0xA0 then (s.lqueue (n - 0x90)).word
  else BitVec.ofNat 64 (s.lqueue (n - 0xA0)).count

/-- Bits that a register's layout shows as zero. -/
def crZeros (n : Nat) : Nat :=
  if n = 0x00 then 0xFFFFFFFFFFFFF004
  else if n = 0x01 then 0xFFFFFFFFFFFF00F8
  else if n ≤ 0x08 then 0xFFFFFFFF780F0000
  else if n = 0x0B then 0xFFFFFFFF00000000
  else if n = 0x40 then 0xFFFF
  else if n = 0x41 then 0xFE0000000000FFF4
  else if n = 0x42 then 0xFFFF
  else if n = 0x43 then 0xFFFF000000000FFF
  else if n = 0x44 then 0xFFFFFFFFFFFF0000
  else if n = 0x45 then 0xFFFF0000000007FF
  else if n = 0x46 then 0xFFFFFFFFFFFFFFF0
  else if n = 0x47 then 0xFFFFFFFFFF000000
  else if n = 0x48 then 0x3
  else if n = 0x49 then 0xFFFFFFFF00000000
  else if n = 0x4A then 0xFFF
  else if n = 0x4B then 0xFFFFFFFFFFFF0000
  else if n = 0x4C then 0xFFFFFFFFFFFFFFF0
  else if n = 0x4D then 0xFFFFFFFFFFE00000
  else if n = 0x50 ∨ n = 0x54 then 0x3
  else if n = 0x51 ∨ n = 0x55 then 0xFFFFFFFFFF000400
  else if 0x80 ≤ n ∧ n < 0x90 then 0xFFFF0000000000FF
  else if 0x90 ≤ n ∧ n < 0xA0 then 0xFF00FFFE
  else 0

/-- Whether a value may be written to a register. -/
def crAccepts (n : Nat) (v : Dword) : Bool :=
  let x := v.toNat
  n == 0x09 ||
    (x &&& crZeros n) == 0 &&
    (if n = 0x00 then decide (bitsOf x 9 3 ≤ 5) && decide (bitsOf x 6 3 ≤ 4) && decide (bitsOf x 3 3 ≤ 3)
     else if n = 0x0B then x == 0x80000000 || decide (x < 0x7F800000)
     else if n = 0x40 ∨ n = 0x4A then canonical x
     else if n = 0x46 then decide (x ≤ 8)
     else if n = 0x47 then (List.range 8).all (fun i => decide (bitsOf x (3 * i) 3 ≤ 5))
     else if n = 0x49 then decide (1000 ≤ x)
     else if n = 0x4D then decide (20 ≤ bitsOf x 16 5) && decide (bitsOf x 16 5 ≤ 31)
     else if 0x90 ≤ n ∧ n < 0xA0 then decide (1 ≤ bitsOf x 20 4) && decide (bitsOf x 20 4 ≤ 12)
     else true)

/-- Writes a context's register: a latched one takes effect while no task of the context runs (R19). -/
def State.writeCtxCr (s : State) (ctx n : Nat) (v : Dword) : State :=
  let s := s.modContext ctx (fun k => { k with written := Map.set (ctxCrReset n) k.written n v })
  if isLatched n && !s.hasTask ctx then s.applyLatched ctx else s

/-- A write that the register accepts. -/
def State.writeCr (s : State) (c ctx n : Nat) (v : Dword) : State :=
  if n = 0x00 then s.modCore c (fun k => { k with arch := { k.arch with mdef := v } })
  else if n = 0x01 then s.modCore c (fun k => { k with arch := { k.arch with rmode := v } })
  else if n ≤ 0x08 then s.modCore c (fun k => { k with arch := { k.arch with fmts := Map.set 0 k.arch.fmts (n - 1) v } })
  else if n = 0x09 then s.modCore c (fun k => { k with xstat := 0 })
  else if n = 0x4C then s.writeLpwr c v
  else if n = 0x4D then s.modCore c (fun k => { k with lsecc := v })
  else if crOfContext n then s.writeCtxCr ctx n v
  else if n = 0x50 then s.modCore c (fun k => { k with epc := v })
  else if n = 0x51 then s.modCore c (fun k => { k with ecause := v })
  else if n = 0x52 then s.modCore c (fun k => { k with faddr := v })
  else if n = 0x53 then s.modCore c (fun k => { k with fstart := v })
  else if n = 0x54 then s.modCore c (fun k => { k with xepc := v })
  else if n = 0x55 then s.modCore c (fun k => { k with xcause := v })
  else if n = 0x56 then s.modCore c (fun k => { k with xfaddr := v })
  else if n = 0x57 then s.modCore c (fun k => { k with xfstart := v })
  else if 0x80 ≤ n ∧ n < 0x90 then s.modLqueue (n - 0x80) (fun q => { q with base := v })
  else if 0x90 ≤ n ∧ n < 0xA0 then s.writeLnqctl (n - 0x90) v
  else s

/-- MFC (R457): the result has no taint. -/
def execMfc (_m : BitVec 1) (d : R5) (c : BitVec 10) (st : State) : Res :=
  let n := c.toNat
  .next (if !crListed n then st.illegal
    else if st.me.level.val < crReadLevel n then st.trapWith Cause.priv 0 0
    else (st.modMe (fun k => k.setX d (st.readCr st.cur (st.ctxOf st.cur) n) false Taint.clean)).retire)

/-- MTC (R457). -/
def execMtc (_m : BitVec 1) (a : R5) (c : BitVec 10) (st : State) : Res :=
  let n := c.toNat
  .next (if !crListed n || crReadOnly n then st.illegal
    else if st.me.level.val < crWriteLevel n then st.trapWith Cause.priv 0 0
    else st.unpoisoned [a] (fun st =>
      if crAccepts n (st.me.x a) then (st.writeCr st.cur (st.ctxOf st.cur) n (st.me.x a)).retire
      else st.illegal))

/-! ## Traps and returns (R456, R272) -/

/-- TRAP (R456). -/
def execTrap (_m : BitVec 1) (x : BitVec 15) (st : State) : Res :=
  .next (st.trap { code := Cause.syscall, faddr := x.setWidth 64, next := true })

/-- BKPT (R456). -/
def execBkpt (_m : BitVec 1) (x : BitVec 15) (st : State) : Res :=
  .next (st.trap { code := Cause.break', faddr := x.setWidth 64, next := true })

/-- A core's messages that missed two slots may go once its handler has returned (R248). -/
def State.slotsAgain (s : State) (c : Nat) : State :=
  s.modSquare (squareOf c) (fun q => { q with slotMsgs := q.slotMsgs.map (fun m =>
    if m.core = c ∧ 2 ≤ m.missed then { m with missed := 0 } else m) })

/-- ERET (R272). -/
def execEret (_m : BitVec 1) (st : State) : Res :=
  .next (st.guardPriv (fun st =>
    let st := st.modMe Core.eret
    if st.me.level = 0 ∧ !(st.square (squareOf st.cur)).slotMsgs.isEmpty then st.slotsAgain st.cur else st))

/-! ## Pre-emption points (R285, R286, R357) -/

def StopReq.isPreempt : StopReq → Bool
  | .preempt .. => true
  | _ => false

/-- Whether a liveness word is well formed. -/
def liveOk (w : Dword) : Bool := !w.getLsbD 0 && decide (bitsOf w.toNat 50 3 ≤ 4)

/-- The live ranges of a word's list; none when one of them makes the save full. -/
def Core.liveRanges (k : Core) (w : Dword) : Option (List (Nat × Nat)) :=
  let rs := (List.range (bitsOf w.toNat 50 3)).map (fun i =>
    bytesNat ((k.lsBytes (1024 * bitsOf w.toNat 53 11 + 4 * i) 4).map (·.1)))
  if rs.all (fun e => e / 2 ^ 26 == 0 && bitsOf e 13 13 != 0 && decide (bitsOf e 0 13 + bitsOf e 13 13 ≤ 8192)) then
    some (rs.map (fun e => (256 * bitsOf e 0 13, 256 * bitsOf e 13 13)))
  else none

/-- The stop that a liveness word gives; none: a full save. -/
def Core.stopWith (k : Core) (live : Option Dword) : Core :=
  let full : Stopped := { live := none, ranges := [], cause := 0x12 }
  let st := match live with
    | none => full
    | some w => match k.liveRanges w with
      | some rs => { full with live := some w, ranges := rs }
      | none => full
  { k with stopped := some st, stopReq := k.stopReq.filter (fun r => !r.isPreempt) }

/-- A core stops for a save; its gang's superstep becomes unrevocable (R208). Loads that have performed beyond the stop
point are discarded (R270). -/
def State.stopCore (s : State) (c : Nat) (live : Option Dword) : State :=
  (s.modCore c (fun k => { k.stopWith live with early := [] })).unrevoke (squareOf c)

/-- Whether a follower may stop at an instruction that is the last of `n` its leader has sent it: the leader has stopped
(R189, R215). -/
def State.followerMayStop (s : State) (c n : Nat) : Bool :=
  !(s.core c).following || ((s.core (c / 4 * 4)).stopped.isSome && decide ((s.core c).inbox.length ≤ n))

/-- Whether a pre-emption point of a core is honoured: level 0, a request, and no active loop or frame; in a follower, where
its leader has stopped at it (R215). -/
def State.preemptible (s : State) (c : Nat) : Bool :=
  let k := s.core c
  decide (k.level = 0) && k.stopReq.any StopReq.isPreempt && k.arch.seq0 == SeqCtx.reset && s.followerMayStop c 1

/-- PHINT (R285, R286): one that is honoured stops the core once its older loads have performed (R270). -/
def execPhint (_m : BitVec 1) (a : R5) (st : State) : Res :=
  let w := st.me.x a
  .next (if !liveOk w then st.illegal
    else if st.preemptible st.cur then (if st.me.loadsOut then st.wait else st.retire.stopCore st.cur (some w))
    else st.retire)

/-- YIELD (R456). -/
def execYield (_m : BitVec 1) (st : State) : Res :=
  .next (if st.preemptible st.cur then (if st.me.loadsOut then st.wait else st.retire.stopCore st.cur none) else st.retire)

/-! ## Events and the end of a task (R459, R460) -/

/-- WFE (R459, R277). -/
def execWfe (_m : BitVec 1) (st : State) : Res :=
  let done (flag : Bool) : State :=
    (st.modMe (fun k => { k.acquireL1 3 with sleep := none, eventFlag := flag })).retire
  .next (if st.me.eventFlag then done false
    else if !st.me.stopReq.isEmpty then done st.me.eventFlag
    else (st.modMe (fun k => { k with sleep := some .wfe })).wait)

/-- Sets the event flag of a core that runs a task of a context. -/
def State.setEvent (s : State) (ctx c : Nat) : State :=
  if (s.core c).task.isSome ∧ s.ctxOf c = ctx then s.modCore c (fun k => { k with eventFlag := true }) else s

/-- The core of a virtual global core number, in the task's own launch first, then in others of its context. -/
def State.coreOfVirtual (s : State) (id v : Nat) (l : Launch) : Option Nat :=
  let at' (e : Nat × Launch) : Option Nat := match e.2.taskAt v with
    | some t =>
      if (s.core (e.2.pcore t)).task = some (e.1, t) then some (e.2.pcore t) else none
    | none => none
  (at' (id, l)).or ((s.launches.filter (fun e => e.2.ctx == l.ctx)).findSome? at')

/-- SEV (R459): a release at device scope, then the flags. -/
def execSev (_m : BitVec 1) (a : R5) (st : State) : Res :=
  .next (st.unpoisoned [a] (fun st =>
    let v := (st.me.x a).toNat
    if 2 ^ 14 ≤ v ∨ (2 ^ 13 ≤ v ∧ v ≠ 2 ^ 13) then st.trapWith Cause.bounds v 0
    else if !st.me.inflight.isEmpty then st.wait
    else st.withTask (fun id _ l => st.sends [v] (fun st =>
      if v = 2 ^ 13 then
        ((List.range 4).foldl (fun s i => s.setEvent l.ctx (4 * squareOf st.cur + i)) st).retire
      else match st.coreOfVirtual id v l with
        | some c => (st.setEvent l.ctx c).retire
        | none => st.retire))))

/-- The followers of a leader's phalanx that still follow it. -/
def State.followersOf (s : State) (c : Nat) : List Nat :=
  match s.launchOf c with
  | some (_, _, l) =>
    if c % 4 = 0 then ((List.range l.phx).map (c + 1 + ·)).filter (fun f => (s.core f).following) else []
  | none => []

/-- HALT (R460). -/
def execHalt (_m : BitVec 1) (st : State) : Res :=
  let k := st.me
  let fs := st.followersOf st.cur
  .next (if !k.inflight.isEmpty ∨ !k.cmds.isEmpty ∨ k.saWait.isSome ∨ k.gangWait.isSome
      ∨ (st.square (squareOf st.cur)).gang.isSome
      ∨ fs.any (fun f => !(st.core f).inbox.isEmpty || !(st.core f).inflight.isEmpty || !(st.core f).cmds.isEmpty) then
    st.wait
    else (fs.foldl (fun s f => s.endTask f none) st).endTask st.cur none)

/-! ## Invalidation and revocation (R41 to R44, R461) -/

/-- Whether [a, a + n) lies in one half, 64 KiB-aligned and canonical. -/
def rangeOperands (a n : Nat) : Option Nat :=
  if a % 65536 ≠ 0 ∨ !canonical a then some a
  else if n = 0 ∨ n % 65536 ≠ 0 ∨ !canonical (a + n - 1) ∨ (a < 2 ^ 56 ∧ 2 ^ 56 < a + n) then some n
  else none

/-- The units that hold anything an invalidation may reach: cores, then squares' TLBs, then the scheduler's walker. -/
def State.invalUnits (s : State) : List Nat :=
  (s.cores.filter (fun e => !e.2.tlb.isEmpty || !e.2.inflight.isEmpty || !e.2.cmds.isEmpty)).map (·.1)
    ++ (s.squares.filter (fun e => !e.2.tlb.isEmpty)).map (fun e => 8192 + e.1) ++ [10240]

/-- The units that issue accesses of a context's tasks. -/
def State.ctxUnits (s : State) (ctx : Nat) : List Nat :=
  (s.cores.filter (fun e => e.2.task.isSome && s.ctxOf e.1 == ctx)).map (·.1)

/-- Sends core `c`'s request. -/
def State.sendInval (s : State) (v : Inval) : State :=
  { s with invals := Map.put s.invals (s.invals.foldl (fun a e => max a (e.1 + 1)) 0) v }

/-- The request that core `c` waits on. -/
def State.invalOf (s : State) (c : Nat) (revoke : Bool) : Option (Nat × Inval) :=
  List.find? (fun e => e.2.core == c && e.2.revoke == revoke) s.invals

/-- Restarts the lease walks that wait on a residency request (R33, R474). -/
def State.restartWalks (s : State) (f : Head → Bool) : State :=
  { s with heads := s.heads.map (fun e =>
    (e.1, if e.2.asked && e.2.waitsCtx.isSome && f e.2 then { e.2 with leases := none, waitsCtx := none, asked := false }
          else e.2)) }

/-- TLBI and LEASE (R461). `d` holds the ASID or the context. -/
def State.rangeRequest (s : State) (revoke : Bool) (a b d : R5) : State :=
  s.guardPriv (fun s => s.unpoisoned [a, b, d] (fun s =>
    match s.invalOf s.cur revoke with
    | some (id, v) =>
      if !v.toReach.isEmpty || !v.toAck.isEmpty then s.wait
      else
        let s := { s with invals := Map.erase s.invals id }
        -- a completed TLBI answers residency requests for its range (R33)
        let s := if revoke then s else s.restartWalks (fun h => match h.waitsCtx with
          | some ctx => s.asid ctx == v.asid && decide (v.base ≤ h.waitsVa) && decide (h.waitsVa < v.base + v.len)
          | none => false)
        s.retire
    | none =>
      let va := (s.me.x a).toNat
      let n := (s.me.x b).toNat
      let x := (s.me.x d).toNat
      match rangeOperands va n with
      | some bad => s.trapWith Cause.bounds bad va
      | none =>
        if (if revoke then 63 < x else x = 0 ∨ 65535 < x) then s.trapWith Cause.bounds x va
        else if revoke ∧ 16 ≤ (s.context x).revoked.length then s.trapWith Cause.bounds 16 va
        else if s.me.inflight.any (fun i => i.kind.stores) then s.wait
        else if revoke then
          -- a context with no bound task keeps no revocation
          if !s.hasTask x then s.retire
          else
            let s := s.modContext x (fun k => { k with revoked := k.revoked ++ [(va, n)] })
            (s.sendInval { core := s.cur, revoke := true, base := va, len := n, asid := x, toReach := s.ctxUnits x,
                           toAck := [] }).wait
        else
          (s.sendInval { core := s.cur, revoke := false, base := va, len := n, asid := x, toReach := s.invalUnits,
                         toAck := [] }).wait))

/-- TLBI (R461). -/
def execTlbi (_m : BitVec 1) (d a b : R5) (st : State) : Res :=
  .next (st.rangeRequest false a b d)

/-- LEASE (R461). -/
def execLease (_m : BitVec 1) (d a b : R5) (st : State) : Res :=
  .next (st.rangeRequest true a b d)

/-! ## Machine-check records, error blocks, scoresheet marks, the clock (R462, R109 to R112, R456) -/

/-- An error block's register at an offset below 0x100; offsets that R109 names nothing at read zero. -/
def ErrBlock.read (b : ErrBlock) (level ofs : Nat) : Dword :=
  if ofs = 0x00 then b.escr
  else if ofs = 0x08 then BitVec.ofNat 64 (b.cor + b.unc * 2 ^ 32)
  else if ofs = 0x10 then (if level = 3 then b.eslc else 0)
  else if 0x40 ≤ ofs ∧ ofs ≤ 0x78 then b.log.getD ((ofs - 0x40) / 8) 0
  else 0

/-- MCREAD (R462). -/
def execMcread (_m : BitVec 1) (d a : R5) (st : State) : Res :=
  .next (st.guardPriv (fun st => st.unpoisoned [a] (fun st =>
    let x := (st.me.x a).toNat
    let give (v : Dword) : State := st.slotFree (fun st =>
      (st.modMe (fun k => k.setX d v false (k.taints [a.toNat]))).retire)
    if 2 ^ 63 ≤ x ∧ x < 2 ^ 63 + 4 then give (BitVec.ofNat 64 (bitsOf st.me.mcRecord.toNat (64 * (x % 4)) 64))
    else if x % 8 ≠ 0 ∨ 0x6F8 < x then st.trapWith Cause.bounds x 0
    else give ((st.err (x / 256)).read (x / 256) (x % 256)))))

/-- SCMARK (R462): a full log stops the context; in replay the mark waits for its entry (R214). -/
def execScmark (_m : BitVec 1) (a : R5) (st : State) : Res :=
  let v := bitsOf (st.me.x a).toNat 0 56
  .next (match st.launchOf st.cur with
    | none => st.wait
    | some (id, t, l) =>
      if l.scr = 1 then
        match st.record st.cur id t 9 v l with
        | .chosen s _ => s.retire
        | .stopped s => s.wait
      else if l.scr = 2 then
        let pos := st.logSkip l st.cur t 64 (l.logPosOf t)
        let e := st.logEntry l st.cur t pos
        if bitsOf e 56 8 ≠ 9 ∨ bitsOf e 0 56 ≠ v then st.wait
        else (st.setLogPos id t (pos + 16)).retire
      else st.retire)

/-- CLKRD (R456, R245): logged as KIND 5; the result has no taint. -/
def execClkrd (_m : BitVec 1) (d : R5) (st : State) : Res :=
  .next (match st.logged st.cur 5 (st.clockOf (squareOf st.cur)).toNat with
    | .chosen s v => (s.modMe (fun k => k.setX d (BitVec.ofNat 64 v) false Taint.clean)).retire
    | .stopped s => s.wait)

end Sys2Proof.Machine
end

