-- ==== Sys2Proof/Machine/Perform.lean ====
section
/-! DEFINITION. Events by which issued work performs: engine commands, exchange-buffer entries, requests at home
slices, responses and rejections, accesses from outside, translations and their invalidation (R31, R42 to R46, R87 to
R95, R118, R145, R203, R260, R276). -/

namespace Sys2Proof.Machine

/-- Runs each event's body over a list. -/
def State.overList {α : Type} (s : State) (xs : List α) (f : State → α → State) : State := xs.foldl f s

/-! ## Engine commands (R145, ENGINE_COMMAND_PERFORM) -/

/-- LMCMP's result (R385): a poisoned granule differs at its first byte. -/
def lmCompare : Nat → PBytes → PBytes → Nat
  | i, a :: as, b :: bs => if a.2 || b.2 || a.1 != b.1 then i + 1 else lmCompare (i + 1) as bs
  | _, _, _ => 0

/-- LMCMP writes its register and frees its slot. -/
def Core.bindResult (k : Core) (r : Nat) (slot : Option Nat) (v : Dword) : Core :=
  let mine := match slot with | some n => Map.get 32 k.pend r == n | none => true
  let k := if mine then { k.setX (BitVec.ofNat 5 r) v false (k.taintOf r) with pend := Map.erase k.pend r } else k
  match slot with | some n => k.freeSlot n | none => k

/-- Marks a command as sent. -/
def State.markSent (s : State) (c id n : Nat) : State :=
  s.modCore c (fun k => match List.find? (fun y => y.id == id) k.cmds with
    | some y => k.setCmd { y with sent := n }
    | none => k)

/-- Whether messages of a command are still in flight or held. -/
def State.messagesOf (s : State) (c id : Nat) : Bool :=
  s.msgs.any (fun e => match e.2.body with
    | .mcast _ _ _ _ _ sc si => sc == c && si == id
    | .xslot _ _ _ _ _ _ sc si => sc == c && si == id
    | _ => false)

/-- The tasks of a launch that an MCRD's mask names: none for a core that holds no task of it (R388). -/
def Launch.masked (l : Launch) (mask bx by' bz : Nat) : List (Option Nat) :=
  ((List.range 16).filter mask.testBit).map (fun i =>
    let vx := (bx + i / 4 % 2) % 16
    let vy := (by' + i / 8) % 16
    match l.taskAt (((bz * 16 + vy) * 16 + vx) * 4 + i % 4) with
    | some d => if (l.task d).bound then some d else none
    | none => none)

/-- A line's values leave its home slice in one packet for every masked core (R93); a copy for a core without a task is
discarded. -/
def State.mcastSend (s : State) (c : Nat) (x : Cmd) (i line ofs mask bx by' bz : Nat) (bs : PBytes) : State :=
  match s.launchOf c with
  | none => s
  | some (id, t, l) =>
    let ds := l.masked mask bx by' bz
    let ts := ds.filterMap (fun d => d)
    let s := s.modLaunch id (fun l => l.pendSub t (bs.length * (ds.length - ts.length)))
    let src := s.homeOf line
    if ts.isEmpty then s
    else s.launchMsg id t x.step (x.number + i) l 2 src src
      (.mcast id (ts.map (fun d => { task := d, here := src, waypoint := none, vc := 0 })) ofs bs.data bs.granules c x.id)

/-- Sectors of a line that a range of bytes touches. -/
def sectorsOf (pa n : Nat) : BitVec 8 :=
  (List.range 8).foldl (fun b i => if meetsSpan (pa / 1024 * 1024 + 128 * i) 128 pa n then b ||| BitVec.twoPow 8 i else b) 0

/-- Sectors' fill from HBM begins: their line is busy until it lands (R87, R89). -/
def State.startFill (s : State) (line : Nat) (sectors : BitVec 8) (ca : Nat) (mcast : Bool) : State :=
  let s := s.allocLine line (ca == 1)
  if Map.has s.lines line then
    let l := s.line line
    s.setLine line { l with filling := l.filling ||| sectors, mcast := mcast }
  else s

/-- Whether a multicast fill of a line is in flight (R94). -/
def State.mcastFills (s : State) (line : Nat) : Bool := (s.line line).mcast && (s.line line).filling != 0

/-- One line of an MCRD at its home slice (R93, R94): merged with a multicast fill of the line, which then brings its
sectors too, refused, kept for the fill of its absent sectors, or served. -/
def State.mcrdLine (s : State) (c : Nat) (x : Cmd) (i ofs mask bx by' bz hint : Nat) (ps : List Part) : State :=
  let pa := (ps.map (·.pa)).headD 0
  let n := ps.foldl (fun a p => a + p.size) 0
  let ca := (ps.map (·.ca)).headD 0
  let line := pa / 1024
  let ask (s : State) : State := s.modCore c (fun k => match List.find? (fun y => y.id == x.id) k.cmds with
    | some y => k.setCmd { y with asked := y.asked ++ [i] }
    | none => k)
  if s.mcastFills line ∧ ca ≠ 3 then
    if x.asked.contains i then s else ask (s.startFill line (sectorsOf pa n &&& ~~~(s.line line).valid) ca true)
  else if s.refuses c x.id pa ∧ !(x.asked.contains i && !(s.line line).busy && !Map.has s.moving (line / 2048)) then
    s.refuseCmd c x.id line (max 1 hint)
  else
    let absent := sectorsOf pa n &&& ~~~(s.line line).valid
    if absent ≠ 0 ∧ ca ≠ 3 ∧ (Map.has s.lines line ∨ (s.victim line).1 ≠ 16) then ask (s.startFill line absent ca true)
    else match s.arbitrate c with
      | none => s
      | some s =>
        let bs := ps.flatMap (fun p => s.rdBytes p.pa p.size)
        let s := ps.foldl (fun s p => s.touch p.pa p.ca false) s
        let s := s.mcastSend c x i line ofs mask bx by' bz bs
        s.modCore c (fun k => match List.find? (fun y => y.id == x.id) k.cmds with
          | some y => k.setCmd { y with got := y.got ++ [i], refusals := Map.erase y.refusals line }
          | none => k)

/-- An MCRD goes on with the lines that it still lacks; with the last one sent and no copy in flight it has performed
(R388). -/
def State.mcrdPerform (s : State) (c : Nat) (x : Cmd) (a ofs len mask bx by' bz ca hint : Nat) : State :=
  let w := s.cmdWho c x
  match s.check2 w .load ca a len 0 with
  | .hold => s.keepHeld w (pagesOf a len)
  | .fault t => s.engineFault c x t
  | .ok ps =>
    let lines := mcrdLines a len
    let s := (lines.filter (fun e => !x.got.contains e.1)).foldl (fun s e =>
      s.mcrdLine c x e.1 (ofs + e.2.2.2) mask bx by' bz hint
        (ps.filter (fun p => decide (e.2.1 ≤ p.va) && decide (p.va < e.2.1 + e.2.2.1)))) s
    match List.find? (fun y => y.id == x.id) (s.core c).cmds with
    | some y => if y.got.length = lines.length ∧ !s.messagesOf c x.id then s.cmdDone c x.id else s
    | none => s

/-- A member's number in its tree, ascending by task index (R244). -/
def Launch.memberNo (l : Launch) (tr : Tree) (inst t : Nat) : Nat := (l.members tr inst).findIdx (· == t)

/-- A contribution joins its reduction; one that comes after its point has closed, or twice, is discarded and counts as
performed (R209, R244, R389). -/
def State.contribute (s : State) (id t n rop ordinal : Nat) (l : Launch) (tr : Tree) (p : Partial) : State :=
  let inst := l.instOf tr.lvl t
  let drop (s : State) : State := s.modLaunch id (fun l => l.pendSub t (4 * p.vals.length))
  match s.redFind id n inst ordinal with
  | none =>
    let r : Red := { launch := id, tree := n, inst := inst, ordinal := ordinal, given := [(t, (rop, p))], sent := [],
                     flushed := [], flushing := false, timedOut := false, isOver := false }
    { s with reds := Map.put s.reds s.redId r, redId := s.redId + 1 }
  | some (i, r) =>
    if Map.has r.given t || r.isOver || Map.has r.sent (l.vcore t / 4) then drop s
    else { s with reds := Map.put s.reds i { r with given := Map.put r.given t (rop, p) } }

/-- The elements of a REDSEND, with their poison (R389). -/
def Core.redElems (k : Core) (rop a count : Nat) : List (BitVec 32) × List Bool :=
  let es := chunks 4 count (k.lsBytes a (4 * count))
  let vs := es.map (fun e => bytesNat (e.map (·.1)))
  (vs.map (BitVec.ofNat 32), (es.zip vs).map (fun (e, v) => e.any (·.2) || (rop != 3 && v == Fmt.f32.poison)))

/-- An in-layer operation performs as a whole (R69). -/
def State.layerOp (s : State) (c : Nat) (x : Cmd) : State :=
  let k := s.core c
  match x.word with
  | .lmzero a n => (s.lsWrite c (a % 2 ^ 21) (List.replicate n (0, false))).cmdDone c x.id
  | .lmcopy a b n => (s.lsWrite c (a % 2 ^ 21) (k.lsBytes (b % 2 ^ 21) n)).cmdDone c x.id
  | .lmcmp a b n r =>
    let v := lmCompare 0 (k.lsBytes (a % 2 ^ 21) n) (k.lsBytes (b % 2 ^ 21) n)
    (s.modCore c (fun k => k.bindResult r x.slot (BitVec.ofNat 64 v))).cmdDone c x.id
  | _ => s

/-- What an in-layer operation reads of chunk `i`: its source, or both ranges. -/
def Core.chunkRead (k : Core) (w : CmdKind) (i : Nat) : Option PBytes :=
  match w with
  | .lmcopy _ b _ => some (k.lsBytes (b % 2 ^ 21 + 64 * i) 64)
  | .lmcmp a b _ _ => some (k.lsBytes (a % 2 ^ 21 + 64 * i) 64 ++ k.lsBytes (b % 2 ^ 21 + 64 * i) 64)
  | _ => none

/-- Bytes of an in-layer operation, and its first. -/
def CmdKind.layerSpan : CmdKind → Nat × Nat
  | .lmzero a n => (a % 2 ^ 21, n)
  | .lmcopy a _ n => (a % 2 ^ 21, n)
  | .lmcmp a _ n _ => (a % 2 ^ 21, n)
  | _ => (0, 0)

/-- One 64-byte chunk of an in-layer operation, or all that are left: ordinary accesses may fall between chunks (R70), and
the whole source is read before a byte is written (R69). A chunk is read by one event and written by another. -/
def State.layerChunk (s : State) (c : Nat) (x : Cmd) (chunk : Option Nat) : State :=
  let k := s.core c
  let (a, n) := x.word.layerSpan
  let todo := (match chunk with | some i => [i] | none => List.range (n / 64)).filter (fun i => decide (64 * i < n))
  let had := x.staged.getD []
  let now := todo.filter (fun i => !had.any (fun e => e.1 == i))
  let staged := had ++ now.filterMap (fun i => (k.chunkRead x.word i).map (fun bs => (i, bs)))
  let reads := (k.chunkRead x.word 0).isSome
  let bytesOf (i : Nat) : PBytes := match List.find? (fun e => e.1 == i) staged with
    | some e => e.2
    | none => List.replicate 64 (0, false)
  if reads ∧ (staged.length < n / 64 ∨ (chunk.isSome ∧ !now.isEmpty)) then
    s.modCore c (fun k => k.setCmd { x with staged := some staged })
  else match x.word with
    | .lmcmp _ _ _ r =>
      let all := (List.range (n / 64)).map bytesOf
      let v := lmCompare 0 (all.flatMap (·.take 64)) (all.flatMap (·.drop 64))
      (s.modCore c (fun k => k.bindResult r x.slot (BitVec.ofNat 64 v))).cmdDone c x.id
    | _ =>
      let left := todo.filter (fun i => !x.got.contains i)
      let s := left.foldl (fun s i => s.lsWrite c (a + 64 * i) (bytesOf i)) s
      if x.got.length + left.length = n / 64 then s.cmdDone c x.id
      else s.modCore c (fun k => k.setCmd { x with got := x.got ++ left })

/-- Whether the layers of a command's local ranges serve it: a layer in transition delays it, one that is off stops it
(R57, R59). -/
def Core.rangesServe (k : Core) (x : Cmd) : Checked Unit :=
  match (x.ranges.flatMap (fun r => [r.1, r.1 + r.2.1 - 1])).find? (fun a => !k.layerServes a) with
  | none => .ok ()
  | some a => if (k.layer (decide (2 ^ 20 ≤ a))).busy then .hold else .fault (trapAt Cause.layerOff a a)

/-- A command that has failed writes no register: its slot is free. -/
def Core.dropResult (k : Core) (x : Cmd) : Core :=
  match x.slot with
  | some n => { k with pend := k.pend.filter (fun e => e.2 != n) }.freeSlot n
  | none => k

/-- A command that reads the local store performs, once the layers of its ranges serve it. -/
def State.onLayers (s : State) (c : Nat) (x : Cmd) (f : State → State) : State :=
  match (s.core c).rangesServe x with
  | .ok _ => f s
  | .hold => s
  | .fault t => (s.modCore c (fun k => k.dropResult x)).engineFault c x t

/-- An issued engine command performs, when the scoreboard and what it needs let it (R145, R224, R129). `chunk` is a part of
an in-layer operation; `hint` is a refusing slice's. -/
def State.enginePerform (s : State) (c id hint : Nat) (chunk : Option Nat) : State :=
  let k := s.core c
  match List.find? (fun x => x.id == id) k.cmds with
  | none => s
  | some x =>
    if k.conflicts x || k.relHolds x || x.sent == 3 then s
    else if x.word.isInLayer then
      s.onLayers c x (fun s => if chunk.isNone && x.staged.isNone && x.got.isEmpty then s.layerOp c x else s.layerChunk c x chunk)
    else match x.word with
    | .mcrd a ofs len mask bx by' bz ca => s.mcrdPerform c x a ofs len mask bx by' bz ca hint
    | .redsend n rop a count ordinal =>
      match s.launchOf c with
      | none => s.cmdDone c id
      | some (i, t, l) =>
        let tr := s.tree l c n
        let (vs, ps) := k.redElems rop (a % 2 ^ 21) count
        let mask : BitVec 64 := BitVec.twoPow 64 (l.memberNo tr (l.instOf tr.lvl t) t)
        s.onLayers c x (fun s => s.engineSends c x (fun s =>
          (s.contribute i t n rop ordinal l tr { mask := mask, vals := vs, pois := ps }).cmdDone c id))
    | .xsend cls a len peer ofs =>
      if x.sent ≠ 0 then s
      else match s.launchOf c with
      | none => s.cmdDone c id
      | some (i, t, _) =>
        let bs := k.lsBytes (a % 2 ^ 21) len
        let m : SlotMsg := { core := c, cmd := id, launch := i, task := t, step := x.step, number := x.number, cls := cls,
                             peer := peer, ofs := ofs, data := bs.data, pois := bs.granules, missed := 0, hashes := s.cmdHashes c x }
        s.onLayers c x (fun s => (s.modSquare (squareOf c) (fun q => { q with slotMsgs := q.slotMsgs ++ [m] })).markSent c id 1)
    | .tladv => if (k.cmds.takeWhile (fun y => y.id != id)).isEmpty then s.cmdDone c id else s
    | .mepi acc a =>
      -- staged rows wait for the checks of the gang operation that wrote the accumulator (R434, R435)
      let held := match (s.square (squareOf c)).gang with
        | some g => g.isBefore c x || g.op.accs.contains acc
        | none => false
      let ends := (x.staged.getD []).map (fun r => (r.1, r.2.length))
      let bad := checkElems a (fun r => match k.checkLocal r.1 r.2 with
        | .ok _ => (.ok [] : Checked (List Unit))
        | .hold => .hold
        | .fault t => .fault t) ends
      if held then s
      else match bad with
        | .ok _ => s.mepiDone c x
        | .hold => s
        | .fault t => s.engineFault c x t
    | w =>
      let go (s : State) : State := s.copyPerform c x none hint
      match w.spaces with
      | some (_, d) => if 2 ≤ d ∧ x.sent = 0 then s.engineSends c x go else go s
      | none => go s

/-- A residue mismatch that survives its replays in an engine, or in a slice for a buffered SAADD (R279): its core stops at
its next boundary with the machine check. -/
def State.engineCheck (s : State) (c : Nat) (unit lane : Nat) (expct obs : BitVec 3) (pc : Dword) (engine : Bool) : State :=
  s.modCore c (fun k => { k with stopReq := k.stopReq ++ [.residue unit lane expct obs pc engine] })

/-- The units that check an engine command (R278): a REDSEND is checked as the routers combine it, which the model has at
its contribution (notes/assumptions/26.md). -/
def CmdKind.checkedBy (w : CmdKind) (unit lane : Nat) : Bool :=
  match w with
  | .mcrd .. => unit == 8 && lane == 0
  | .redsend .. => unit == 9 && lane == 0
  | .mepi .. => unit == 4 && decide (lane < 64)
  | w => w.spaces.isSome && (unit == 6 || unit == 8) && lane == 0

/-- How a transfer of a granule between its slice and its stack falls to an access's part (R87, R105): none where the part
needs none, false for a read or a fill before it performs, true for the write of a part that its slice keeps no copy of. -/
def State.linkUse (s : State) (p : Part) (writes : Bool) (pa : Nat) : Option Bool :=
  let has := (s.line (p.pa / 1024)).valid.getLsbD (p.pa / 128 % 8)
  if has ∨ !meetsSpan p.pa p.size (pa / 32 * 32) 32 ∧ (p.ca = 3 ∨ p.pa / 128 ≠ pa / 128) then none
  else if !writes then some false
  else if p.ca = 3 then some true
  else if p.size < 128 then some false else none

/-- An access to device memory performs under the error that comes next, where it meets it (R84, R105 to R107): a word of a
slice or of the L1 line that it reads, or a granule's transfer. The error is then past. -/
def State.meets (s : State) (c space : Nat) (ps : List (Part × Bool)) (l1 : Part → Bool) (f : State → State) : State :=
  let past : State := { s with errors := s.errors.drop 1 }
  match s.errors with
  | some (.sliceWord a syn fixed) :: _ =>
    if memoryOf space = 2 && ps.any (fun e => meetsSpan e.1.pa e.1.size a 1) then f (past.sliceError a 0 syn.toNat fixed) else f s
  | some (.granule a lost) :: _ =>
    (match if memoryOf space = 2 then ps.findSome? (fun e => s.linkUse e.1 e.2 a) else none with
    | none => f s
    | some false => f (past.linkError a lost)
    | some true => (f past).linkError a lost)
  | some (.l1Parity sp a) :: _ =>
    (match ps.find? (fun e => l1 e.1 && meetsSpan e.1.pa e.1.size a 1) with
    | some e => if memoryOf space = sp then f (past.l1Error c (e.1.tag space) a) else f s
    | none => f s)
  | _ => f s

/-- Whether a command has gone on, beyond a refusal. -/
def State.cmdMoved (s t : State) (c id : Nat) : Bool :=
  match List.find? (fun x => x.id == id) (s.core c).cmds, List.find? (fun x => x.id == id) (t.core c).cmds with
  | some x, some y => x.got != y.got || x.staged != y.staged || x.sent != y.sent
  | some _, none => true
  | none, _ => false

/-- A command that would now perform meets the error that comes next: a residue mismatch of a unit that checks it (R25,
R279), or a word of the local store, a cached word or a granule that it reads or writes (R69, R72, R105, R106). One that is
not its own meets nothing. -/
def State.engineMeets (s : State) (c : Nat) (cmd : Attempt) : State :=
  let go (s : State) : State := s.enginePerform c cmd.no cmd.hint.toNat cmd.chunk
  let t := go s
  match if s.cmdMoved t c cmd.no then List.find? (fun x => x.id == cmd.no) (s.core c).cmds else none, s.errors with
  | some x, some (.residue unit lane e o persists) :: us =>
    let log (s : State) : State := s.logError 6 persists 2 0 (c * 2 ^ 24 + unit * 2 ^ 8 + lane)
    if !x.word.checkedBy unit lane || !isMismatch e o then { t with errors := us }
    else if persists then
      ((log { s with errors := us }).modCore c (fun k => k.setCmd { x with sent := 3, ranges := [] })).engineCheck c unit lane e o
        x.pc true
    else log { t with errors := us }
  | some x, some (.localWord a syn fixed) :: us =>
    if x.ranges.any (fun r => !r.2.2 && meetsSpan r.1 r.2.1 a 1) then
      go (({ s with errors := us } : State).localError c a 0 syn.toNat fixed)
    else { t with errors := us }
  | some x, some _ :: us =>
    let u := s.meets c 2 (s.cmdParts c x) (fun _ => false) go
    { u with errors := us }
  | some _, none :: us => { t with errors := us }
  | _, _ => t

/-- ENGINE_COMMAND_PERFORM (R145). -/
def execEngineCommandPerform (core : Nat) (cmd : Attempt) (st : State) : Res :=
  .next (st.engineMeets core cmd)

/-! ## Exchange-buffer entries (R203, R276) -/

/-- Whether an entry's exchange phase has begun: every task of its domain instance has passed SSTEP or ended. -/
def State.entryMay (s : State) (e : XEntry) : Bool :=
  match s.launch? e.launch with
  | none => true
  | some l => match l.domainLevel with
    | none => true
    | some d => (l.instTasks d (l.instOf d e.task)).all (fun t => (l.task t).ended || decide (e.step < (l.task t).steps))

/-- A deferred fault (R276): the entry and every later one of its task are discarded and count as performed, and the
task ends: at once when it waits at a barrier or has stopped for a save. -/
def State.deferredFault (s : State) (sq : Nat) (e : XEntry) (t : TrapInfo) : State :=
  let mine (x : XEntry) : Bool := x.launch == e.launch && x.task == e.task
  let gone := (s.square sq).xbuf.filter mine
  let s := s.modSquare sq (fun q => { q with xbuf := q.xbuf.filter (fun x => !mine x) })
  let s := gone.foldl (fun s x => s.modLaunch x.launch (fun l => l.pendSub x.task x.size)) s
  let now (s : State) : State :=
    (s.modCore e.core (fun k => { k with epc := e.pc })).endTask e.core (some { t with deferred := true })
  match s.launch? e.launch with
  | none => s
  | some l =>
    let k := s.core e.core
    if (l.task e.task).ended || k.task != some (e.launch, e.task) then s
    else if k.stopped.isSome then now s
    else match (l.task e.task).phase with
      | .wait _ => now s
      | _ => s.modCore e.core (fun k => { k with
          stopReq := k.stopReq ++ [.deferred (BitVec.ofNat 8 t.code) t.walk e.pc t.faddr t.fstart] })

/-- An entry's slot is free again (R134, R137). -/
def Core.freeEntrySlot (k : Core) (e : XEntry) : Core :=
  match e.slot with
  | some (n, seq) => if Map.get 0 k.loads n = seq then k.freeSlot n else k
  | none => k

/-- An entry's request is refused (R90, R91). -/
def State.refuseEntry (s : State) (sq : Nat) (e : XEntry) (line hint : Nat) : State :=
  match s.logged e.core 2 hint with
  | .stopped s => s
  | .chosen s _ =>
    let s := s.modSquare sq (fun q => { q with
      xbuf := q.xbuf.map (fun x => if x = e then { x with refusals := x.refusals + 1 } else x) })
    if 3 ≤ e.refusals then s.reserveLine line e.core e.id else s

/-- The SA adder's check of a buffered SAADD (R178, R279): one that passes at a replay is counted; one that does not comes
to nothing, and the core of its task is told. -/
def State.saMeets (s : State) (e : XEntry) (gone f : State → State) : State :=
  match s.errors with
  | some (.residue 7 lane x o persists) :: us =>
    if !isMismatch x o ∨ 64 ≤ lane then f s
    else
      let s := ({ s with errors := us } : State).logError 6 persists 2 0 (e.core * 2 ^ 24 + 7 * 2 ^ 8 + lane)
      if !persists then f s
      else
        let s := gone s
        if (s.core e.core).task = some (e.launch, e.task) then s.engineCheck e.core 7 lane x o e.pc false else s
  | _ => f s

/-- One entry resolves again and performs, or waits: for a held leaf (R37), a refusal, a replay. -/
def State.entryPerform (s : State) (sq : Nat) (e : XEntry) (l : Launch) (hint : Nat) : State :=
  let who : Who := { core := e.core, unit := 0, ctx := l.ctx, privileged := e.privileged, leases := l.leases }
  let taken (s : State) : State :=
    ((s.modSquare sq (fun q => { q with xbuf := q.xbuf.filter (fun x => x.core != e.core || x.id != e.id) })).modLaunch
      e.launch (fun l => l.pendSub e.task e.size)).modCore e.core (fun k => k.freeEntrySlot e)
  let start (t : TrapInfo) : TrapInfo := { t with fstart := BitVec.ofNat 64 e.start }
  let atSlice (c : Checked (List Part)) (writes : Bool) (g : State → List Part → State) : State :=
    match c with
    | .fault t => s.deferredFault sq e (start t)
    | .hold => s.keepHeld who [e.va]
    | .ok ps =>
      match ps.find? (fun p => s.refuses e.core e.id p.pa) with
      | some p => s.refuseEntry sq e (p.pa / 1024) (max 1 hint)
      | none => match s.arbitrateFor (some (e.launch, e.task, l)) e.core with
        | none => s
        | some s => taken (s.meets e.core 2 (ps.map (fun p => (p, writes))) (fun _ => false) (fun s => g s ps))
  match e.kind with
  | .saadd h ofs bf16 row pois =>
    let r : SaReq := { saReq saOpAdd (BitVec.ofNat 64 h) (BitVec.ofNat 64 ofs) 0 with
      fmt := if bf16 then 1 else 0, row := row, pois := pois }
    (match s.saCheck l.ctx r with
    | some n => s.deferredFault sq e (r.fault n)
    | none => match s.saEffect e.core (saSlice h) (saIndex h) r with
      | (s', .hold) => s'
      | (s', .fault t) => s'.deferredFault sq e t
      | (_, .ok _) => s.saMeets e taken (fun s => match (s.saEffect e.core (saSlice h) (saIndex h) r).1.chooseFor (some (e.launch, e.task, l)) e.core 6 h with
        | none => s
        | some s' => taken s'))
  | .store space data pois =>
    atSlice (s.checkSpace who space .store e.cache e.va e.size 0) true (fun s ps => ps.foldl (fun s p =>
      s.storeAt e.core p.pa p.ca (decide (2 ≤ p.ca)) (markBytes pois ((data.drop p.idx).take p.size))) s)
  | .atomic op w opnd comp pois =>
    atSlice (s.checkSpace who 2 .atomic e.cache e.va e.size 0) false (fun s ps =>
      (s.atomicAt e.core ((ps.map (·.pa)).headD 0) w ((ps.map (·.ca)).headD 0) op opnd comp pois).1)

/-- The oldest entry of core `c` in its square's buffer. -/
def State.entryHead (s : State) (sq c : Nat) : Option XEntry :=
  List.find? (fun e => e.core == c) (s.square sq).xbuf

/-- The oldest entry of a core tries to perform. -/
def State.exchangePerform (s : State) (sq c hint : Nat) : State :=
  match s.entryHead sq c with
  | none => s
  | some e =>
    if !s.entryMay e then s
    else match s.launch? e.launch with
      | none => s.modSquare sq (fun q => { q with xbuf := q.xbuf.erase e })
      | some l => s.entryPerform sq e l hint

/-- EXCHANGE_ENTRY_PERFORM (R203): the oldest entry of a core of the square. -/
def execExchangeEntryPerform (sq : Nat) (core : Attempt) (st : State) : Res :=
  .next (st.exchangePerform sq core.no core.hint.toNat)

/-! ## Accesses from outside (R45, R89, R260) -/

/-- An atomic from another device at its home slice. -/
def State.outsideAtomic (s : State) (p : Part) (op : Rmw) (opnd comp : Dword) : State × List Byte :=
  let old := s.rdBytes p.pa p.size
  let b := lowBits (8 * p.size) opnd
  let r := op.eval (8 * p.size) (bytesNat (old.map Prod.fst)) b (lowBits (8 * p.size) comp)
  ((s.wrBytes p.pa (markBytes (old.any (·.2)) (natBytes p.size r))).touch p.pa p.ca true, old.map Prod.fst)

/-- An access from outside at its home slices, and its answer, which is handed to the base die. -/
def State.inboundPerform (s : State) (b : Inbound) : State :=
  let (s, data) := b.parts.foldl (fun (acc : State × List Byte) p =>
    match b.what.kind with
    | .load => (acc.1.touch p.pa p.ca false, acc.2 ++ (acc.1.rdBytes p.pa p.size).map (·.1))
    | .atomic op _ x y =>
      let (s, old) := acc.1.outsideAtomic p op x y
      (s, acc.2 ++ old)
    | _ => ((acc.1.wrBytes p.pa (markBytes false ((b.what.data.drop p.idx).take p.size))).touch p.pa p.ca true, acc.2)) (s, [])
  if b.dev = 2 ^ 18 ∧ b.what.kind = .store then s
  else s.sendOut [{ dev := b.dev, what := { kind := .answer, key := 0, ofs := b.what.ofs, size := data.length, data := data } }]

/-- An access from outside performs, and whether it has: not while a checkpoint holds it (R263) or a slice refuses it (R89),
whose fourth refusal takes a reservation (R91). -/
def State.inboundTry (s : State) (b : Inbound) : State × Bool :=
  if s.checkpointing then (s, false)
  else match b.parts.find? (fun p => s.refuses Config.cores b.id p.pa) with
    | some p =>
      let b' : Inbound := { b with parts := b.parts.map (fun q => if q.idx = p.idx then { q with refusals := q.refusals + 1 } else q) }
      let s := { s with inbound := s.inbound.map (fun x => if x.id = b.id then b' else x) }
      (if 3 ≤ p.refusals then s.reserveLine (p.pa / 1024) Config.cores b.id else s, false)
    | none =>
      (s.meets 0 2 (b.parts.map (fun p => (p, b.what.kind == .store))) (fun _ => false) (fun s => s.inboundPerform b), true)

/-! ## Requests at home slices (R87 to R91) -/

/-- The access of a core by its number: one in flight, or a load that has begun early. -/
def State.access? (s : State) (c id : Nat) : Option Access :=
  List.find? (fun a => a.id == id) ((s.core c).inflight ++ (s.core c).early.map (·.acc))

/-- An access performs as far as it may, under the error that comes next where it falls on it (R72, R84, R105 to R107). -/
def State.accessTry (s : State) (c : Nat) (a : Access) : State :=
  let ps := a.parts.filter (fun p => !p.isDone)
  let inL1 (p : Part) : Bool := a.kind == .load && !a.pastL1 p && ((s.core c).l1Find (p.tag a.space) p.pa p.size).isSome
  let go (s : State) : State := s.tryAccess c a
  if a.kind = .rel ∨ !s.mayPerform c a then s
  else if a.space = 1 then
    match s.errors with
    | some (.localWord x syn fixed) :: us =>
      if ps.any (fun p => meetsSpan p.pa p.size x 1) then go (({ s with errors := us } : State).localError c x 0 syn.toNat fixed)
      else go s
    | _ => go s
  else s.meets c a.space (ps.map (fun p => (p, a.kind == .store))) inL1 go

/-- A core's access tries to perform; a REL ends only with what is before it (R129). -/
def State.retryAccess (s : State) (c id : Nat) : State :=
  match s.access? c id with
  | some a => if a.sent then s else s.accessTry c a
  | none => s

/-- The accesses from outside try again, those of one device in their order (R254). -/
def State.serveInbound (s : State) : State :=
  (s.inbound.foldl (fun (acc : State × List Nat) b =>
    if acc.2.contains b.dev then acc
    else match acc.1.inboundTry b with
      | (s, true) => ({ s with inbound := s.inbound.filter (fun x => x.id != b.id) }, acc.2)
      | (s, false) => (s, acc.2 ++ [b.dev])) (s, [])).1

/-- The reservations of a line are served in their order (R91): commands, entries and accesses, from outside too, try
again. One whose request has to wait further keeps its place. -/
def State.serveLine (s : State) (n : Nat) : State :=
  let sl := s.homeOf n
  let s := ((s.reservedAt sl).filter (fun r => r.1 == n)).foldl (fun s r =>
    if r.2.1 = Config.cores then s.serveInbound
    else ((s.retryAccess r.2.1 r.2.2).enginePerform r.2.1 r.2.2 1 none).exchangePerform (squareOf r.2.1) r.2.1 1) s
  if (s.slice sl).reservations.isEmpty then s
  else s.modSlice sl (fun k => { k with reservations := s.reservedAt sl })

/-- A refusal of one part: its hint is logged, and a fourth one takes a reservation while the store has room. -/
def State.refusePart (s : State) (c : Nat) (a : Access) (p : Part) (hint : Nat) : State :=
  match s.logged c 2 hint with
  | .stopped s => s
  | .chosen s _ =>
    let s := s.modCore c (fun k => k.setAccess (a.setPart { p with refusals := p.refusals + 1 }))
    if 3 ≤ p.refusals then s.reserveLine (p.pa / 1024) c a.id else s

/-- The first part of an access that has not performed. -/
def Access.pending (a : Access) : Option Part := List.find? (fun p => !p.isDone) a.parts

/-- Whether a part needs its sector first: a read, or a store of part of it (R87). -/
def Access.needsFill (a : Access) (p : Part) : Bool := a.kind != .store || decide (p.size < 128)

/-- A request that joins a multicast fill is attached to it: an ordinary load (R94). -/
def State.joins (s : State) (a : Access) (p : Part) : Bool :=
  s.mcastFills (p.pa / 1024) && a.kind == .load && p.ca != 3

/-- One part of an access to the local store performs at its bank; with the last one the access has (R51). -/
def State.tryPart (s : State) (c : Nat) (a : Access) (p : Part) : State :=
  match s.performPart c a p with
  | none => s
  | some (s, p') =>
    let a := a.setPart p'
    if a.parts.all (·.isDone) then s.finish c a else s.modCore c (fun k => k.setAccess a)

/-- HOME_SLICE_REQUEST (R89): the request joins a multicast fill, is refused with a hint, starts a fill that it waits
for, or is served. A zero hint says that a missing sector lands in the same step. -/
def execHomeSliceRequest (core acc : Nat) (hint : BitVec 12) (st : State) : Res :=
  .next (match st.access? core acc with
    | none => st
    | some a =>
      if !st.mayPerform core a ∨ (a.space ≠ 1 ∧ memoryOf a.space ≠ 2) then st
      else match a.pending with
        | none => st
        | some p =>
          if a.space = 1 then st.tryPart core a p else
          if st.joins a p then st
          else if st.refuses core acc p.pa then st.refusePart core a p (max 1 hint.toNat)
          else
            let n := p.pa / 1024
            let absent := !(st.line n).valid.getLsbD (p.pa / 128 % 8)
            if absent ∧ a.needsFill p ∧ p.ca ≠ 3 ∧ (Map.has st.lines n ∨ (st.victim n).1 ≠ 16) ∧ hint ≠ 0 then
              st.startFill n (sectorsOf p.pa p.size) p.ca false
            else (st.accessTry core a).freeGrant (sliceReserve (st.homeOf n)))

/-- REFUSAL_RETRY (R90): the request is sent again. -/
def execRefusalRetry (core : Nat) (req : Attempt) (st : State) : Res :=
  .next (match st.access? core req.no with
    | none => st
    | some a => match a.pending with
      | none => st
      | some p =>
        if st.joins a p then st
        else if memoryOf a.space = 2 ∧ st.mayPerform core a ∧ st.refuses core req.no p.pa then
          st.refusePart core a p (max 1 req.hint.toNat)
        else st.retryAccess core req.no)

/-- Every access of every core that waits on a line tries again. -/
def State.wakeLine (s : State) (n : Nat) : State :=
  s.cores.foldl (fun s e => e.2.inflight.foldl (fun s a =>
    if memoryOf a.space = 2 && a.parts.any (fun p => !p.isDone && p.pa / 1024 == n) then s.retryAccess e.1 a.id else s) s) s

/-- The loads and multicast reads that wait at a multicast fill are answered when it lands, before any reservation
(R94). -/
def State.answerJoined (s : State) (n : Nat) : State :=
  let sl := s.homeOf n
  let held := (s.slice sl).reservations
  let s := s.modSlice sl (fun k => { k with reservations := [] })
  let s := s.cores.foldl (fun s e => e.2.cmds.foldl (fun s x =>
    if x.asked.isEmpty then s else s.enginePerform e.1 x.id 1 none) s) s
  let s := s.cores.foldl (fun s e => e.2.inflight.foldl (fun s a =>
    if a.kind == .load && memoryOf a.space = 2 && a.parts.any (fun p => !p.isDone && p.pa / 1024 == n) then
      s.retryAccess e.1 a.id
    else s) s) s
  s.modSlice sl (fun k => { k with reservations := held ++ k.reservations })

/-- An access from outside arrives. -/
def State.outsideAccess (s : State) (b : Inbound) : State :=
  ({ s with inbound := s.inbound ++ [{ b with id := s.inboundNo }], inboundNo := s.inboundNo + 1 }).serveInbound

/-! ## Fills, write-backs, re-homing (R87, R89 to R92, R105) -/

/-- A region on its way: its lines leave their slices, and with the last one gone the new homes take effect (R92). The
reservations for its lines go over to the new homes, which serve them. -/
def State.moveOn (s : State) (region : Nat) : State :=
  match Map.find? s.moving region with
  | none => s
  | some group =>
    let s := s.lines.foldl (fun s e => if e.1 / 2048 = region ∧ e.2.way ≠ 16 then s.dropLine e.1 else s) s
    if s.lines.any (fun e => e.1 / 2048 == region) then s
    else
      let held := s.slices.flatMap (fun e => (s.reservedAt e.1).filter (fun r => r.1 / 2048 == region))
      let s := { s with
        moving := Map.erase s.moving region, rehomed := Map.put s.rehomed region group
        slices := if held.isEmpty then s.slices else s.slices.map (fun e => (e.1, { e.2 with
          reservations := e.2.reservations.filter (fun r => r.1 / 2048 != region) })) }
      let s := held.foldl (fun s r => s.modSlice (s.homeOf r.1) (fun k => { k with reservations := k.reservations ++ [r] })) s
      ((held.map (·.1)).eraseDups.foldl State.serveLine s).serveInbound

/-- What follows once a line is no longer busy: its reservations, then whatever waits on it, are served. -/
def State.lineFree (s : State) (line : Nat) : State :=
  (((s.serveLine line).wakeLine line).moveOn (line / 2048)).serveInbound

/-- SLICE_FILL_DONE (R87, R94, R105): the sectors land, granules read uncorrectably with poison, and the line's
waiting requests are answered. A line that has lost its way leaves. -/
def execSliceFillDone (line : Nat) (link : LinkReport) (st : State) : Res :=
  let l := st.line line
  let lost := (List.range 32).filter (fun g => link.bad.getLsbD g && l.filling.getLsbD (g / 4))
  .next (if l.filling = 0 then st
    else
      let s := st.linkErrors line lost link.mended
      let s := s.setLine line { l with valid := l.valid ||| l.filling, filling := 0, mcast := false }
      let s := if l.mcast then s.answerJoined line else s
      let s := if l.way = 16 then s.dropLine line else s
      s.lineFree line)

/-- WRITE_BACK_DONE (R89, R91, R105): the line ceases to be busy and its reservations are served. A write whose link
replays are exhausted leaves the stack's granules poisoned, which shows once the slice no longer holds the sector. -/
def execWriteBackDone (back : WriteBack) (st : State) : Res :=
  let line := back.line
  let l := st.line line
  let lost := (List.range 32).filter (fun g => back.link.bad.getLsbD g && l.writing.getLsbD (g / 4) && !l.valid.getLsbD (g / 4))
  .next (if l.writing = 0 then st
    else
      let s := st.linkErrors line lost back.link.mended
      let s := if l.way = 16 then { s with lines := Map.erase s.lines line }
        else s.setLine line { l with writing := 0 }
      s.lineFree line)

/-- Whether a context's page tables map a byte of a region, from the table of level `fuel - 1`. -/
def State.tableMaps (s : State) (lo hi : Nat) : Nat → Nat → Bool
  | 0, _ => false
  | level + 1, table =>
    (List.range (if level = 0 then 32 else 512)).any (fun i =>
      let p := s.rd8 (table + 8 * i)
      pteV p && !pteBad level p &&
        if pteLeaf p then decide (ptePa p < hi) && decide (lo < ptePa p + leafSize level)
        else State.tableMaps s lo hi level (ptePa p))

/-- Whether a context maps a byte of a 2 MiB region, by its tables or its heap window. -/
def State.ctxMaps (s : State) (region ctx : Nat) : Bool :=
  let lo := region * 2 ^ 21
  let hi := lo + 2 ^ 21
  let root := 4096 * bitsOf ((s.context ctx).inf 0x43).toNat 12 36
  let (b, n, ofs, _, _) := s.window ctx
  let w := (b + ofs) % 2 ^ 64
  (decide (root + 4096 ≤ Config.memTop) && s.tableMaps lo hi 5 root)
    || (n != 0 && decide (w < hi) && decide (lo < w + n))

/-- REHOME (R92): a region that one context alone maps moves to a group of slices; its lines are written back and
dropped first, while requests for it are refused. A region with undo records waits. -/
def execRehome (region : Nat) (group : List Nat) (st : State) : Res :=
  let undone := st.undo.any (fun u => match u with
    | .atomic _ _ pa .. => pa / 1024 / 2048 == region
    | _ => false)
  let ok := (List.range 12).any (fun g => group.length == 2 ^ g) && group.all (· < Config.squares)
  let one := ((List.range Config.contexts).filter (st.ctxMaps region)).length == 1
  .next (if !ok || undone || !one || Map.has st.moving region then st
    else ({ st with moving := Map.put st.moving region group }).moveOn region)

/-! ## Receive buffers (R252) -/

/-- BURST of a port in bytes (R251). -/
def Port.burst (p : Port) : Nat := 1024 * bitsOf p.cfg.toNat 16 16

/-- Bytes free in a reader port's receive buffer: what has been delivered through it and not been taken fills it (R252). -/
def State.receiveRoom (s : State) (port : Nat) : Nat :=
  Config.receiveBytes port - (s.delivered.filter (fun e => e.port == port)).foldl (fun a e => a + 32 + e.what.data.length) 0

/-- A reader port passes its token on; with less than BURST free it holds the token (R252). -/
def State.passToken (s : State) (port : Nat) : State :=
  let p := s.port port
  if s.receiveRoom port < p.burst then s.modPort port (fun p => { p with held := true })
  else { s.modPort port (fun p => { p with held := false }) with sentTokens := s.sentTokens ++ [(port, none, p.gen)] }

/-- Tokens that are held pass on once there is room. -/
def State.freeTokens (s : State) : State :=
  (List.range 22).foldl (fun s i => if (s.port i).held then s.passToken i else s) s

/-! ## Responses and rejections (R45, R46, R137) -/

/-- The parts of an access filled from a response, each with the bytes it asked for. -/
def Access.answerParts (a : Access) (pois : Bool) : List Part → List Byte → List (Part × List Byte)
  | [], _ => []
  | p :: ps, bs =>
    if p.isDone then (p, []) :: Access.answerParts a pois ps bs
    else match a.kind with
      | .load =>
        let now := bs.take p.ask.2
        ({ p with isDone := true, data := (now.drop (p.pa - p.ask.1)).take p.size, pois := pois }, now)
          :: Access.answerParts a pois ps (bs.drop p.ask.2)
      | .atomic _ =>
        ({ p with isDone := true, data := bs.take p.size, pois := pois }, []) :: Access.answerParts a pois ps (bs.drop p.size)
      | _ => ({ p with isDone := true }, []) :: Access.answerParts a pois ps bs

/-- The L1's part in a part of a remote or host access that has its answer (R79 to R81). -/
def Core.farL1 (k : Core) (a : Access) (p : Part) (now : List Byte) : Core :=
  let tag := p.tag a.space
  match a.kind with
  | .load =>
    if !a.pastL1 p && !p.pois && !now.isEmpty then k.l1Alloc (l1Of tag p.ask.1 (markBytes false now)) (p.ca == 1)
    else if now.isEmpty then k else k.l1Drop tag p.pa
  | .store =>
    if 2 ≤ p.ca then k.l1Drop tag p.pa
    else k.l1Update tag p.pa (markBytes false ((a.data.drop p.idx).take p.size))
  | .atomic _ => k.l1Drop tag p.pa
  | .rel => k

/-- The answer of a device to a request for `need` bytes at `ofs`, from the frames that it has delivered (R254): its bytes,
whether it is a rejection, and what is left. `n` bounds the frames. -/
def takeAnswer (dev : Nat) : Nat → Nat → Nat → List Delivered → Option (List Byte × Bool × List Delivered)
  | 0, _, _, _ => none
  | n + 1, ofs, need, ds =>
    match ds.find? (fun d => d.dev == dev && (d.what.kind == .answer || d.what.kind == .reject) && d.what.ofs == ofs) with
    | none => none
    | some d =>
      let rest := ds.erase d
      let got := d.what.data
      if d.what.kind = .reject then some ([], true, rest)
      else if need ≤ got.length then some (got, false, rest)
      else (takeAnswer dev n (ofs + got.length) (need - got.length) rest).map (fun r => (got ++ r.1, r.2.1, r.2.2))

/-- The answers to requests, in their order: the bytes, whether one is a rejection, and the delivered frames that are left;
none while one has not come. The host answers outside the frames. -/
def takeAnswers : List Outgoing → List Delivered → Option (List Byte × Bool × List Delivered)
  | [], ds => some ([], false, ds)
  | o :: os, ds =>
    let need := match o.what.kind with | .load => o.what.size | .physLoad => o.what.size | .atomic .. => o.what.size | _ => 0
    match takeAnswer o.dev (o.what.size / 4096 + 2) o.what.ofs need ds with
    | none => none
    | some (bs, bad, ds) => (takeAnswers os ds).map (fun r => (bs ++ r.1, bad || r.2.1, r.2.2))

/-- Goes on with a response to requests: for another device the delivered answers are it, and they leave the receive
buffer. -/
def State.withAnswers (s : State) (os : List Outgoing) (rejected : Bool) (data : List Byte) (f : State → State) : State :=
  if os.all (fun o => o.dev == 2 ^ 18) then f s
  else match takeAnswers (os.flatMap Outgoing.pieces) s.delivered with
    | some (bs, bad, ds) =>
      if bad ≠ rejected ∨ (!rejected ∧ bs ≠ data) then s else f ({ s with delivered := ds } : State).freeTokens
    | none => s

/-- The requests beyond the device that a command waits for. -/
def State.cmdRequests (s : State) (c : Nat) (x : Cmd) : List Outgoing :=
  match x.word.spaces with
  | none => []
  | some (ss, ds) =>
    let ctx := s.ctxOf c
    if x.sent = 1 then (x.word.moves (s.core c)).map (fun m => s.farRequest ctx ss .load m.src m.len [])
    else (x.word.steps (s.core c)).map (fun m => s.farRequest ctx ds .store m.dst m.out (List.replicate m.out 0))

/-- A request that left the device has its answer, or a rejection: the access performs; a load that began early has its
value and waits for its instruction. -/
def State.answered (s : State) (c : Nat) (a : Access) (data : List Byte) (pois : Bool) : State :=
  let ps := a.answerParts pois a.parts data
  let a' := { a with parts := ps.map (·.1) }
  let early := (s.core c).early.any (fun e => e.acc.id == a.id)
  let s := s.modCore c (fun k => ps.foldl (fun k e => k.farL1 a e.1 e.2) ((k.setAccess a').setEarly a'))
  if early then s else s.finish c a'

/-- ACCESS_RESPONSE (R137): to a request that left the device, its data or acknowledgement, as frames have delivered them;
otherwise the access
performs at its slice and is answered in the same step. A command's number names the command. -/
def execAccessResponse (core acc : Nat) (data : List Byte) (st : State) : Res :=
  .next (match st.access? core acc with
    | some a =>
      if a.sent then st.withAnswers a.requests false data (fun st => st.answered core a data false)
      else st.retryAccess core acc
    | none => match List.find? (fun x => x.id == acc) (st.core core).cmds with
      | some x =>
        if x.sent = 0 || x.word.spaces.isNone then st
        else st.withAnswers (st.cmdRequests core x) false data
          (fun st => st.copyPerform core x (some (markBytes false data)) 1)
      | none => st)

/-- Counts a rejection in its context and posts it (R45). -/
def State.remoteError (s : State) (ctx addr : Nat) : State :=
  (s.modContext ctx (fun k => { k with remoteErrors := k.remoteErrors + 1 })).post 0x09 ctx (BitVec.ofNat 64 addr)

/-- A rejected load's bytes, from a draw. -/
def rejectedBytes (draw n : Nat) : List Byte := (List.range n).map (Config.rejectedByte draw)

/-- REMOTE_REJECTION (R45, R46): a load's value is poisoned, a store is discarded; the event is counted in the context
that issued it and posted. -/
def execRemoteRejection (core acc : Nat) (st : State) : Res :=
  let drawn : State := { st with freeCount := st.freeCount + 1 }
  .next (match st.access? core acc with
    | some a =>
      if !a.sent then st
      else
        let n := a.parts.foldl (fun t p => t + p.ask.2) 0
        if a.space = 3 ∧ (takeAnswers (a.requests.flatMap Outgoing.pieces) st.delivered).isNone then st
        else drawn.withAnswers a.requests true [] (fun s =>
          (s.remoteError a.ctx ((a.parts.map (·.va)).headD 0)).answered core
            (if a.kind = .store then { a with parts := a.parts.map (fun p => { p with isDone := true }) } else a)
            (rejectedBytes st.freeCount n) true)
    | none => match List.find? (fun x => x.id == acc) (st.core core).cmds with
      | some x =>
        if x.sent = 0 || x.word.spaces.isNone then st
        else
          let ms := x.word.moves (st.core core)
          let n := ms.foldl (fun t m => t + m.len) 0
          drawn.withAnswers (st.cmdRequests core x) true [] (fun s =>
            (s.remoteError (st.ctxOf core) ((ms.map (fun m => if x.sent = 1 then m.src else m.dst)).headD 0)).copyPerform core x
              (some (markBytes true (rejectedBytes st.freeCount n))) 1)
      | none => st)

/-! ## Requests of other devices (R45) -/

/-- The leases of a context's launches that are not over. -/
def State.ctxLeases (s : State) (ctx : Nat) : List (Nat × Nat × Bool) :=
  (s.launches.filter (fun e => e.2.ctx == ctx && !e.2.isOver)).flatMap (fun e => e.2.leases)

/-- The unit of the device's own walker. -/
def walkerUnit : Nat := 10240

/-- Whether leases less revocations together hold a range: every 64 KiB piece of it lies in one that permits the kind. -/
def leasesHold (ls : List (Nat × Nat × Bool)) (revs : List (Nat × Nat)) (k : Kind) (va n : Nat) : Bool :=
  (spans 65536 va n).all (fun sp => leased ls revs k sp.1 sp.2.1)

/-- REMOTE_ACCESS (R45, R254, R394): this device is the target of a request, which is the oldest that its device has
delivered: one that is not changes nothing. The key selects an export whose range must lie within its context's leases; the
offset is translated there. A privileged access to a physical address performs where this device admits the other's. A
response or a rejection goes back. -/
def execRemoteAccess (dev : Nat) (key : Dword) (ofs : Nat) (kind : PayloadKind) (size : Nat) (data : List Byte) (st : State) :
    Res :=
  let p : Payload := { kind := kind, key := key, ofs := ofs, size := size, data := data }
  .next (match List.find? (fun (e : Delivered) => e.dev == dev && e.what.kind != .answer && e.what.kind != .reject) st.delivered with
    | none => st
    | some e => if e.what ≠ p then st
    else
      let s := ({ st with delivered := st.delivered.erase e } : State).freeTokens
      let reject : State :=
        s.sendOut [{ dev := dev, what := { kind := .reject, key := p.key, ofs := p.ofs, size := 0, data := [] } }]
      let does : Kind := match kind with | .load => .load | .atomic .. => .atomic | _ => .store
      if kind = .physLoad ∨ kind = .physStore then
        if !st.admitted.contains dev ∨ Config.memTop < ofs + size then reject
        else s.outsideAccess { id := 0, dev := dev, parts := (spans 128 ofs size).map (fun (a, n, i) => mkPart a a n 2 i),
                               what := { p with kind := if kind = .physLoad then .load else .store } }
      else match List.find? (fun (e : Nat × Export) => e.2.key == p.key) st.exports with
      | none => reject
      | some (_, x) =>
        let ls := st.ctxLeases x.ctx
        let revs := st.revokedFor walkerUnit x.ctx
        if x.len < p.ofs + p.size || (does.writes && !x.writes) || !leasesHold ls revs .load x.base x.len then reject
        else
          let w : Who := { core := walkerUnit, unit := 4, ctx := x.ctx, privileged := false, leases := ls }
          match st.check2 w does 0 (x.base + p.ofs) p.size 0 with
          | .fault _ => reject
          | .hold => st.keepHeld w (pagesOf (x.base + p.ofs) p.size)
          | .ok ps => s.outsideAccess { id := 0, dev := dev, parts := ps, what := p })

/-! ## Translation and its invalidation (R30, R31, R42 to R44, R461) -/

/-- Entries of a TLB by kind (R30): access stream, fetch, copy engine, square. -/
def tlbSize (kind : Nat) : Nat := if kind = 0 then 32 else if kind = 1 then 16 else if kind = 2 then 8 else 2048

/-- A TLB with a leaf added, unless it holds the page; one that is full drops its oldest entry. -/
def tlbAdd (es : List TlbEntry) (kind asid va : Nat) (p n : Nat) : List TlbEntry :=
  let mine := es.filter (fun e => e.unit == kind)
  if (tlbFind es kind asid va).isSome then es
  else (if tlbSize kind ≤ mine.length then (match mine.head? with | some e => es.erase e | none => es) else es)
    ++ [{ unit := kind, asid := asid, va := va / n * n, size := n, leaf := BitVec.ofNat 64 p }]

/-- TLB_FILL (R31): kind 3 is the square's TLB. -/
def execTlbFill (kind own ctx : Nat) (va : Dword) (st : State) : Res :=
  .next (if st.asid ctx = 0 ∨ !canonical va.toNat then st
    else match st.walk ctx va.toNat with
    | .leaf p n =>
      if kind = 3 then st.modSquare own (fun q => { q with tlb := tlbAdd q.tlb 3 (st.asid ctx) va.toNat p n })
      else if kind < 3 then st.modCore own (fun k => { k with tlb := tlbAdd k.tlb kind (st.asid ctx) va.toNat p n })
      else st
    | _ => st)

/-- TLB entries outside a range of an ASID. -/
def tlbDrop (es : List TlbEntry) (asid base len : Nat) : List TlbEntry :=
  es.filter (fun e => !(e.asid == asid && decide (e.va < base + len) && decide (base < e.va + e.size)))

/-- A request with nothing outstanding whose core has gone is over. -/
def State.closeInval (s : State) (id : Nat) : State :=
  match Map.find? s.invals id with
  | some v =>
    if v.core = Config.cores ∧ v.toReach.isEmpty ∧ v.toAck.isEmpty then { s with invals := Map.erase s.invals id } else s
  | none => s

/-- The elements of a core's commands that hold in an invalidated range are resolved again, with the checks of an access
issued now; one that fails ends its command (R37, R38, R444). -/
def State.resolveAgain (s : State) (c asid base len : Nat) : State :=
  if s.asid (s.ctxOf c) ≠ asid then s
  else (s.core c).cmds.foldl (fun s x =>
    let gone (e : Nat × Nat × Nat) : Bool := pteM e.2.2 && decide (e.1 < base + len) && decide (base < e.1 + e.2.1)
    if !x.via.any gone then s
    else
      let w := { s.cmdWho c x with via := x.via.filter (fun e => !gone e) }
      match (x.word.reach (s.core c) 2).findSome? (fun r => match s.check2 w r.2.2 x.cache r.1 r.2.1 0 with
        | .fault t => some t
        | _ => none) with
      | some t => s.engineFault c x t
      | none => s.modCore c (fun k => k.setCmd { x with via := s.viaFor w x.word })) s

/-- INVALIDATION_REQUEST (R42): the unit drops every overlapping entry of the ASID, and what it holds in the range is
resolved again (R37). -/
def execInvalidationRequest (id unit : Nat) (st : State) : Res :=
  .next (match Map.find? st.invals id with
    | none => st
    | some v =>
      if v.revoke || !v.toReach.contains unit then st
      else
        let v' : Inval := { v with toReach := v.toReach.erase unit, toAck := v.toAck ++ [unit] }
        let s := { st with invals := Map.put st.invals id v' }
        if unit < 8192 then
          (s.modCore unit (fun k => { k with tlb := tlbDrop k.tlb v.asid v.base v.len })).resolveAgain unit v.asid v.base v.len
        else if unit < walkerUnit then
          s.modSquare (unit - 8192) (fun q => { q with tlb := tlbDrop q.tlb v.asid v.base v.len })
        else { s with heldLeaves := tlbDrop s.heldLeaves v.asid v.base v.len })

/-- Whether a core has performed every access and command element that it resolved in a range under an ASID, of a task
that has ended too; a held element has resolved through no entry (R42, R43, R470). -/
def State.drained (s : State) (c asid base len : Nat) : Bool :=
  let k := s.core c
  k.inflight.all (fun a => a.space != 2 || s.asid a.ctx != asid ||
    a.parts.all (fun p => p.isDone || decide (base + len ≤ p.va) || decide (p.va + p.size ≤ base))) &&
    (s.asid (s.ctxOf c) != asid ||
      k.cmds.all (fun x => x.via.all (fun e => pteM e.2.2 || decide (base + len ≤ e.1) || decide (e.1 + e.2.1 ≤ base))))

/-- Whether what a unit has resolved in a range has performed: a square's TLB answers for the square's cores. -/
def State.unitDrained (s : State) (unit asid base len : Nat) : Bool :=
  if unit < 8192 then s.drained unit asid base len
  else if unit < walkerUnit then (List.range 4).all (fun i => s.drained (4 * (unit - 8192) + i) asid base len)
  else true

/-- INVALIDATION_ACK (R42): the unit acknowledges once it has drained. -/
def execInvalidationAck (id unit : Nat) (st : State) : Res :=
  .next (match Map.find? st.invals id with
    | none => st
    | some v =>
      if !v.toAck.contains unit || !st.unitDrained unit v.asid v.base v.len then st
      else ({ st with invals := Map.put st.invals id { v with toAck := v.toAck.erase unit } }).closeInval id)

/-- REVOCATION_REQUEST (R461): the unit rejects new accesses to the range from now on, and acknowledges. -/
def execRevocationRequest (id unit : Nat) (st : State) : Res :=
  .next (match Map.find? st.invals id with
    | none => st
    | some v =>
      if !v.revoke || !v.toReach.contains unit then st
      else ({ st with invals := Map.put st.invals id { v with toReach := v.toReach.erase unit } }).closeInval id)

end Sys2Proof.Machine
end

