-- ==== Sys2Proof/Machine/Fabric.lean ====
section
/-! DEFINITION. The on-cube fabric's events: routing, delivery, channels, reduction, scheduled exchange, clocks, the
lane-group arbiter, tempo, probes, link failures (R221 to R249, R59, R262, R268). -/

namespace Sys2Proof.Machine

/-! ## Routes (R235, R236) -/

/-- Coordinates of a square: x, y and z for dimensions 0, 1 and 2. -/
def coord (sq d : Nat) : Nat := if d = 0 then sq % 16 else if d = 1 then sq / 16 % 16 else sq / 256 % 8
def dimSize (d : Nat) : Nat := if d = 2 then 8 else 16
def dimStep (d : Nat) : Nat := if d = 0 then 1 else if d = 1 then 16 else 256

/-- The square with coordinate `d` replaced. -/
def withCoord (sq d v : Nat) : Nat := sq - coord sq d * dimStep d + v * dimStep d

/-- The neighbour in dimension `d`, on the + side or the − side. -/
def neighbour (sq d : Nat) (plus : Bool) : Nat :=
  withCoord sq d ((coord sq d + (if plus then 1 else dimSize d - 1)) % dimSize d)

/-- The dimensions of an order (R234). -/
def dimOrder (o : Nat) : List Nat :=
  match o with
  | 0 => [0, 1, 2]
  | 1 => [0, 2, 1]
  | 2 => [1, 0, 2]
  | 3 => [1, 2, 0]
  | 4 => [2, 0, 1]
  | _ => [2, 1, 0]

/-- The next square from `here` to `dst`: the shorter way round each dimension in turn, + at equal distance. -/
def nextHop (order here dst : Nat) : Nat :=
  match (dimOrder order).find? (fun d => coord here d != coord dst d) with
  | none => here
  | some d =>
    let up := (coord dst d + dimSize d - coord here d) % dimSize d
    neighbour here d (decide (2 * up ≤ dimSize d))

/-- The squares of a route after `here`. -/
def routeFrom (order dst : Nat) : Nat → Nat → List Nat
  | 0, _ => []
  | fuel + 1, here => if here = dst then [] else nextHop order here dst :: routeFrom order dst fuel (nextHop order here dst)

/-- Longest route of the torus. -/
def routeMax : Nat := 20

/-- The order of a class in a context. -/
def State.orderOf (s : State) (ctx cls : Nat) : Nat := bitsOf ((s.context ctx).inf 0x47).toNat (3 * cls) 3

/-- Whether a fault-region entry applies to a class and its box holds a square. -/
def faultHits (e : Dword) (cls sq : Nat) : Bool :=
  let x := e.toNat
  let within (v lo hi : Nat) : Bool := decide (lo ≤ v) && decide (v ≤ hi)
  x.testBit 63 && x.testBit cls && within (coord sq 0) (bitsOf x 31 4) (bitsOf x 27 4)
    && within (coord sq 1) (bitsOf x 23 4) (bitsOf x 19 4) && within (coord sq 2) (bitsOf x 16 3) (bitsOf x 13 3)
def faultWaypoint (e : Dword) : Nat := bitsOf e.toNat 48 4 + 16 * bitsOf e.toNat 44 4 + 256 * bitsOf e.toNat 41 3

/-- One hop of a packet of a class from `here` to `dst`: round a fault region by its entry's waypoint, at most one; to
virtual channel 1 once it crosses a dateline (R233). -/
def State.hop (s : State) (ctx cls dst here : Nat) (waypoint : Option Nat) (vc : Nat) : Nat × Option Nat × Nat :=
  let order := s.orderOf ctx cls
  let wp := match waypoint with
    | some w => some w
    | none =>
      (List.find? (fun e => (routeFrom order dst routeMax here).any (faultHits e.2 cls)) (s.square here).faults).map
        (fun e => faultWaypoint e.2)
  let goal := match wp with | some w => if w < 2048 then w else dst | none => dst
  let next := nextHop order here goal
  let dateline := (List.range 3).any (fun d => decide (1 < max (coord here d) (coord next d) - min (coord here d) (coord next d)))
  (next, match wp with
    | some w => if w < 2048 ∧ next = w then some 2048 else some w
    | none => none, if dateline then 1 else vc)

/-- A hop of each copy of a multicast packet that has not reached its task's square (R93). -/
def State.hopCopy (s : State) (ctx : Nat) (l : Launch) (x : Copy) : Copy :=
  let dst := squareOf (l.pcore x.task)
  if x.here = dst then x
  else
    let h := s.hop ctx 2 dst x.here x.waypoint x.vc
    { x with here := h.1, waypoint := h.2.1, vc := h.2.2 }

/-- One hop of a message. -/
def State.forward (s : State) (m : Msg) : Msg :=
  match m.body with
  | .mcast id copies ofs data pois sc si =>
    (match s.launch? id with
    | some l => { m with body := .mcast id (copies.map (s.hopCopy m.ctx l)) ofs data pois sc si }
    | none => m)
  | _ =>
    if m.here = m.dst then m
    else
      let h := s.hop m.ctx m.cls m.dst m.here m.waypoint m.vc
      { m with here := h.1, waypoint := h.2.1, vc := h.2.2 }

/-- A reserve entry of a router buffer is free again once a packet of its class has left the square (R227). -/
def State.freeBuffer (s : State) (sq cls : Nat) : State :=
  match s.reserves.find? (fun q => q / 128 == sq && decide (q % 128 < 64) && q % 8 == cls) with
  | some q => { s with reserves := s.reserves.erase q }
  | none => s

/-- ROUTER_FORWARD (R235): one hop towards the destination. -/
def execRouterForward (msg : Nat) (st : State) : Res :=
  .next (match Map.find? st.msgs msg with
    | none => st
    | some m =>
      let m' := st.forward m
      if m' = m then st else ({ st with msgs := Map.put st.msgs msg m' }).freeBuffer m.here m.cls)

/-! ## Delivery (R59, R209, R235, R240) -/

/-- The launch and the tasks a message goes to. -/
def MsgBody.target : MsgBody → Nat × List Nat
  | .chan l t .. => (l, [t])
  | .slotReturn l t _ => (l, [t])
  | .mcast l cs .. => (l, cs.map (·.task))
  | .xslot l t .. => (l, [t])

/-- Whether two messages are of one class, from one source unit: a core's, or for a multicast response a slice's. -/
def Msg.sameFlow (m n : Msg) : Bool :=
  m.cls == n.cls && m.src == n.src && (m.cls == 2 || (m.launch == n.launch && m.task == n.task))

/-- Whether no earlier message of the flow is on its way to task `t` (R235). -/
def State.inTurn (s : State) (id : Nat) (m : Msg) (t : Nat) : Bool :=
  !s.msgs.any (fun e => decide (e.1 < id) && e.2.sameFlow m && e.2.body.target.1 == m.body.target.1
    && e.2.body.target.2.contains t)

/-- Whether a message of one receiver is there, in its turn. -/
def State.arrived (s : State) (id : Nat) (m : Msg) : Bool :=
  m.here == m.dst && m.body.target.2.all (s.inTurn id m)

/-- Whether a receiver's layers can take a message's bytes now (R57, R59). -/
def Core.takes (k : Core) (a n : Nat) : Bool :=
  match k.checkLocal a n with
  | .ok _ => true
  | .hold => false
  | .fault t => t.code != Cause.layerOff

/-- The bytes of a message are no longer pending (R204). -/
def State.landed (s : State) (m : Msg) (n : Nat) : State := s.modLaunch m.launch (fun l => l.pendSub m.task n)
def State.dropMsg (s : State) (id : Nat) : State := { s with msgs := Map.erase s.msgs id }

/-- Whether a receiver has accepted a message before (R209), and the mark that it has. -/
def Core.seen (k : Core) (m : Msg) : Bool := k.accepted.contains (m.task, m.superstep, m.number)
def Core.accept (k : Core) (m : Msg) : Core :=
  { k with accepted := k.accepted.filter (fun t => t.1 != m.task || decide (m.superstep ≤ t.2.1))
      ++ [(m.task, m.superstep, m.number)] }

/-- Whether a command has sent every line it reads. -/
def Cmd.allSent (x : Cmd) : Bool :=
  match x.word with
  | .mcrd a _ len .. => x.got.length == (mcrdLines a len).length
  | _ => true

/-- A command of a core performs once all it sends is sent and none of it is on its way. -/
def State.cmdSettles (s : State) (c cmd : Nat) : State :=
  match List.find? (fun x => x.id == cmd) (s.core c).cmds with
  | some x => if x.allSent ∧ !s.messagesOf c cmd then s.cmdDone c cmd else s
  | none => s

/-- An exchange message has been written or discarded. -/
def State.copyEnds (s : State) (id c cmd : Nat) : State := (s.dropMsg id).cmdSettles c cmd

/-- Writes a copy within the usable bytes; one that passes them is discarded and counted (R388). -/
def State.copyWrite (s : State) (c ofs : Nat) (m : Msg) (bs : PBytes) : State :=
  match (s.core c).checkLocal ofs bs.length with
  | .ok _ => s.lsWrite c ofs bs
  | _ => s.modContext m.ctx (fun k => { k with remoteErrors := k.remoteErrors + 1 })

/-- A channel message reaches its receiver's next ring slot. -/
def State.deliverChan (s : State) (id : Nat) (m : Msg) (l : Launch) (t ch : Nat) (bs : PBytes) : State :=
  let c := l.pcore t
  let e := s.chEntry l c t ch
  let k := s.core c
  let r := k.chan ch
  let slot := (r.count + r.waiting) % e.slots
  let a := e.base + slot * e.size
  if !(l.task t).bound then (s.landed m bs.length).dropMsg id
  else if k.seen m then
    -- a discarded duplicate leaves its slot free at once
    let back : Msg := { m with cls := 4, src := m.dst, here := m.dst, dst := m.src, waypoint := none, vc := 0,
                               body := .slotReturn m.launch m.task e.pch, task := t }
    let s := (s.landed m bs.length).dropMsg id
    { s with msgs := Map.put s.msgs s.msgId back, msgId := s.msgId + 1 }
  else if !k.takes a bs.length then s
  else match s.choose c 3 (2 ^ 19 + 16 * t + ch) with
    | none => s
    | some s =>
      let s := (s.lsWrite c a bs).modCore c (fun k =>
        (k.setChan ch { k.chan ch with waiting := (k.chan ch).waiting + 1 }).accept m)
      (s.landed m bs.length).dropMsg id

/-- A copy of a multicast packet at its task's square is written there, or discarded where the task is not bound or has
accepted it; it waits for its turn and for the layer: what remains of the packet. -/
def State.deliverCopy (s : State) (id : Nat) (m : Msg) (l : Launch) (ofs : Nat) (bs : PBytes) (x : Copy) : State × Bool :=
  let c := l.pcore x.task
  if x.here ≠ squareOf c ∨ !s.inTurn id m x.task then (s, false)
  else if !(l.task x.task).bound || (s.core c).seen m then (s.landed m bs.length, true)
  else if !(s.core c).takes ofs bs.length then (s, false)
  else ((((s.copyWrite c ofs m bs).modCore c (fun k => k.accept m)).landed m bs.length), true)

/-- The copies of a multicast packet that can be delivered are. -/
def State.deliverCopies (s : State) (id : Nat) (m : Msg) (l : Launch) (copies : List Copy) (ofs : Nat) (data : List Byte)
    (pois : List Bool) (sc si : Nat) : State :=
  let (s, left) := copies.foldl (fun (acc : State × List Copy) x =>
    match acc.1.deliverCopy id m l ofs (withGranules data pois) x with
    | (s, true) => (s, acc.2)
    | (s, false) => (s, acc.2 ++ [x])) (s, [])
  if left.isEmpty then s.copyEnds id sc si
  else { s with msgs := Map.put s.msgs id { m with body := .mcast m.body.target.1 left ofs data pois sc si } }

/-- MESSAGE_DELIVERY (R59, R206): an arrived message is written into its receiver's local store; it waits while a layer
it names is off or changing. -/
def State.deliver (s : State) (id : Nat) : State :=
  match Map.find? s.msgs id with
  | none => s
  | some m =>
    match s.launch? m.body.target.1 with
    | none => s.dropMsg id
    | some l => match m.body with
      | .slotReturn .. => s
      | .mcast _ copies ofs data pois sc si => s.deliverCopies id m l copies ofs data pois sc si
      | .chan _ t ch data pois => if s.arrived id m then s.deliverChan id m l t ch (withGranules data pois) else s
      | .xslot _ t cls ofs data pois sc si =>
        let c := l.pcore t
        let bs := withGranules data pois
        if !s.arrived id m then s
        else if !(l.task t).bound || (s.core c).seen m then (s.landed m bs.length).copyEnds id sc si
        else if !(s.core c).takes ofs bs.length then s
        else
          let s := (s.copyWrite c ofs m bs).modCore c (fun k =>
            { k.accept m with xbytes := Map.set 0 k.xbytes cls (Map.get 0 k.xbytes cls + bs.length) })
          (s.landed m bs.length).copyEnds id sc si

def execMessageDelivery (msg : Nat) (st : State) : Res :=
  .next (st.deliver msg)

/-- SLOT_RETURN (R240): the sender's free-slot count rises by 1. -/
def execSlotReturn (msg : Nat) (st : State) : Res :=
  .next (match Map.find? st.msgs msg with
    | none => st
    | some m => match m.body, st.launch? m.body.target.1 with
      | .slotReturn _ t ch, some l =>
        if !st.arrived msg m then st
        else
          let c := l.pcore t
          let s := if (l.task t).bound then
              st.modCore c (fun k => k.setChan ch { k.chan ch with count := (k.chan ch).count + 1 })
            else st
          s.dropMsg msg
      | .slotReturn .., none => st.dropMsg msg
      | _, _ => st)

/-! ## Reduction (R241 to R244) -/

/-- One combining step of two elements with their poison (R243, R389). -/
def redStep (rop : Nat) (draw : Nat) (x y : BitVec 32 × Bool) : BitVec 32 × Bool :=
  let f := Fmt.f32
  if x.2 || y.2 then (if rop = 3 then Config.poisonedSum draw else BitVec.ofNat 32 f.poison, true)
  else
    let a := x.1.toNat
    let b := y.1.toNat
    (BitVec.ofNat 32 (match rop with
      | 0 => (f.round .rne (FVal.add .rne (f.val a) (f.val b))).bits
      | 1 => (f.minMax true a b).bits
      | 2 => (f.minMax false a b).bits
      | _ => a + b), false)

def Partial.combine (rop : Nat) (p q : Partial) : Partial :=
  let es := (List.zip (List.zip p.vals p.pois) (List.zip q.vals q.pois)).mapIdx (fun i e => redStep rop i e.1 e.2)
  { mask := p.mask ||| q.mask, vals := es.map (·.1), pois := es.map (·.2) }

/-- Pairwise, left to right; an empty partial stands for no input. -/
def Partial.combineAll (rop : Nat) (ps : List Partial) : Partial :=
  match ps.filter (fun p => p.mask != 0) with
  | [] => { mask := 0, vals := [], pois := [] }
  | p :: ps => ps.foldl (Partial.combine rop) p

/-- The virtual square of a task. -/
def Launch.vsq (l : Launch) (t : Nat) : Nat := l.vcore t / 4

/-- The squares of a tree: every square of every member's route to the root (R242). -/
def Launch.treeSquares (l : Launch) (tr : Tree) (ms : List Nat) (root : Nat) : List Nat :=
  ms.flatMap (fun t => l.vsq t :: routeFrom tr.ord root routeMax (l.vsq t))

/-- The neighbours whose routes enter a square, in port order (R243). -/
def treeInputs (ord : Nat) (squares : List Nat) (node root : Nat) : List Nat :=
  ([(0, false), (0, true), (1, false), (1, true), (2, false), (2, true)].map (fun p => neighbour node p.1 p.2)).filter
    (fun n => squares.contains n && n != root && nextHop ord n root == node)

/-- Whether a square of a tree combines: members lie in it, or routes meet (R242). -/
def isCombine (l : Launch) (tr : Tree) (ms : List Nat) (root node : Nat) : Bool :=
  ms.any (fun t => l.vsq t == node) || decide (2 ≤ (treeInputs tr.ord (l.treeSquares tr ms root) node root).length)

/-- A reduction's tree as its launch declares it: descriptor, members, the root's square. -/
def State.redTree (s : State) (r : Red) : Option (Launch × Tree × List Nat × Nat) :=
  match s.launch? r.launch with
  | none => none
  | some l =>
    let tr := s.tree l (l.pcore 0) r.tree
    let ms := l.members tr r.inst
    match ms.head?.bind (l.rootOf tr) with
    | some root => some (l, tr, ms, l.vsq root)
    | none => none

/-- What a combine point holds: the members of the square in core order as one local input, after the ports. -/
def Red.holds (r : Red) (l : Launch) (tr : Tree) (ms : List Nat) (root node : Nat) : Partial :=
  let rop := match r.given with | e :: _ => e.2.1 | [] => 0
  let mine := ms.filter (fun t => l.vsq t == node)
  let local' := Partial.combineAll rop (mine.filterMap (fun t => (Map.find? r.given t).map (·.2)))
  let ports := (treeInputs tr.ord (l.treeSquares tr ms root) node root).filterMap (fun n => Map.find? r.sent n)
  Partial.combineAll rop (ports ++ [local'])

/-- Whether every input of a combine point is present. -/
def Red.ready (r : Red) (l : Launch) (tr : Tree) (ms : List Nat) (root node : Nat) : Bool :=
  (ms.filter (fun t => l.vsq t == node)).all (fun t => Map.has r.given t)
    && (treeInputs tr.ord (l.treeSquares tr ms root) node root).all (fun n => Map.has r.sent n)

/-- The reduction ends at its root: its contributions have performed (R204). -/
def State.redOver (s : State) (id : Nat) (r : Red) : State :=
  let s := r.given.foldl (fun s e => s.modLaunch r.launch (fun l => l.pendSub e.1 (4 * e.2.2.vals.length))) s
  { s with reds := Map.put s.reds id { r with isOver := true } }

/-- A combine point sends one partial on; at the root the reduction is over. -/
def State.redSend (s : State) (id : Nat) (r : Red) (node root : Nat) (p : Partial) : State :=
  let r := { r with sent := Map.put r.sent node p }
  if node = root then s.redOver id r else { s with reds := Map.put s.reds id r }

/-- REDUCTION_COMBINE (R242, R243). Contributions of differing operation or count combine nowhere (R390). -/
def State.redCombine (s : State) (red node : Nat) : State :=
  match Map.find? s.reds red with
  | none => s
  | some r => match s.redTree r with
    | none => s
    | some (l, tr, ms, root) =>
      if r.isOver || Map.has r.sent node || (r.flushed.contains node && isCombine l tr ms root node) then s
      else if r.mixed then
        if node = root ∧ ms.all (fun t => Map.has r.given t) then s.redOver red r else s
      else if (l.treeSquares tr ms root).contains node && r.ready l tr ms root node then
        s.redSend red r node root (r.holds l tr ms root node)
      else s

def execReductionCombine (red node : Nat) (st : State) : Res :=
  .next (st.redCombine red node)

/-- REDWAIT_TIMEOUT (R244): the root of a reduction that a REDWAIT with a time-out awaits sends its flush. -/
def execRedwaitTimeout (core : Nat) (st : State) : Res :=
  .next (match (st.core core).redWait, st.launchOf core with
    | some (n, k), some (id, t, l) =>
      let tr := st.tree l core n
      let inst := l.instOf tr.lvl t
      if l.rootOf tr t ≠ some t then st
      else match st.redFind id n inst k with
        | some (i, r) =>
          if r.isOver then st else { st with reds := Map.put st.reds i { r with flushing := true, timedOut := true } }
        | none =>
          let r : Red := { launch := id, tree := n, inst := inst, ordinal := k, given := [], sent := [], flushed := [],
                           flushing := true, timedOut := true, isOver := false }
          { st with reds := Map.put st.reds st.redId r, redId := st.redId + 1 }
    | _, _ => st)

/-- FLUSH_ARRIVE (R244): the flush has reached the point after the point next to it on the root's side. What the point
holds goes on; one that has sent its partial sends nothing more, and a square where nothing combines passes the flush on. At the root the reduction ends once every input of it
has sent. -/
def State.flushArrive (s : State) (red node : Nat) : State :=
  match Map.find? s.reds red with
  | none => s
  | some r => match s.redTree r with
    | none => s
    | some (l, tr, ms, root) =>
      let squares := l.treeSquares tr ms root
      if !r.flushing || r.isOver || !squares.contains node then s
      else if node = root then
        if (treeInputs tr.ord squares root root).all (fun n => Map.has r.sent n) then
          s.redSend red r root root (r.holds l tr ms root root)
        else s
      else
        let up := nextHop tr.ord node root
        if r.flushed.contains node || !(up == root || r.flushed.contains up) then s
        else
          let r' := { r with flushed := r.flushed ++ [node] }
          if Map.has r.sent node || !isCombine l tr ms root node then { s with reds := Map.put s.reds red r' }
          else s.redSend red r' node root (r.holds l tr ms root node)

def execFlushArrive (red node : Nat) (st : State) : Res :=
  .next (st.flushArrive red node)

/-! ## Scheduled exchange (R246 to R248) -/

/-- The exchange slot that a game-clock time lies in, its start and its end in the frame (R247). -/
def slotAt (frame slots clock : Nat) : Option (Nat × Nat × Nat) :=
  if frame = 0 then none
  else ((List.range slots).map (fun i => (i, i * frame / slots, (i + 1) * frame / slots))).find?
    (fun e => decide (e.2.1 ≤ clock % frame) && decide (clock % frame < e.2.2))

/-- Whether a held message may go: its task runs on its core or has ended, and it does not wait for the handler of its
second miss to return (R248). -/
def State.slotDue (s : State) (cls : Nat) (m : SlotMsg) : Bool :=
  m.cls == cls && match s.launch? m.launch with
    | some l => (l.task m.task).ended || (decide (m.missed < 2) && (s.core m.core).task == some (m.launch, m.task))
    | none => false

/-- What a missed slot is logged as: its class, and the message that it holds, by its core and number. -/
def State.missKey (s : State) (sq i : Nat) : Nat :=
  match (s.square sq).slotMsgs.find? (s.slotDue i) with
  | some m => 1 + 2 * (i + 16 * (m.core % 4 + 4 * (m.number % 2 ^ 32)))
  | none => 2 * i

/-- Whether the square misses slot `i`: its offset exceeds the guard, or a hash is not compared yet (R215); logged as KIND 7, and replay holds the same messages
(R215). -/
def State.slotMissed (s : State) (sq c i guard : Nat) : State × Bool :=
  let miss := decide (guard < (s.square sq).offset.natAbs)
    || (s.square sq).slotMsgs.any (fun m => s.slotDue i m && m.hashes.isSome)
  match s.launchOf c with
  | some (id, t, l) =>
    if l.scr = 2 then
      let pos := s.logSkip l c t 64 (l.logPosOf t)
      let e := s.logEntry l c t pos
      if bitsOf e 56 8 = 7 ∧ bitsOf e 0 56 = s.missKey sq i then (s.setLogPos id t (pos + 16), true) else (s, false)
    else if l.scr = 1 ∧ miss then
      match s.record c id t 7 (s.missKey sq i) l with
      | .chosen s _ => (s, true)
      | .stopped s => (s, true)
    else (s, miss)
  | none => (s, miss)

/-- A held message has missed its slot: XSTAT, and after a second miss the task's stop (R248). -/
def Core.missSlot (k : Core) : Core :=
  let n := k.xstat.toNat / 2 ^ 32
  { k with xstat := BitVec.ofNat 64 (1 + 2 ^ 32 * min (n + 1) (2 ^ 32 - 1)) }

/-- The square misses slot `i`: XSTAT of the cores with a message held for it, the stop of a task whose message has missed
twice, and the clock resynchronised (R248). -/
def State.missSlotOf (s : State) (sq i : Nat) : State :=
  let due := (s.square sq).slotMsgs.filter (s.slotDue i)
  let s := ((due.map (·.core)).eraseDups).foldl (fun s c => s.modCore c Core.missSlot) s
  let late := ((due.filter (fun m => 1 ≤ m.missed && (s.core m.core).task == some (m.launch, m.task))).map (·.core)).eraseDups
  let s := late.foldl (fun s c => s.modCore c (fun k => { k with
    stopReq := if k.stopReq.contains (.slotMiss i) then k.stopReq else k.stopReq ++ [.slotMiss i] })) s
  s.modSquare sq (fun q => { q with
    offset := 0, clockAdj := q.clockAdj - q.offset, slotOut := true,
    slotMsgs := q.slotMsgs.map (fun m => if due.contains m then
      { m with missed := if late.contains m.core then m.missed + 1 else min 1 (m.missed + 1) } else m) })

/-- The square transmits the messages held for class `i`. -/
def State.sendSlot (s : State) (sq i : Nat) : State :=
  let due := (s.square sq).slotMsgs.filter (fun m => s.slotDue i m && m.hashes.isNone)
  let s := s.modSquare sq (fun q => { q with slotMsgs := q.slotMsgs.filter (fun m => !due.contains m) })
  due.foldl (fun s m => match s.launch? m.launch with
    | some l => s.launchMsg m.launch m.task m.step m.number l 5 sq (squareOf (l.pcore m.peer))
        (.xslot m.launch m.peer m.cls m.ofs m.data m.pois m.core m.cmd)
    | none => s) s

/-- SLOT_START (R247, R248): a slot goes on. Its start judges whether the square misses it; otherwise the square transmits
what is held for the slot's class, from its start plus GUARD to its end. -/
def State.slotStart (s : State) (sq : Nat) : State :=
  match (List.find? (fun c => (s.core c).task.isSome) ((List.range 4).map (4 * sq + ·))).or
      ((s.square sq).slotMsgs.head?.map (·.core)) with
  | none => s
  | some c => match ((s.launchOf c).map (fun e => e.2.2)).or ((s.square sq).slotMsgs.head?.bind (fun m => s.launch? m.launch)) with
    | none => s
    | some l =>
      let (v, guard, slots, frame) := s.schedule l c
      let clock := (s.clockOf sq).toNat
      match if l.sxc && v then slotAt frame slots clock else none with
      | none => s
      | some (i, start, stop) =>
        let base := clock / frame * frame
        let last := (s.square sq).slotEnd
        -- a clock that a miss has set back stands again in a slot that is over (R248)
        if base + stop < last ∧ last ≤ base + stop + frame then s else
        let (s, miss) := if (s.square sq).slotEnd = base + stop then (s, (s.square sq).slotOut)
          else
            let (s, miss) := s.slotMissed sq c i guard
            let s := s.modSquare sq (fun q => { q with slotEnd := base + stop, slotOut := false })
            (if miss then s.missSlotOf sq i else s, miss)
        if miss ∨ clock < base + start + guard then s else s.sendSlot sq i

def execSlotStart (sq : Nat) (st : State) : Res :=
  .next (st.slotStart sq)

/-! ## Clocks (R245, R262) -/

/-- CLOCK_DISCIPLINE (R245): the square's clock reads the base die's time, with the estimate it has of its offset. -/
def execClockDiscipline (sq : Nat) (time : Dword) (offset : Int) (st : State) : Res :=
  .next (st.modSquare sq (fun q => { q with clockAdj := (time.toNat : Int) - st.clock.toNat, offset := offset }))

/-- Whether a lit circuit leads to a device. -/
def State.litTo (s : State) (d : Nat) : Bool :=
  (List.range 32).any (fun i => (s.port i).lit && (s.port i).circuit == some d)

/-- Whether the device has a circuit to its time source: the grandmaster that the host has named, or the device whose Sync
message it has taken; the grandmaster needs none (R262). -/
def State.timed (s : State) : Bool := s.litTo (s.timeSource.getD s.grandmaster) || s.grandmaster == Config.deviceNo

/-- PTP_SYNC (R262): a Sync message that a device passes on over its lit circuit sets the device's time, unless it is the
grandmaster itself. -/
def execPtpSync (src : Nat) (msg : PtpMessage) (st : State) : Res :=
  .next (if st.litTo src ∧ st.grandmaster ≠ Config.deviceNo then
      { st with clock := msg.time, offset := msg.offset, timeSource := some src }
    else st)

/-- Syncs sent by a time: one every 2^-13 s (R262). -/
def syncsBy (clock : Nat) : Nat := clock * 8192 / 1000000000

/-- The Sync messages that a nanosecond brings: one on every lit circuit (R262). -/
def State.syncsNow (s : State) : List (Nat × Dword) :=
  if syncsBy (s.clock + 1).toNat = syncsBy s.clock.toNat then []
  else ((List.range 32).filter (fun p => (s.port p).lit)).map (fun p => (p, s.clock + 1))

/-! ## Tempo and cooling (R229, R268) -/

/-- The rate in force of a column: what was written, limited by the thermal ceiling. -/
def State.rateOf (s : State) (k : Column) : Nat := min k.rate s.ceiling

/-- TEMPO_ACCRUE (R229): one nanosecond of the game clock. The records at the queues' heads age with it, in tenths of a
cycle of 1.2 GHz (R218, R7); a device without a circuit to its time source drifts, and Sync messages go out (R262). -/
def State.accrue (s : State) : State :=
  let heads := (List.range 16).foldl (fun (m : Map Head) i =>
    if (s.lqueue i).head = (s.lqueue i).tail then m
    else
      let h := Map.get Head.reset m i
      Map.put m i { h with age := h.age + 12 }) s.heads
  { s with clock := s.clock + 1
           offset := if s.timed then s.offset
             else if s.offset < 0 then s.offset - Config.drift s.clock.toNat else s.offset + Config.drift s.clock.toNat
           heads := heads
           sentSyncs := s.sentSyncs ++ s.syncsNow
           launches := s.launches.map (fun (e : Nat × Launch) =>
             (e.1, if e.2.saved then { e.2 with age := e.2.age + 12 } else e.2))
           columns := s.columns.map (fun e => (e.1, { e.2 with milli := min 4096000 (e.2.milli + s.rateOf e.2) })) }

def execTempoAccrue (st : State) : Res :=
  .next st.accrue

/-- The voltage controller lowers a column by one step of 10 mV, to 0.44 V at the least; a frozen column stays (R10,
R77). -/
def Column.lower (k : Column) : Column := if k.frozen ∨ k.volts < 450 then k else { k with volts := k.volts - 10 }

/-- THERMAL_SAMPLE (R268): outside the limits the ceiling is 0 and THERMAL is posted for the first of `cols`. DESIGN CHOICE
(notes/assumptions/59.md): the spec does not say when the controller lowers a supply (R10); here a sample within the limits
lowers the columns in `cols` by a step. -/
def execThermalSample (ceiling : BitVec 12) (inLimits : Bool) (cols : List Nat) (st : State) : Res :=
  .next (if inLimits then
      cols.foldl (fun (s : State) c => s.modColumn c Column.lower) { st with ceiling := ceiling.toNat }
    else ({ st with ceiling := 0 }).post 0x0B 0 (BitVec.ofNat 64 (cols.headD 0)))

/-- CTMP as it reads (R229): the rate in force, and the whole tokens there are. -/
def State.ctmp (s : State) (col : Nat) : Dword :=
  let k := s.column col
  BitVec.ofNat 64 (k.milli / 1000 + 2 ^ 32 * s.rateOf k)

/-! ## The lane-group arbiter (R222) -/

/-- Cycles for which a lane group stays occupied. -/
def Square.groupBusy (q : Square) (i : Nat) : Nat := bitsOf q.busyGroups (8 * i) 8

/-- The lowest-numbered aligned set of `g` free groups. -/
def Square.freeSet (q : Square) (g : Nat) : Option (List Nat) :=
  let sets : List (List Nat) := if g = 1 then [[0], [1], [2], [3]] else if g = 2 then [[0, 1], [2, 3]] else [[0, 1, 2, 3]]
  sets.find? (fun gs => gs.all (fun i => q.groupBusy i == 0))

/-- One pass of the arbiter's loop for core `c` of the square. -/
def State.bindUop (s : State) (sq c : Nat) : State :=
  let n := 4 * sq + c
  let k := s.core n
  match k.uops with
  | [] => if k.deficit = 0 then s else s.setCore n { k with deficit := 0 }
  | h :: rest =>
    match if h.cost ≤ k.deficit then (s.square sq).freeSet h.groups else none with
    | none => s
    | some gs =>
      let s := s.setCore n { k with uops := rest, deficit := k.deficit - h.cost }
      s.modSquare sq (fun q => { q with
        busyGroups := gs.foldl (fun b i => b + (h.cost / h.groups) * 2 ^ (8 * i)) q.busyGroups })

/-- Weight of the task bound to a core. -/
def State.weightOf (s : State) (c : Nat) : Nat :=
  match s.launchOf c with
  | some (_, _, l) => l.weight
  | none => 0

/-- LANE_GROUP_ARBITRATION (R222): one cycle. Groups whose entries complete are released, then the deficit round robin
binds, and where no core could afford its head the deficits rise. -/
def State.arbiterCycle (s : State) (sq : Nat) : State :=
  let q := s.square sq
  let s := s.modSquare sq (fun q => { q with
    busyGroups := (List.range 4).foldl (fun b i => b + (q.groupBusy i - 1) * 2 ^ (8 * i)) 0 })
  let s := (List.range 4).foldl (fun s i => s.bindUop sq ((q.arbP + i) % 4)) s
  let poor (c : Nat) : Bool := match (s.core (4 * sq + c)).uops with
    | [] => true
    | h :: _ => decide ((s.core (4 * sq + c)).deficit < h.cost)
  if (List.range 4).all poor then
    let s := (List.range 4).foldl (fun s c =>
      if (s.core (4 * sq + c)).uops.isEmpty then s
      else s.modCore (4 * sq + c) (fun k => { k with deficit := k.deficit + 64 * s.weightOf (4 * sq + c) })) s
    s.modSquare sq (fun q => { q with arbP := (q.arbP + 1) % 4 })
  else s

def execLaneGroupArbitration (sq : Nat) (st : State) : Res :=
  .next (st.arbiterCycle sq)

/-! ## Probes and reserve entries (R226 to R228) -/

/-- Whether a covered queue's reserve is in use: granted, or taken by an entry beyond the queue's size. -/
def State.reserveUsed (s : State) (queue : Nat) : Bool :=
  let c := 4 * (queue / 128)
  let i := queue % 128
  s.reserves.contains queue
    || (decide (69 ≤ i) && decide (i ≤ 72) && decide (16 < (s.core (c + (i - 69))).uops.length))
    || (decide (73 ≤ i) && decide (i ≤ 96) && decide (8 < ((s.core (c + (i - 73) / 6)).queue ((i - 73) % 6)).length))

/-- Whether a covered queue is full with its producer blocked. Of a queue that the model does not bound (router buffers, slice
requests, copy commands, branch outcomes) the event says so. -/
def State.blocked (s : State) (queue : Nat) : Bool :=
  let c := 4 * (queue / 128)
  let i := queue % 128
  if 69 ≤ i ∧ i ≤ 72 then decide (16 ≤ (s.core (c + (i - 69))).uops.length)
  else if 73 ≤ i ∧ i ≤ 96 then decide (8 ≤ ((s.core (c + (i - 73) / 6)).queue ((i - 73) % 6)).length)
  else decide (i ≤ 100)

/-- PROBE_ORIGINATE (R227): a queue that has been full and blocked sends a probe to the queue its head waits on. -/
def execProbeOriginate (queue waitsOn : Nat) (st : State) : Res :=
  .next (if st.reserveUsed queue || !st.blocked queue then st
    else
      let p : Probe := { origin := queue, here := waitsOn, hops := 1, seen := [] }
      { st with probes := Map.put st.probes st.probeId p, probeId := st.probeId + 1 })

/-- The first core of a square with a bound task, whose scoresheet a grant enters. -/
def State.firstBound (s : State) (sq : Nat) : Nat :=
  ((List.range 4).map (4 * sq + ·)).find? (fun c => (s.core c).task.isSome) |>.getD (4 * sq)

/-- PROBE_ARRIVE (R227): at its origin the probe grants the reserve, unless it is in use, logged as KIND 3 (R228); elsewhere
it goes on to the queue that this queue waits on, `none` where this one is not blocked. -/
def execProbeArrive (probe : Nat) (waitsOn : Option Nat) (st : State) : Res :=
  let gone : State := { st with probes := Map.erase st.probes probe }
  .next (match Map.find? st.probes probe with
    | none => st
    | some p =>
      if 64 ≤ p.hops then gone
      else if p.here = p.origin then
        if st.reserveUsed p.origin then gone
        else match gone.choose (gone.firstBound (p.origin / 128)) 3 (2 ^ 20 + p.origin) with
        | none => st
        | some s => { s with reserves := s.reserves ++ [p.origin] }
      else if p.seen.contains p.here then gone
      else match if st.blocked p.here then waitsOn else none with
        | none => gone
        | some q =>
          { st with probes := Map.put st.probes probe { p with here := q, hops := p.hops + 1, seen := p.seen ++ [p.here] } })

/-- QUEUE_DEADLOCK (R228): every context with traffic in the cycle stops as a pre-emption deadline stops it. -/
def execQueueDeadlock (queue : Nat) (contexts : List Nat) (st : State) : Res :=
  .next ((contexts.foldl State.stopContext st).post 0x08 0 (BitVec.ofNat 64 queue))

/-! ## Link failures (R156, R236) -/

/-- The vectors of a slice that is being withheld, each with the state its eviction leads to, and whether its elements
are lost; none while one of them waits. -/
def State.evictEach (s : State) (sl : Nat) : List Nat → State × Option (List (Nat × Bool))
  | [] => (s, some [])
  | i :: is =>
    let go (s : State) (lost : Bool) : State × Option (List (Nat × Bool)) :=
      let r := State.evictEach s sl is
      (r.1, r.2.map (fun es => (i, lost) :: es))
    match if (s.vec sl i).st = 1 then s.tryEvict sl i false else .made s with
    | .waits s' => (s', none)
    | .made s' => go s' false
    | .failed => go s true

/-- The management controller withholds a square: its slice evicts every resident vector exactly, sets V = 0 in every
descriptor, and REMOTE_ERROR is posted for each handle whose descriptor was valid, with bit 63 where the elements are
lost (R156, notes/assumptions/49.md). It waits while an eviction does. -/
def State.withhold (s : State) (sq : Nat) : State :=
  match s.evictEach sq (((s.slice sq).vecs.filter (fun e => e.2.valid)).map (·.1)) with
  | (s, none) => s
  | (s, some ends) =>
    let s := ends.foldl (fun s e =>
      let v := s.vec sq e.1
      (s.setVec sq e.1 { v with valid := false, elems := [], st := if e.2 then 0 else v.st }).post 0x09 v.ctx
        (BitVec.ofNat 64 (saHandle sq e.1 + if e.2 then 2 ^ 63 else 0))) s
    s.modSquare sq (fun q => { q with withheld := true })

/-- SQUARE_WITHHOLD (R156). -/
def execSquareWithhold (sq : Nat) (st : State) : Res :=
  .next (st.withhold sq)

/-- Fault-region entries of a router, at most 16 (R236). -/
def Square.addFault (q : Square) (e : Dword) : Square :=
  match (List.range 16).find? (fun i => !(Map.get 0 q.faults i).getLsbD 63) with
  | some i => { q with faults := Map.set 0 q.faults i e }
  | none => q

/-- TORUS_LINK_FAILURE (R236): the controller writes routers' entries and withholds what no route reaches. -/
def execTorusLinkFailure (link : Nat) (entries : List (Nat × Dword)) (withheld : List Nat) (st : State) : Res :=
  let s := { st with failedLinks := if st.failedLinks.contains link then st.failedLinks else st.failedLinks ++ [link] }
  let s := entries.foldl (fun s e => s.modSquare e.1 (fun q => q.addFault e.2)) s
  .next (withheld.foldl State.withhold s)

end Sys2Proof.Machine
end

