-- ==== Sys2Proof/Machine/Layers.lean ====
section
/-! DEFINITION. Events of the stacked layers, the error codes and the scrubber (R56 to R66, R72 to R77, R106 to R108,
R281). -/

namespace Sys2Proof.Machine

/-! ## Power (R56, R57) -/

/-- LPWR (R57): the host's write; a nonzero zero field is refused. -/
def execLpwr (core : Nat) (v : Dword) (st : State) : Res :=
  .next (if crAccepts 0x4C v then st.writeLpwr core v else st)

/-- A layer's bytes written with zero and valid check bits. -/
def Core.zeroLayer (k : Core) (b : Bool) : Core :=
  let other (a : Nat) : Bool := decide (2 ^ 20 ≤ a) != b
  { k with ls := k.ls.filter (fun e => other e.1), lsPois := k.lsPois.filter (fun e => other (32 * e.1)) }

/-- A command that a layer accepts as a whole: an in-layer operation, or one that sends bytes of the local store. The copy
engine's elements are accepted one by one (R59). -/
def Cmd.taken (x : Cmd) : Bool :=
  x.word.isInLayer || match x.word with
    | .xsend .. => x.sent == 0
    | .redsend .. => x.sent == 0
    | _ => false

/-- Whether a layer has accepted what has not performed (R57): a command that nothing on the scoreboard holds, or an access
of the core. -/
def Core.layerOwes (k : Core) (b : Bool) : Bool :=
  let here (a : Nat) : Bool := decide (2 ^ 20 ≤ a % 2 ^ 21) == b
  k.cmds.any (fun x => x.taken && !k.conflicts x && x.ranges.any (fun r => here r.1))
    || k.inflight.any (fun a => a.space == 1 && a.parts.any (fun p => !p.isDone && here p.pa))

/-- LAYER_POWER_DOWN (R57): what the layer had accepted has performed; its data are lost. -/
def execLayerPowerDown (core : Nat) (layer : Bool) (st : State) : Res :=
  let k := st.core core
  let l := k.layer layer
  .next (if l.busy && l.down && l.on && !k.layerOwes layer then
      st.setCore core ((k.zeroLayer layer).setLayer layer { l with on := false })
    else st)

/-- LAYER_TRANSITION_DONE (R57): a layer powered up is zeroed and accepts accesses; a recorded further transition
starts. -/
def execLayerTransitionDone (core : Nat) (layer : Bool) (st : State) : Res :=
  let k := st.core core
  let l := k.layer layer
  .next (if !l.busy || (l.down && l.on) then st
    else
      let l' : Layer := { l with on := !l.down, busy := false, down := false }
      let k := if l.down then k else k.zeroLayer layer
      (st.setCore core (k.setLayer layer l')).startLayer core layer)

/-! ## Promotion and windows (R74, R75, R77) -/

/-- BANK_DEMOTE (R74): only while no task runs on the core. -/
def execBankDemote (core bank : Nat) (st : State) : Res :=
  .next (if (st.core core).task.isSome then st
    else st.modCore core (fun k => k.setBank bank { k.bank bank with promoted := false, waiting := false }))

/-- BANK_PROMOTION_START (R75): a pending promotion starts once the journal entries in the bank's reserve are freed. -/
def execBankPromotionStart (core bank : Nat) (st : State) : Res :=
  let k := st.core core
  .next (if (k.bank bank).waiting && k.reserveHolds bank == 0 then
      st.setCore core (k.setBank bank { k.bank bank with promoted := true, waiting := false })
    else st)

/-- FREEZE_CLEAR (R77). -/
def execFreezeClear (col : Nat) (st : State) : Res :=
  .next (st.modColumn col (fun k => { k with frozen := false }))

/-- ERROR_WINDOW_START (R74, R84, R107): a bank's, a way's or an L1 way's window starts again. -/
def execErrorWindowStart (level own idx : Nat) (st : State) : Res :=
  .next (if level = 1 then
      st.modCore own (fun k => k.setBank idx { k.bank idx with count := 0, fresh := false })
    else if level = 2 then
      st.modCore own (fun k => { k with l1Errors := Map.set 0 k.l1Errors idx 0 })
    else if level = 3 then
      st.modSlice own (fun k => { k with wayErrors := Map.set 0 k.wayErrors idx 0, wayFresh := k.wayFresh.erase idx })
    else st)

/-! ## The scrubber (R108, R281) -/

/-- Where a scrub's uncorrectable word lies in the take-back store of a revocable superstep: it ends, and every core of
the gang is told (R281). -/
def State.scrubJournal (s : State) (sq addr : Nat) : State :=
  if (s.square sq).revocable then
    (List.range 4).foldl (fun s c =>
      if (s.core (4 * sq + c)).task.isSome then
        s.modCore (4 * sq + c) (fun k => { k with stopReq := k.stopReq ++ [.scrub addr] })
      else s) (s.unrevoke sq)
  else s

/-- SCRUB (R108): `loc` is a byte offset in a local store, a physical address, or with outcomes 4 and 6 the word
2^16 index + place of a vector of slice `own`. `outcome` is 0 for a good word or an abandoned write-back, 1 for a corrected
one, 2 for an uncorrectable one, 3 for an uncorrectable word of the journal, the snapshot or an undo record of the gang of
core `own`, 4 for an uncorrectable and 6 for a corrected word of a lent way, and 5 for one corrected as a promotion writes
it back. -/
def execScrub (level own loc outcome : Nat) (syn : BitVec 8) (st : State) : Res :=
  let n := syn.toNat
  .next (if outcome = 0 ∨ !(level = 1 ∨ level = 3 ∨ level = 5) ∨ !(st.err level).escr.getLsbD 0 then st
    else if outcome = 3 then
      let addr := if level = 1 then own * 2 ^ 24 + loc else loc
      (st.logError level true 1 n addr).scrubJournal (squareOf own) addr
    else if outcome = 4 ∨ outcome = 6 then st.vectorError own (loc / 2 ^ 16) (loc % 2 ^ 16) 1 n (outcome == 6)
    else
      let src := if outcome = 5 then 3 else 1
      if level = 1 then st.localError own loc src n (outcome != 2)
      else if level = 3 then st.sliceError loc src n (outcome != 2)
      else st.hbmError loc src n (outcome != 2))

/-! ## Vertical buses (R61 to R66) -/

def Core.setBus (k : Core) (i : Nat) (b : Bus) : Core := { k with buses := Map.set Bus.reset k.buses i b }

/-- The first byte of a core's local store behind a bus (R50, R66). -/
def Core.busFirst (k : Core) (i : Nat) : Nat :=
  (if 4 ≤ i then 2 ^ 20 else 0) + match (k.layer (decide (4 ≤ i))).carved with
    | none => 64 * (i % 4)
    | some rs => 2 ^ 18 * rs.findIdx (· == i % 4)

/-- A bus fails (R65): the superstep is unrevocable, the core's task ends with LAYER_BUS once its older loads have
performed (R270), and the layer, whose bytes stay as they are (notes/assumptions/51.md), waits to be carved. -/
def State.busFails (s : State) (c i : Nat) : State :=
  let b := decide (4 ≤ i)
  let fail (k : Core) : Core :=
    let l := k.layer b
    let k := (k.setBus i { k.bus i with repairing := false }).setLayer b
      { l with live := setBit l.live (i % 4) false, carvePending := true }
    { k with
      mcRecord := mcRecordOf k.arch.pc (s.clockOf (squareOf c)) (s.wordAt c k.arch.pc) (c * 2 ^ 24 + k.busFirst i) 3 11 0 0 0 0 false }
  if (s.core c).loadsOut then s
  else ((s.unrevoke (squareOf c)).modCore c fail).endTask c (some { code := Cause.machineCheck, sub := 3, between := true })

/-- BUS_REPAIR (R62, R65): the lane is steered to a spare and the bus retrains; without a spare the bus fails. -/
def execBusRepair (core bus : Nat) (st : State) : Res :=
  let b := (st.core core).bus bus
  .next (if b.repairing then st
    else if b.spares = 0 then st.busFails core bus
    else st.modCore core (fun k => k.setBus bus { b with lanes := b.lanes + 1, spares := b.spares - 1, repairing := true }))

/-- BUS_RETRAIN_DONE (R62). -/
def execBusRetrainDone (core bus : Nat) (ok : Bool) (st : State) : Res :=
  let b := (st.core core).bus bus
  .next (if !b.repairing then st
    else if ok then st.modCore core (fun k => k.setBus bus { b with repairing := false })
    else st.busFails core bus)

/-- Carving (R66): the live buses in ascending order, and the layer zeroed. -/
def Core.carve (k : Core) (b : Bool) : Core :=
  let l := k.layer b
  if l.carvePending then
    (k.zeroLayer b).setLayer b { l with carved := some ((List.range 4).filter (fun i => l.live.getLsbD i)), carvePending := false }
  else k

end Sys2Proof.Machine
end

