-- ==== Sys2Proof/Machine/Scheduler.lean ====
section
/-! DEFINITION. The scheduler: selection, placement, lease resolution, the checks of a launch and the binding of its
tasks (R21, R32, R33, R191 to R200, R216 to R220, R239, R241, R246, R257, R258, R267, R288, R474). -/

namespace Sys2Proof.Machine

/-! ## The record at a queue's head (R216 to R218) -/

/-- The physical address of the record at a queue's head. -/
def LaunchQueue.headAt (q : LaunchQueue) : Nat :=
  256 * bitsOf q.base.toNat 8 40 + 256 * (q.head % 2 ^ q.logd)

/-- Whether the scheduler considers a queue: enabled, usable and not empty. -/
def LaunchQueue.active (q : LaunchQueue) : Bool := q.enabled && q.usable && q.head != q.tail

def State.head (s : State) (i : Nat) : Head := Map.get Head.reset s.heads i

/-- A launch from its record, before it starts. -/
def Launch.ofRecord (x i : Nat) : Launch :=
  { record := BitVec.ofNat 2048 x, queue := i, place := [], tasks := [], full := [], pending := [],
    ends := [], logPos := [], arbNo := 0, preempting := false, saved := false, saving := none, age := 0, kept := [] }

/-- The launch that the record at a queue's head describes. -/
def State.headLaunch (s : State) (i : Nat) : Launch :=
  Launch.ofRecord (bytesNat ((s.rdBytes (s.lqueue i).headAt 256).map (·.1))) i

/-- The record leaves its queue: HEAD rises by 1 (R219). -/
def State.takeHead (s : State) (i : Nat) : State :=
  { s.modLqueue i (fun q => { q with head := (q.head + 1) % 65536 }) with heads := Map.erase s.heads i }

/-! ## Squares -/

/-- Squares that a launch needs: its box, doubled with DBL = 1 (R210). -/
def Launch.needs (l : Launch) : Nat := if l.dbl then 2 * l.squares else l.squares

/-- Squares that belong to launches (R219). -/
def State.ownedSquares (s : State) : List Nat :=
  (s.launches.filter (fun e => !e.2.isOver && !e.2.saved)).flatMap (fun e => e.2.place)

/-- Squares the device has usable: not withheld. -/
def State.usableSquares (s : State) : Nat :=
  Config.squares - (s.squares.filter (fun e => e.2.withheld)).length

/-- How many usable squares belong to no launch. -/
def State.freeSquares (s : State) : Nat :=
  s.usableSquares - (s.ownedSquares.filter (fun q => !(s.square q).withheld)).length

/-- Hops between two squares along one dimension of the torus. -/
def ringHops (a b n : Nat) : Nat := min ((a + n - b) % n) ((b + n - a) % n)

/-- Hops between two squares. -/
def hopsBetween (p q : Nat) : Nat :=
  (List.range 3).foldl (fun a d => a + ringHops (coord p d) (coord q d) (dimSize d)) 0

/-- Whether `n` disjoint pairs of squares at least two hops apart can be chosen from a list; `fuel` is its length. -/
def pairable : Nat → Nat → List Nat → Bool
  | _, 0, _ => true
  | 0, _ + 1, _ => false
  | fuel + 1, n + 1, qs =>
    match qs with
    | [] => false
    | q :: rest => rest.any (fun r => decide (2 ≤ hopsBetween q r) && pairable fuel n (rest.erase r)) || pairable fuel (n + 1) rest

/-- Whether the free squares hold the pairs of a doubled launch (R210). A square has at most six neighbours, so that
sixteen free ones or more always pair. -/
def State.pairsFree (s : State) (n : Nat) : Bool :=
  decide (16 ≤ s.freeSquares)
    || pairable 16 n ((List.range Config.squares).filter (fun q => !(s.square q).withheld && !s.ownedSquares.contains q))

/-- The save slots that a context's launches hold (R288). -/
def State.slotsUsed (s : State) (ctx : Nat) : List Nat :=
  s.launches.flatMap (fun e =>
    if e.2.ctx = ctx then e.2.tasks.filterMap (fun t => if t.2.ended then none else t.2.saveSlot) else [])

/-- How many save slots a context's launches hold or are owed: one for each task that has not ended (R288). -/
def State.slotsOwed (s : State) (ctx : Nat) : Nat :=
  s.launches.foldl (fun a e =>
    if e.2.ctx = ctx then a + ((List.range e.2.count).filter (fun t => !(e.2.task t).ended)).length else a) 0

/-- SAVN in force: the slots of a context's pool; 0 for none. -/
def State.savn (s : State) (ctx : Nat) : Nat := ((s.context ctx).inf 0x4B).toNat % 65536
/-- The pool's base in force. -/
def State.savb (s : State) (ctx : Nat) : Nat := 4096 * bitsOf ((s.context ctx).inf 0x4A).toNat 12 52

/-- Whether a launch's tasks can all receive save slots; a launch to be resumed holds its own. -/
def State.slotsFree (s : State) (l : Launch) : Bool :=
  s.savn l.ctx == 0 || l.saved || decide (s.slotsOwed l.ctx + l.count ≤ s.savn l.ctx)

/-- Whether the placement engine's squares can hold a launch: one free physical square for each virtual one, a shadow
at least two hops from its primary (R198, R210). -/
def State.placeable (s : State) (l : Launch) (place : List Nat) : Bool :=
  let owned := s.ownedSquares
  place.length == l.needs && decide place.Nodup
    && place.all (fun q => decide (q < Config.squares) && !(s.square q).withheld && !owned.contains q)
    && (!l.dbl || (List.range l.squares).all (fun i =>
          decide (2 ≤ hopsBetween (place.getD i 0) (place.getD (l.squares + i) 0))))
    && s.slotsFree l

/-- Squares that a launch leaves ready for another: nothing of the last superstep, gang or exchange (R208, R247). -/
def State.clearSquares (s : State) (place : List Nat) : State :=
  place.foldl (fun s q => ((s.freeRevocable q).forgetTempo q).modSquare q (fun k => { k with
    revocable := false, takeBacks := 0, superstep := 0, gang := none, slotEnd := 0, slotOut := false, logMark := 0 })) s

/-! ## Binding (R195, R200, R219, R267) -/

/-- Whether a task may be bound by its tile buffers (R200). -/
def Launch.buffersReady (l : Launch) (t : Nat) : Bool :=
  (List.range 4).all (fun i =>
    let f := Map.get false l.full (4 * t + i)
    if l.tbRole i = 1 then f else if l.tbRole i = 2 then !f else true)

/-- The local store at task start: zero outside tile buffers when the core's previous task belonged to another
context. -/
def Core.freshStore (k : Core) (l : Launch) : Core :=
  if k.lastCtx = some l.ctx ∨ k.lastCtx = none then k
  else
    let kept (a : Nat) : Bool := (List.range 4).any (fun i =>
      l.tbRole i != 0 && decide (l.tbBase i ≤ a) && decide (a < l.tbBase i + l.tbLen i))
    { k with ls := k.ls.filter (fun e => kept e.1), lsPois := k.lsPois.filter (fun e => kept (32 * e.1)) }

/-- Per-task state of a core with nothing in it. -/
def Core.emptied (k : Core) : Core :=
  { k with
    level := 0, seq1 := SeqCtx.reset, seq2 := SeqCtx.reset, taint := [], loads := [], loadSeq := 0, pend := [],
    pendMod := none, armed := false, gangWait := none, eventFlag := false, sleep := none, snapshot := none,
    journal := [], early := [], ended := none, redWait := none, uops := [], deficit := 0, chans := [], xbytes := [], accepted := [], qp := none, saWait := none,
    stopReq := [], stopped := none, following := false, inbox := [], hashWait := none, hashPass := none }

/-- The state of R267 on a core for task `t`. -/
def Core.taskStart (k : Core) (l : Launch) (t : Nat) (chans : Map Chan) : Core :=
  let k := (k.emptied.carve false).carve true
  let k := { k.freshStore l with arch := Arch.reset }
  let k := ((k.setX 16 (BitVec.ofNat 64 l.arg) false Taint.clean).setX 17 (BitVec.ofNat 64 t) false Taint.clean).setX 18
    (BitVec.ofNat 64 (l.vcore t)) false Taint.clean
  { k with arch := { k.arch with pc := BitVec.ofNat 64 l.entry }, chans := chans,
           following := decide (1 ≤ l.coreIx t) && decide (l.coreIx t ≤ l.phx) }

/-- The channel ends of a task at its start (R240). -/
def State.startChans (s : State) (l : Launch) (core t : Nat) : Map Chan :=
  (List.range 16).foldl (fun (m : Map Chan) ch =>
    let e := s.chEntry l core t ch
    if e.v && !e.receives then Map.set Chan.reset m ch { count := e.slots, waiting := 0, held := none } else m) []

/-- A copy of a task as its shadow core holds it (R210): the core's own L1 and TLBs, and no task or work of its own, which
stand at the primary (notes/assumptions/36.md). -/
def Core.asShadow (x own : Core) (ctx : Nat) : Core :=
  { x with
    l1 := own.l1, l1Errors := own.l1Errors, l1Off := own.l1Off, tlb := own.tlb, inflight := [], cmds := [], early := [],
    inbox := [], stopReq := [], stopped := none, gangWait := none, saWait := none, hashPass := none, sleep := none,
    task := none, lastCtx := some ctx, ended := none }

/-- A shadow core with the state that its primary has, over its own layers, banks and buses. -/
def Core.shadowOf (own primary : Core) (ctx : Nat) : Core :=
  { primary with layerA := own.layerA, layerB := own.layerB, banks := own.banks, buses := own.buses, lsecc := own.lsecc }.asShadow
    own ctx

/-- The primary and shadow squares of a doubled launch. -/
def Launch.pairs (l : Launch) : List (Nat × Nat) :=
  (List.range l.squares).map (fun i => (l.place.getD i 0, l.place.getD (l.squares + i) 0))

/-- A doubled task starts or resumes on both cores alike (R210, R215). -/
def State.doubleTask (s : State) (l : Launch) (c : Nat) : State :=
  if !l.dbl then s
  else
    let sq := l.place.getD (l.squares + l.place.findIdx (· == squareOf c)) 0
    (s.modCore (4 * sq + c % 4) (fun own => own.shadowOf (s.core c) l.ctx)).modSquare sq (fun q =>
      { q with fifos := (s.square (squareOf c)).fifos })

/-- Binds a task to its core when it is eligible and the core is idle: task-start state, a save slot (R288), the lending
of the slices recomputed (R161). -/
def State.bindTask (s : State) (launch task : Nat) : State :=
  match s.launch? launch with
  | none => s
  | some l =>
    let c := l.pcore task
    let k := s.core c
    let tk := l.task task
    if l.count ≤ task ∨ l.saved ∨ l.preempting ∨ tk.bound ∨ tk.begun ∨ tk.ended ∨ !l.buffersReady task
        ∨ k.task.isSome ∨ !k.inflight.isEmpty ∨ !k.cmds.isEmpty then s
    else
      let slot := if s.savn l.ctx = 0 then none
        else (List.range (s.savn l.ctx)).find? (fun i => !(s.slotsUsed l.ctx).contains i)
      let s := (s.setCore c { k.taskStart l task (s.startChans l c task) with task := some (launch, task) }).doubleTask l c
      (s.modLaunch launch (fun l => l.modTask task (fun k =>
        { k with bound := true, begun := true, saveSlot := slot }))).relend none

/-- TASK_BIND (R219), for a task that was not eligible, or whose core was not idle, when its launch started. -/
def execTaskBind (launch task : Nat) (st : State) : Res :=
  .next (st.bindTask launch task)

/-! ## Selection (R218 to R220) -/

/-- The checks of a launch's context (R21): its ASID is not 0 and its window holds canonical bytes only. -/
def State.contextOk (s : State) (ctx : Nat) : Bool :=
  let (b, n, _, _, _) := s.window ctx
  s.asid ctx != 0 && (n == 0 || (checkCanonical b n b).isNone)

/-- The head's launch fails: its record leaves the queue and the host is told (R196). -/
def State.failHead (s : State) (i ctx arg : Nat) : State :=
  (s.takeHead i).post 0x02 ctx (BitVec.ofNat 64 arg)

/-- What stands first in a queue: a launch to be resumed, ahead of the head (R220), or the record at the head. -/
inductive Entry where
  | resumed (id : Nat)
  | fresh (queue : Nat)
  deriving DecidableEq, Repr

/-- The launch of queue `i` that waits to be resumed, if one does. DESIGN CHOICE (notes/assumptions/61.md): of several, the
one that has waited longest. -/
def State.resumable (s : State) (i : Nat) : Option (Nat × Launch) :=
  (s.launches.filter (fun e => e.2.queue == i && e.2.saved && !e.2.isOver)).foldl
    (fun (b : Option (Nat × Launch)) e => match b with
      | none => some e
      | some f => if f.2.age < e.2.age then some e else some f) none

/-- A queue's first entry: its launch, and its time as first in tenths of a cycle, which for a launch to be resumed DESIGN
CHOICE (notes/assumptions/61.md) counts from its save. -/
def State.first (s : State) (i : Nat) : Entry × Launch × Nat :=
  match s.resumable i with
  | some (id, l) => (.resumed id, l, l.age)
  | none => (.fresh i, s.headLaunch i, (s.head i).age)

/-- Effective priority of a queue's first entry. -/
def State.effPrio (s : State) (i : Nat) : Nat := min 7 ((s.lqueue i).prio + (s.first i).2.2 / 10000000)

/-- Whether a queue's first entry is eligible: a head's leases resolved and its dependence met (R197, R218); its
context runnable. DESIGN CHOICE (notes/assumptions/61.md): a launch to be resumed needs no EN = 1. -/
def State.eligible (s : State) (i : Nat) : Bool :=
  let (e, l, _) := s.first i
  (match e with
  | .resumed _ => !(s.context l.ctx).unrestorable
  | .fresh _ => (s.lqueue i).active && (s.head i).leases == some true
      && (l.fld 960 1 == 0 || decide (l.fld 992 32 ≤ (s.lqueue (l.fld 961 4)).count)))
    && !(s.context l.ctx).notRunnable

/-- Eligible queues of the highest effective priority, in round-robin order after the queue last started. -/
def State.candidates (s : State) : List Nat :=
  let es := ((List.range 16).map (fun j => (s.lastQueue + 1 + j) % 16)).filter s.eligible
  let top := es.foldl (fun a i => max a (s.effPrio i)) 0
  es.filter (fun i => s.effPrio i == top)

/-- Whether free squares and save slots can hold a launch (R198, R210, R288). -/
def State.fits (s : State) (l : Launch) : Bool :=
  decide (l.needs ≤ s.freeSquares) && s.slotsFree l && (!l.dbl || s.pairsFree l.squares)

/-- Whether the first entry of a queue can be placed. -/
def State.firstFits (s : State) (i : Nat) : Bool := s.fits (s.first i).2.1

/-- The entry that the scheduler starts, first in its order among those that can be placed (R218). -/
def State.selected (s : State) : Option (Nat × Entry × Launch) :=
  (s.candidates.find? s.firstFits).map (fun i => (i, (s.first i).1, (s.first i).2.1))

/-- The read requests for a task's remote tensors (R258): they count for their device's circuit (R255). -/
def State.tensorRequests (s : State) (l : Launch) (t : Nat) : List Outgoing :=
  ((List.range 4).filter l.tbRem).flatMap (fun i =>
    let x := bytesNat ((s.deviceLoad l.ctx (l.pcore t) (l.fld 832 64 + 16 * i) 16).map (·.1))
    let w := s.remoteWindow l.ctx (bitsOf x 8 6)
    (spans 4096 (bitsOf x 64 58 + 256 * bitsOf x 16 24 * t) (l.tbLen i)).map (fun sp =>
      { dev := w.dev, what := { kind := .load, key := w.key, ofs := sp.1, size := sp.2.1, data := [] } }))

/-- Starts a placed head; each task that is eligible is bound at once (R219), and its remote tensors are read (R258). A
context that has since lost its ASID or its window fails the launch, with its number (R21). -/
def State.startLaunch (s : State) (i : Nat) (place : List Nat) : State :=
  let l := { s.headLaunch i with place := place }
  if !s.contextOk l.ctx then s.failHead i l.ctx l.ctx
  else
    let id := s.launchId
    let s := (s.takeHead i).clearSquares place
    let s := { s with launches := Map.put s.launches id l, launchId := id + 1, lastQueue := i }
    let s := s.sendOut ((List.range l.count).flatMap (s.tensorRequests l))
    (List.range l.count).foldl (fun s t => s.bindTask id t) s

/-- Requests the pre-emption of a launch (R285): never one whose context has SAVN = 0. -/
def State.requestPreempt (s : State) (id : Nat) : State :=
  match s.launch? id with
  | none => s
  | some l =>
    if s.savn l.ctx = 0 ∨ l.isOver ∨ l.saved ∨ l.preempting then s
    else
      let s := s.modLaunch id (fun l => { l with preempting := true })
      s.cores.foldl (fun s e => match e.2.task with
        | some (j, _) =>
          if j = id then
            s.modCore e.1 (fun k => { k with stopReq := k.stopReq ++ [.preempt false false] })
          else s
        | none => s) s

/-- The launch to pre-empt next for a queue's head: of the lowest PRIO below the queue's, the most recently started. -/
def State.victimLaunch (s : State) (i : Nat) : Option Nat :=
  let prioOf (l : Launch) := (s.lqueue l.queue).prio
  let vs := s.launches.filter (fun e =>
    !e.2.isOver && !e.2.saved && !e.2.preempting && s.savn e.2.ctx != 0
      && decide (prioOf e.2 < (s.lqueue i).prio))
  (vs.foldl (fun b e => match b with
    | none => some (prioOf e.2, e.1)
    | some (p, j) => if prioOf e.2 ≤ p then some (prioOf e.2, e.1) else some (p, j)) none).map (·.2)

/-- Pre-empts for a queue's head until the squares that are free or being freed suffice (R220). -/
def State.preemptFor (s : State) (i need : Nat) : Nat → State
  | 0 => s
  | fuel + 1 =>
    let freed := (s.launches.filter (fun e => e.2.preempting && !e.2.isOver && !e.2.saved)).foldl
      (fun a e => a + (e.2.place.filter (fun q => !(s.square q).withheld)).length) 0
    if need ≤ s.freeSquares + freed then s
    else match s.victimLaunch i with
      | some id => State.preemptFor (s.requestPreempt id) i need fuel
      | none => s

/-- The heads that the scheduler selects and cannot place pre-empt, where their queues may (R220). -/
def State.preemptAll (s : State) : State :=
  ((s.candidates.takeWhile (fun i => !s.firstFits i)).filter (fun i => (s.lqueue i).pre)).foldl
    (fun t i => t.preemptFor i (s.first i).2.1.needs (s.launches.length + 1)) s

/-- SCHEDULER_SELECT (R218 to R220): `placement` is the placement engine's answer for the entry that is started. -/
def execSchedulerSelect (placement : List Nat) (st : State) : Res :=
  .next (match st.selected with
    | some (i, .fresh _, l) =>
      if st.placeable l placement then st.preemptAll.startLaunch i placement else st.preemptAll
    | _ => st.preemptAll)

/-! ## The checks of a record (R21, R191 to R196) -/

/-- The least scope of a domain (R192). -/
def Launch.leastScope (l : Launch) (dom : Nat) : Nat :=
  match dom with
  | 0 => 0
  | 1 => 1
  | 2 => 2
  | 3 => 2
  | 4 => if l.nz = 1 then 2 else 3
  | 5 => 3
  | _ => 4

/-- One level descriptor of a record (R192, R193). -/
def Launch.levelOk (l : Launch) (joined : List Nat) (i : Nat) : Bool :=
  let d := l.dom i
  if l.nlvl ≤ i then l.fld (256 + 32 * i) 32 == 0
  else
    l.fld (264 + 32 * i) 24 == 0 && decide (d ≤ 7) && decide (l.lscope i ≤ 4)
      && decide (l.leastScope d ≤ l.lscope i)
      && (if i = 0 then d == 0 else decide (l.dom (i - 1) < d))
      && (d != 2 || l.nx == 16) && (d < 6 || joined.contains d)

/-- One tile-buffer descriptor (R194, R196). -/
def Launch.tileOk (l : Launch) (i : Nat) : Bool :=
  l.fld (668 + 32 * i) 4 == 0 && l.tbRole i != 3
    && (l.tbRole i == 0 || (l.tbLen i != 0 && decide (l.tbBase i + l.tbLen i ≤ Config.localBytes)))

/-- The zero fields of a record outside its descriptors (R191). -/
def Launch.zerosOk (l : Launch) : Bool :=
  [(965, 27), (595, 45), (538, 38), (535, 1), (523, 1), (196, 8), (64, 2), (40, 24), (12, 5)].all
    (fun e => l.fld e.1 e.2 == 0)

/-- The checks of R196 and R187 on a record. -/
def State.recordOk (s : State) (l : Launch) : Bool :=
  l.fld 0 8 == 1 && l.zerosOk && decide (1 ≤ l.nlvl) && decide (l.nlvl ≤ 8)
    && (List.range 8).all (l.levelOk s.joined) && (List.range 4).all l.tileOk
    && decide (1 ≤ l.weight)
    && (l.phx == 0 || (decide (2 ≤ l.lag) && decide (l.lag ≤ 8) && decide (l.phx < l.nc)))
    && (!l.gang || l.nc == 4)
    && l.scr != 3 && (l.scr == 0 || l.fld 204 52 != 0)
    && (!(List.range l.nlvl).any (fun i => l.dom i == 6)
        || (decide (1 ≤ l.fld 576 19) && decide (l.fld 576 19 ≤ 262144)))
    && l.cmpl % 8 == 0 && l.chtab % 256 == 0 && l.fld 832 64 % 64 == 0
    && decide (l.needs ≤ s.usableSquares)

/-! ## Leases (R32, R33) -/

/-- A lease descriptor's checks. -/
def Launch.leaseOk (l : Launch) (i : Nat) : Bool :=
  let lo := 1024 + 128 * i
  let b := 65536 * l.fld (lo + 16) 48
  let n := 65536 * l.fld (lo + 64) 41
  l.fld (lo + 106) 1 == 0 ||
    (l.fld lo 16 == 0 && l.fld (lo + 107) 21 == 0 && n != 0 && (checkCanonical b n b).isNone)

/-- What the walk of a range meets. -/
inductive LeaseWalk where
  | pinned
  | unmapped (va : Nat)
  | migrating (va : Nat)
  | malformed
  deriving DecidableEq, Repr

/-- Walks the pages of [va, stop), leaf by leaf, at most `fuel` of them. -/
def State.walkRange (s : State) (ctx stop : Nat) : Nat → Nat → LeaseWalk
  | 0, _ => .pinned
  | fuel + 1, va =>
    if stop ≤ va then .pinned
    else match s.walk ctx va with
      | .invalid => .unmapped va
      | .malformed => .malformed
      | .leaf p n => if pteM p then .migrating va else State.walkRange s ctx stop fuel ((va / n + 1) * n)

/-- The walk of a record's valid descriptors in order: the first that is not pinned, with its index. -/
def State.walkLeases (s : State) (l : Launch) : List Nat → Option (Nat × LeaseWalk)
  | [] => none
  | i :: is =>
    let lo := 1024 + 128 * i
    let pages := l.fld (lo + 64) 41
    let b := 65536 * l.fld (lo + 16) 48
    if l.fld (lo + 106) 1 = 0 then State.walkLeases s l is
    else match s.walkRange l.ctx (b + 65536 * pages) pages b with
      | .pinned => State.walkLeases s l is
      | w => some (i, w)

/-! ## The tables of a launch (R237 to R241, R246, R257, R288) -/

/-- A launch's receive ring fits the local store and meets no tile buffer. -/
def Launch.ringOk (l : Launch) (e : ChEntry) : Bool :=
  let n := e.slots * e.size
  decide (e.base + n ≤ Config.localBytes)
    && (List.range 4).all (fun i => l.tbRole i == 0 || decide (e.base + n ≤ l.tbBase i)
        || decide (l.tbBase i + l.tbLen i ≤ e.base))

/-- Channel `ch` of task `t` against its peer's entry (R239). DESIGN CHOICE (notes/assumptions/62.md): an entry with V = 0 and
DIR = 0 is held to BASE = 0 too. -/
def State.channelOk (s : State) (l : Launch) (core t ch : Nat) : Bool :=
  let x := s.chTable l core (256 + 256 * t + 16 * ch) 16
  let e := ChEntry.of x
  let p := s.chEntry l core e.peer e.pch
  bitsOf x 96 32 == 0 && bitsOf x 74 3 == 0 && bitsOf x 13 51 == 0 && (e.receives || e.base == 0)
    && (!e.v ||
      (decide (e.peer < l.count) && p.v && p.peer == t && p.pch == ch && p.receives != e.receives
        && p.slots == e.slots && p.size == e.size && (!e.receives || l.ringOk e)))

/-- Tree `n` of a launch (R241). -/
def State.treeOk (s : State) (l : Launch) (core n : Nat) : Bool :=
  let tr := s.tree l core n
  bitsOf (s.chTable l core (4 * n) 4) 0 8 == 0
    && (!tr.v ||
      (decide (tr.lvl < l.nlvl) && decide (tr.ord ≤ 5)
        && (((List.range l.count).map (l.instOf tr.lvl)).eraseDups).all (fun i =>
          let ms := l.members tr i
          ms.isEmpty || (decide (ms.length ≤ 64) && (match l.rootOf tr (ms.headD 0) with
            | some r => ms.contains r
            | none => false)))))

/-- The exchange schedule of a launch (R246). -/
def State.scheduleOk (s : State) (l : Launch) (core : Nat) : Bool :=
  let (v, guard, slots, frame) := s.schedule l core
  !l.sxc || (v && frame % slots == 0 && decide (guard + 256 ≤ frame / slots))

/-- The channel table of a launch. -/
def State.chTableOk (s : State) (l : Launch) (core : Nat) : Bool :=
  (l.chtab == 0 ||
    (s.chTable l core 24 232 == 0
      && (let x := s.chTable l core 16 8; bitsOf x 52 11 == 0 && bitsOf x 32 6 == 0)
      && (List.range l.count).all (fun t => (List.range 16).all (s.channelOk l core t))
      && (List.range 4).all (s.treeOk l core)))
    && s.scheduleOk l core

/-- Entry `i` of the remote-tensor table; zero where the launch has none (R257). -/
def State.rtEntry (s : State) (l : Launch) (core i : Nat) : Nat :=
  if l.fld 832 64 = 0 then 0 else bytesNat ((s.deviceLoad l.ctx core (l.fld 832 64 + 16 * i) 16).map (·.1))

def State.rtOk (s : State) (l : Launch) (core i : Nat) : Bool :=
  let x := s.rtEntry l core i
  let w := s.remoteWindow l.ctx (bitsOf x 8 6)
  let ofs := bitsOf x 64 58
  x.testBit 0 == l.tbRem i && bitsOf x 122 6 == 0 && bitsOf x 40 24 == 0 && bitsOf x 14 2 == 0 && bitsOf x 1 7 == 0
    && (!x.testBit 0 || (ofs % 256 == 0 && w.v
          && decide (ofs + 256 * bitsOf x 16 24 * (l.count - 1) + l.tbLen i ≤ w.len)))

/-- The save pool of a launch's context (R288). -/
def State.poolOk (s : State) (l : Launch) : Bool :=
  let n := s.savn l.ctx
  let b := s.savb l.ctx
  n == 0 || s.inWindow l.ctx b (2580480 * n) || leased l.leases [] .store b (2580480 * n)

/-- LEASE_WALK (R33): the checks of the record, the walks, then the tables that the pinned leases reach. A walk that
waits on a residency request restarts on a signal alone. -/
def execLeaseWalk (q : Nat) (st : State) : Res :=
  let l := st.headLaunch q
  let h := st.head q
  let addr := (st.lqueue q).headAt
  let setHead (h : Head) : State := { st with heads := Map.put st.heads q h }
  .next (if !(st.lqueue q).active || h.leases == some true || h.asked then st
    else if !st.recordOk l then st.failHead q l.ctx addr
    else if !st.contextOk l.ctx then st.failHead q l.ctx l.ctx
    else match List.find? (fun i => !l.leaseOk i) (List.range 8) with
      | some i => st.failHead q l.ctx i
      | none =>
        match st.walkLeases l (List.range 8) with
        | some (i, .malformed) => st.failHead q l.ctx i
        | some (_, .unmapped va) =>
          (setHead { h with leases := some false, waitsCtx := some l.ctx, waitsVa := va, asked := true }).post
            0x01 l.ctx (BitVec.ofNat 64 va)
        | some (_, .migrating va) => setHead { h with leases := some false, waitsCtx := some l.ctx, waitsVa := va }
        | _ =>
          if st.chTableOk l 0 && (List.range 4).all (st.rtOk l 0) && st.poolOk l then
            setHead { h with leases := some true, waitsCtx := none }
          else st.failHead q l.ctx addr)

/-- RSIG (R474). -/
def execRsig (v : Dword) (st : State) : Res :=
  .next (if v.toNat < 64 then st.restartWalks (fun h => h.waitsCtx == some v.toNat) else st)

/-- LNQCTL (R216, R217): the host's write. -/
def execLnqctl (q : Nat) (v : Dword) (st : State) : Res :=
  .next (if q < 16 ∧ crAccepts (0x90 + q) v then st.writeLnqctl q v else st)

/-! ## Remote tensors (R258) -/

/-- REMOTE_TENSOR_FILL: `data` are the bytes that device `dev`, the remote window's, has read, and `bad` the indices of
rejected 128-byte parts. The buffer is full once they have arrived and the circuit to their device is lit. -/
def execRemoteTensorFill (launch task buf dev : Nat) (data : List Byte) (bad : List Nat) (st : State) : Res :=
  .next (match st.launch? launch with
    | none => st
    | some l =>
      let x := st.rtEntry l (l.pcore task) buf
      if l.count ≤ task ∨ 4 ≤ buf ∨ !l.tbRem buf ∨ (l.task task).begun ∨ data.length ≠ l.tbLen buf
          ∨ dev ≠ (st.remoteWindow l.ctx (bitsOf x 8 6)).dev then st
      else
        let at' := bitsOf x 64 58 + 256 * bitsOf x 16 24 * task + bitsOf x 8 6 * 2 ^ 58
        let st := bad.foldl (fun s i => s.remoteError l.ctx (at' + 128 * i)) st
        let bs := data.mapIdx (fun i b => (b, bad.contains (i / 128)))
        let st := st.modCore (l.pcore task) (fun k => k.lsWrite (l.tbBase buf) bs)
        if st.litTo dev then
          st.modLaunch launch (fun l => { l with full := Map.set false l.full (4 * task + buf) true })
        else st)

end Sys2Proof.Machine
end

