-- ==== Sys2Proof/Machine/Context.lean ====
section
/-! DEFINITION. Asynchronous stops, pre-emption, the save image, restore (R270, R276, R277, R281, R285 to R293,
R357). -/

namespace Sys2Proof.Machine

/-! ## Stops (R270, R277, R285, R357) -/

/-- PREEMPTION_REQUEST (R285). -/
def execPreemptionRequest (launch : Nat) (st : State) : Res :=
  .next (st.requestPreempt launch)

/-- PREEMPTION_DEADLINE (R285): the request asks for a full save at the next level-0 boundary. -/
def execPreemptionDeadline (core : Nat) (st : State) : Res :=
  .next (st.modCore core (fun k => { k with stopReq := k.stopReq.map (fun r => match r with
    | .preempt _ late => .preempt true late
    | r => r) }))

/-- LOOP_CONTEXT_DISCARD (R357): a due stop no longer waits for the level-0 context to be empty. -/
def execLoopContextDiscard (core : Nat) (st : State) : Res :=
  .next (st.modCore core (fun k => { k with stopReq := k.stopReq.map (fun r => match r with
    | .preempt true _ => .preempt true true
    | r => r) }))

/-- Whether core `c` may take a stop request at its present boundary: not before a TLBI or LEASE that has passed its commit
point (R270, R471). -/
def State.stopReady (s : State) (c : Nat) (r : StopReq) : Bool :=
  let k := s.core c
  !s.invals.any (fun v => v.2.core == c) &&
    match r with
    | .preempt due late =>
      due && decide (k.level = 0) && (late || k.arch.seq0 == SeqCtx.reset) && s.followerMayStop c 0
    | _ => true

/-- What issued and has not started leaves no trace: the stop falls before it (R270, R429). -/
def Core.withdraw (k : Core) : Core :=
  { k.withdrawGang with saWait := none, hashWait := none, hashPass := none, pendMod := none }

/-- The core stops before its present instruction: a gang operation that waits loses its place for tempo (R230), and a
task that waits at BAR is back before it (R277). -/
def State.withdraw (s : State) (c : Nat) : State :=
  let s := if (s.core c).gangWait.isSome then s.forgetTempo (squareOf c) else s
  let s := match s.launchOf c with
    | some (id, t, _) => s.modLaunch id (fun l => l.modTask t (fun k => match k.phase with
        | .wait _ => { k with phase := .exchange }
        | _ => k))
    | none => s
  s.modCore c Core.withdraw

/-- The address of the instruction that a stop request's record names on a core. -/
def StopReq.at' (r : StopReq) (k : Core) : Dword := match r with
  | .deferred _ _ epc _ _ => epc
  | _ => k.arch.pc

/-- A residue mismatch beyond its replays in an engine or a slice, for work that the instruction at `pc` issued (R279): the
stop of an engine's command names the next instruction (R444), and that of a buffered SAADD the SAADD, as a deferred
fault does (R276). -/
def State.residueStop (s : State) (c unit lane : Nat) (e o : BitVec 3) (pc : Dword) (engine : Bool) : State :=
  let t : TrapInfo := { code := Cause.machineCheck, sub := 1, engine := engine, deferred := !engine, fstart := pc,
                        between := engine }
  let word := s.wordAt c pc
  let tbk := s.mayTakeBack (squareOf c)
  let rec' := mcRecordOf pc (s.clockOf (squareOf c)) word 0 1 unit lane e o 2 tbk
  (s.modCore c (fun k => { k with
    mcRecord := rec', epc := if engine ∨ tbk then k.epc else pc, word := if engine then k.word else word })).trapOn c t

/-- The core with the instruction at an address on record, for STR and the machine-check record (R273, R280). -/
def State.noteWord (s : State) (c : Nat) (pc : Dword) : State :=
  match s.check2 (s.whoOf c 1) .fetch 0 pc.toNat 4 0 with
  | .ok ps => s.modCore c (fun k => { k with
      word := BitVec.ofNat 32 (bytesNat ((ps.flatMap (fun p => s.rdBytes p.pa p.size)).map Prod.fst)) })
  | _ => s

/-- A stop request takes effect on core `c` (R248, R276, R281, R285, R444). -/
def State.takeStop (s : State) (c : Nat) (r : StopReq) : State :=
  let s := s.noteWord c (r.at' (s.core c))
  let s := (s.withdraw c).modCore c (fun k => { k with stopReq := k.stopReq.erase r })
  match r with
  | .preempt _ late =>
    let s := if late then s.modCore c (fun k => { k with arch := { k.arch with seq0 := SeqCtx.reset } }) else s
    s.stopCore c none
  | .slotMiss cls => s.trapOn c { code := Cause.slotMiss, faddr := BitVec.ofNat 64 cls }
  | .scrub addr => s.machineCheck c 5 addr 0 0 0 0 0
  | .engine cause walk fa fs =>
    s.trapOn c { code := cause.toNat, engine := true, walk := walk, faddr := fa, fstart := fs }
  | .residue unit lane e o pc engine => s.residueStop c unit lane e o pc engine
  | .deferred cause walk epc fa fs =>
    (s.modCore c (fun k => { k with epc := epc })).endTask c
      (some { code := cause.toNat, walk := walk, deferred := true, faddr := fa, fstart := fs })

/-- A request that ends its task on a deferred fault (R276). -/
def StopReq.ends : StopReq → Bool
  | .deferred .. => true
  | _ => false

/-- A request that may end or take back the gang: every core's older loads perform first (R207, R270). -/
def StopReq.forGang : StopReq → Bool
  | .residue .. => true
  | .engine cause .. => cause.toNat == Cause.mismatch
  | _ => false

/-- The first request that may stop core `c` at its present boundary, once every older load has performed and every
gang operation's checks have passed. A core stopped for a save still ends on a deferred fault. -/
def State.pendingStop (s : State) (c : Nat) : Option StopReq :=
  let k := s.core c
  if k.task.isNone ∨ k.sleep.isSome then none
  else List.find? (fun r => if k.stopped.isSome then r.ends else s.stopReady c r) k.stopReq

/-- The request that core `c` takes now. -/
def State.dueStop (s : State) (c : Nat) : Option StopReq :=
  if (s.core c).loadsOut ∨ (s.square (squareOf c)).gang.isSome then none
  else (s.pendingStop c).filter (fun r => !(r.forGang && s.gangLoads (squareOf c)))

/-- CORE_STOP (R270). -/
def execCoreStop (core : Nat) (st : State) : Res :=
  .next (match st.dueStop core with
    | some r => st.takeStop core r
    | none => st)

/-! ## The save image (R287 to R290) -/

/-- Bytes padded with zeros to `n`. -/
def padTo (n : Nat) (bs : PBytes) : PBytes := bs ++ List.replicate (n - bs.length) (0, false)

/-- Bytes cut into whole blocks of 4 KiB; `n` bounds their number. -/
def blocksOf : Nat → PBytes → List PBytes
  | 0, _ => []
  | n + 1, bs => if bs.isEmpty then [] else padTo 4096 (bs.take 4096) :: blocksOf n (bs.drop 4096)

/-- The liveness word of a stop: with FULL, all ones in bits 49:1 (R289). -/
def Stopped.word (p : Stopped) : Nat := match p.live with
  | some w => w.toNat
  | none => 2 ^ 50 - 2

/-- Bytes of the local store as a save writes them: zero beyond a layer's usable size or where it is off (R287). -/
def Core.savedBytes (k : Core) (a n : Nat) : PBytes :=
  (List.range n).map (fun i =>
    let x := a + i
    let l := k.layer (decide (2 ^ 20 ≤ x))
    if l.on && decide (x % 2 ^ 20 < l.usable) then (k.lsRd x, k.lsRdPois x) else (0, false))

def rowsBytes (rows : List Row) : PBytes := markBytes false (rows.flatMap rowBytes)

/-- Entries of a square's exchange buffer that a task placed. -/
def State.entriesOf (s : State) (id t sq : Nat) : List XEntry :=
  (s.square sq).xbuf.filter (fun e => e.launch == id && e.task == t)

/-- The data blocks of a task's image, from block 4. -/
def State.imageData (s : State) (c id t seq : Nat) (p : Stopped) (l : Launch) : List PBytes :=
  let k := s.core c
  let w := p.word
  let tiles := ((List.range 8).filter (fun i => w.testBit (32 + i))).map (fun (i : Nat) =>
    rowsBytes ((List.range 16).map (fun r => k.row (16 * i + r))))
  let accs := ((List.range 4).filter (fun i => w.testBit (40 + i))).map (fun (i : Nat) =>
    rowsBytes ((List.range 16).map (k.acc i)))
  let queues := ((List.range 6).filter (fun i => w.testBit (44 + i))).map (fun (q : Nat) =>
    padTo 4096 (rowsBytes ((k.queue q).map (·.data))))
  let n := (s.entriesOf id t (squareOf c)).length
  let entries := blocksOf (n / 16 + 1) (markBytes false ((List.range n).flatMap (fun i =>
    (List.range 256).map (Config.entryByte seq i))))
  let fifos := if l.coreIx t ≠ 0 then []
    else (List.range 4).flatMap (fun i =>
      let f := (s.square (squareOf c)).fifo i
      blocksOf 17 (withGranules f.bytes f.pois))
  let store := match p.live with
    | none => (List.range 512).map (fun (i : Nat) => k.savedBytes (4096 * i) 4096)
    | some _ => p.ranges.flatMap (fun r => blocksOf 512 (k.savedBytes r.1 r.2))
  tiles ++ accs ++ queues ++ entries ++ fifos ++ store

/-- Block 0 of a task's image (R289). -/
def State.imageHead (s : State) (c id t seq : Nat) (p : Stopped) (l : Launch) (data : List PBytes) : List Byte :=
  let k := s.core c
  let w := p.word
  let d (n v : Nat) : List Byte := natBytes n v
  let bits (n : Nat) (f : Nat → Bool) : Nat := (List.range n).foldl (fun a i => a + (if f i then 2 ^ i else 0)) 0
  let full := if p.live.isNone then 2 ^ 16 else 0
  d 8 (1 + 256 * 0x12 + full + l.ctx * 2 ^ 24 + t * 2 ^ 32)
    ++ d 8 (seq % 2 ^ 48) ++ d 8 k.arch.pc.toNat ++ d 8 w ++ d 8 k.arch.rmode.toNat ++ d 8 k.arch.mdef.toNat
    ++ d 8 k.xstat.toNat ++ d 8 k.lpwr.toNat ++ d 8 (l.logPosOf t)
    ++ d 8 (s.entriesOf id t (squareOf c)).length
    ++ (List.range 6).flatMap (fun q => d 1 (if w.testBit (44 + q) then (k.queue q).length else 0)) ++ d 2 0
    ++ d 8 (bits 32 (fun i => w.testBit i && k.arch.side.getLsbD i))
    ++ (List.range 4).flatMap (fun i =>
        d 8 (if l.coreIx t = 0 then ((s.square (squareOf c)).fifo i).bytes.length else 0))
    ++ (List.range 8).flatMap (fun i => d 8 (Map.get 0 k.arch.tlIssued i) ++ d 8 (Map.get 0 k.arch.tlCount i))
    ++ (List.range 32).flatMap (fun i => d 8 (if w.testBit i then (k.x (BitVec.ofNat 5 i)).toNat else 0))
    ++ d 16 (bits 128 (fun i => w.testBit (32 + i / 16) && k.rowSideOf i))
    ++ d 8 (bits 48 (fun i => w.testBit (44 + i / 8) && ((k.queue (i / 8)).map (·.pois)).getD (i % 8) false))
    ++ d 8 0
    ++ (List.range 7).flatMap (fun i => d 4 (Map.get 0 k.arch.fmts (i + 1)).toNat) ++ d 4 0
    ++ (List.range 8).flatMap (fun i => d 16 (k.shape i).toNat)
    ++ (List.range 16).flatMap (fun i => d 8 ((k.chan i).count % 2 ^ 32 + Map.get 0 k.xbytes i % 2 ^ 32 * 2 ^ 32))
    ++ (if l.coreIx t = 0 then (List.range 192).map (Config.combinerByte seq) else d 192 0)
    ++ natBytes 128 (bits 1024 (fun i => decide (4 ≤ i) && (data.getD (i - 4) []).any (·.2)))
    ++ d 2944 0

/-- The tag of block `i` (R290): it covers the block's bytes, those of poisoned granules taken as zero, and its poison
bit. -/
def State.tagOf (s : State) (seq i : Nat) (bs : PBytes) : BitVec 128 :=
  Config.saveTag s.coldResets seq i (bs.map (fun b => if b.2 then 0 else b.1) ++ [if bs.any (·.2) then 1 else 0])

/-- The blocks of a task's image: header, tag table, data. -/
def State.image (s : State) (c id t seq : Nat) (p : Stopped) (l : Launch) : List PBytes :=
  let data := s.imageData c id t seq p l
  let head := markBytes false (s.imageHead c id t seq p l data)
  let tags := markBytes false ((List.range 768).flatMap (fun i =>
    natBytes 16 (if i = 0 then (s.tagOf seq 0 head).toNat
      else if 4 ≤ i ∧ i < 4 + data.length then (s.tagOf seq i (data.getD (i - 4) [])).toNat else 0)))
  head :: (blocksOf 3 tags ++ data)

/-! ## Saving (R285, R287, R291, R162) -/

/-- The device-virtual address of a task's save slot (R288). -/
def State.slotAddr (s : State) (l : Launch) (t : Nat) : Nat :=
  s.savb l.ctx + 2580480 * (l.task t).saveSlot.getD 0

/-- Tasks of a launch that are bound. -/
def Launch.boundTasks (l : Launch) : List Nat :=
  (List.range l.count).filter (fun t => (l.task t).bound && !(l.task t).ended)

/-- Whether a launch may be saved: every bound core has stopped, with everything issued performed. -/
def State.saveReady (s : State) (l : Launch) : Bool :=
  l.preempting && !l.saved && s.savn l.ctx != 0
    && l.boundTasks.all (fun t =>
      let k := s.core (l.pcore t)
      k.stopped.isSome && !k.stopReq.any StopReq.ends && k.inflight.isEmpty && k.cmds.isEmpty && (s.square (squareOf (l.pcore t))).gang.isNone)

/-- Stores blocks of an image from an address on: the state, or how many were written before the save engine waits (for a
page that migrates, R37, or a line, R89) or stops with a fault. -/
def State.putBlocks (s : State) (ctx core va : Nat) : Nat → List PBytes → State × Option (Nat × Option TrapInfo)
  | _, [] => (s, none)
  | n, b :: bs =>
    match s.check2 (State.deviceWho ctx core) .store 0 va 4096 0 with
    | .ok ps =>
      if ps.any (fun p => s.lineRefused p.pa p.size) then (s, some (n, none))
      else State.putBlocks (ps.foldl (fun s p => s.wrBytes p.pa ((b.drop p.idx).take p.size)) s) ctx core (va + 4096) (n + 1) bs
    | .hold => (s.keepWalked ctx va 4096, some (n, none))
    | .fault t => (s, some (n, some t))

/-- What the save engine's evictions of a context come to (R162): all made, some waiting, or a fault. -/
inductive SaveEvict where
  | done
  | waits
  | fault (t : TrapInfo)
  deriving DecidableEq, Repr

/-- Evicts vectors for the save engine, given by slice and index (R162, R175). -/
def State.evictForSave (s : State) : List (Nat × Nat) → State × SaveEvict
  | [] => (s, .done)
  | (sl, i) :: is =>
    let compact := (s.vec sl i).compact
    match s.tryEvict sl i compact with
    | .made s' => State.evictForSave s' is
    | .waits s =>
      let r := State.evictForSave s is
      (r.1, if r.2 = .done then .waits else r.2)
    | .failed => match s.evictVec sl i compact with
      | .fault t => (s, .fault t)
      | _ => (s, .waits)

/-- The resident vectors of a context: slice, index. -/
def State.residentOf (s : State) (ctx : Nat) : List (Nat × Nat) :=
  s.slices.flatMap (fun e => (e.2.resident (fun v => v.ctx == ctx)).map (fun i => (e.1, i)))

/-- What a save keeps of a task beside its image. -/
def State.keptOf (s : State) (c id t : Nat) : Kept :=
  let k := s.core c
  { ranges := (k.stopped.map (·.ranges)).getD [], entries := s.entriesOf id t (squareOf c), chans := k.chans,
    accepted := k.accepted, redSent := k.arch.redSent, redAwaited := k.arch.redAwaited,
    sendNo := k.arch.sendNo, qp := k.qp, eventFlag := k.eventFlag, following := k.following,
    stops := k.stopReq.filter (fun r => match r with | .preempt .. => false | _ => true) }

/-- A saved task leaves its core. -/
def State.unbindSaved (s : State) (id t : Nat) (l : Launch) : State :=
  let c := l.pcore t
  let kept := s.keptOf c id t
  let s := s.modSquare (squareOf c) (fun q => { q with
    xbuf := q.xbuf.filter (fun e => !(e.launch == id && e.task == t))
    fifos := if l.coreIx t = 0 then [] else q.fifos })
  let s := s.modLaunch id (fun l => { l.modTask t (fun k => { k with bound := false }) with kept := Map.put l.kept t kept })
  s.modCore c (fun k => k.unbind l.ctx)

/-- A fault of the save engine (R291): the state stays in the cores, and the context is not runnable. -/
def State.saveFault (s : State) (id ctx : Nat) (g : Saving) (t : TrapInfo) : State :=
  let s := s.modLaunch id (fun l => { l with saving := some { g with faulted := true } })
  (s.modContext ctx (fun k => { k with notRunnable := true })).post 0x03 ctx t.faddr

/-- Every image is written: the context's vectors are evicted when no other task of it stays bound, and the launch
leaves its squares as a resumable entry (R220). An eviction that waits holds the save's end. -/
def State.saveEnds (s : State) (id : Nat) (l : Launch) (g : Saving) : State :=
  let mine := l.boundTasks
  let others := s.cores.any (fun e => match e.2.task with
    | some (j, _) => j != id && s.ctxOf e.1 == l.ctx
    | none => false)
  let g := { g with image := mine.length, block := 0 }
  match if others then (s, .done) else s.evictForSave (s.residentOf l.ctx) with
  | (s, .fault t) => s.saveFault id l.ctx g t
  | (s, .waits) => s.modLaunch id (fun l => { l with saving := some g })
  | (s, .done) =>
    let s := mine.foldl (fun s t => s.unbindSaved id t l) s
    let s := s.modLaunch id (fun l => { l with preempting := false, saved := true, saving := none, age := 0 })
    (s.modContext l.ctx (fun k => { k with notRunnable := false })).contextIdle l.ctx

/-- A core word that is being saved meets the error that comes next (R291): one that cannot be corrected is written as
poison and logged. -/
def State.saveMeets (s : State) (c : Nat) (p : Stopped) : State :=
  let past : State := { s with errors := s.errors.drop 1 }
  match s.errors with
  | some (.localWord a syn fixed) :: _ =>
    if p.live.isNone || p.ranges.any (fun r => decide (r.1 ≤ a) && decide (a < r.1 + r.2)) then
      past.localError c a 0 syn.toNat fixed
    else s
  | some (.register reg syn fixed) :: _ =>
    if p.word.testBit (if reg < 32 then reg else 32 + (reg - 128) / 16) && (decide (reg < 32) || decide (128 ≤ reg)) && decide (reg < 256)
    then (past.logError 0 (!fixed) 0 syn.toNat (c * 2 ^ 24 + reg)).modCore c (fun k =>
      if fixed then k
      else if reg < 32 then k.setX (BitVec.ofNat 5 reg) (k.x (BitVec.ofNat 5 reg)) true Taint.clean
      else k.setRow (reg - 128) (k.row (reg - 128)) true)
    else s
  | _ => s

/-- Writes the images of the tasks from the place where the save engine stands. -/
def State.saveFrom (s : State) (id : Nat) (l : Launch) (g : Saving) : List Nat → State
  | [] => s.saveEnds id l g
  | t :: ts =>
    let c := l.pcore t
    match (s.core c).stopped with
    | none => s
    | some p =>
      let s := if g.block = 0 then s.saveMeets c p else s
      let bs := (s.image c id t (g.seq + g.image) p l).drop g.block
      match s.putBlocks l.ctx c (s.slotAddr l t + 4096 * g.block) g.block bs with
      | (s, none) => State.saveFrom s id l { g with image := g.image + 1, block := 0 } ts
      | (s, some (n, none)) =>
        -- the engine goes on from this block
        s.modLaunch id (fun l => { l with saving := some { g with block := n } })
      | (s, some (n, some tr)) => s.saveFault id l.ctx { g with block := n } tr

/-- SAVE (R287): SEQ rises once for each image. -/
def execSave (launch : Nat) (st : State) : Res :=
  .next (match st.launch? launch with
    | none => st
    | some l =>
      if !st.saveReady l then st
      else match l.saving with
        | some g => if g.faulted then st else st.saveFrom launch l g (l.boundTasks.drop g.image)
        | none =>
          let g : Saving := { seq := st.saveSeq + 1, image := 0, block := 0, faulted := false }
          ({ st with saveSeq := st.saveSeq + l.boundTasks.length }).saveFrom launch l g l.boundTasks)

/-- SAVE_RESUME (R291). -/
def execSaveResume (launch : Nat) (st : State) : Res :=
  .next (match st.launch? launch with
    | none => st
    | some l => match l.saving with
      | some g =>
        if g.faulted && st.saveReady l then
          let g := { g with faulted := false }
          (st.modLaunch launch (fun l => { l with saving := some g })).saveFrom launch l g (l.boundTasks.drop g.image)
        else st
      | none => st)

/-! ## Restore (R292, R293) -/

/-- A dword of an image's header. -/
def headAt (h : PBytes) (ofs n : Nat) : Nat := bytesNat (((h.drop ofs).take n).map (·.1))

/-- How many data blocks of each group a header describes: tiles, accumulators, queues, exchange entries, the four
FIFOs, the local store. -/
def imageShape (h : PBytes) (ranges : List (Nat × Nat)) : List Nat :=
  let w := headAt h 24 8
  let up (n : Nat) := (n + 4095) / 4096
  let live (lo n : Nat) := ((List.range n).filter (fun i => w.testBit (lo + i))).length
  [live 32 8, live 40 4, live 44 6, up (256 * headAt h 72 8)]
    ++ (List.range 4).map (fun i => up (headAt h (96 + 8 * i) 8))
    ++ [if headAt h 0 8 / 65536 % 2 = 1 then 512 else ranges.foldl (fun a r => a + up r.2) 0]

/-- A block of an image in memory. -/
def State.getBlock (s : State) (ctx core va : Nat) : Option PBytes :=
  match s.check2 (State.deviceWho ctx core) .load 0 va 4096 0 with
  | .ok ps => some (ps.flatMap (fun p => s.rdBytes p.pa p.size))
  | _ => none

/-- Whether the restore waits for a block: its page migrates (R37), or a line of it is busy (R89). -/
def State.blockWaits (s : State) (ctx core va : Nat) : Bool :=
  match s.check2 (State.deviceWho ctx core) .load 0 va 4096 0 with
  | .ok ps => ps.any (fun p => s.lineRefused p.pa p.size)
  | .hold => true
  | .fault _ => false

/-- Addresses of the blocks of an image that a header describes. -/
def imageBlocks (h : PBytes) (va : Nat) (ranges : List (Nat × Nat)) : List Nat :=
  (List.range (4 + (imageShape h ranges).foldl (· + ·) 0)).map (fun i => va + 4096 * i)

/-- A block that checks: readable, without poison that the bitmap does not cover, and its tag right; of the tag table's own
blocks, no poison. -/
def State.blockOk (s : State) (ctx core va : Nat) (h : PBytes) (i : Nat) : Option PBytes :=
  match s.getBlock ctx core (va + 4096 * i), s.getBlock ctx core (va + 4096 * (1 + 16 * i / 4096)) with
  | some b, some tb =>
    let poisonOk := !b.any (·.2) || (decide (4 ≤ i) && (headAt h 1024 128).testBit i)
    let tagged := (1 ≤ i ∧ i < 4)
      ∨ (!((tb.drop (16 * i % 4096)).take 16).any (·.2)
          && BitVec.ofNat 128 (headAt tb (16 * i % 4096) 16) == s.tagOf (headAt h 8 8 % 2 ^ 48) i b) = true
    if poisonOk ∧ tagged then some b else none
  | _, _ => none

/-- Checks every block of an image (R292): the first that fails, by its address, or the header and the data. -/
def State.checkImage (s : State) (ctx core va : Nat) (ranges : List (Nat × Nat)) : Except Nat (List PBytes) :=
  match s.getBlock ctx core va with
  | none => .error va
  | some h =>
    (List.range (imageBlocks h va ranges).length).foldl (fun (r : Except Nat (List PBytes)) i => match r with
      | .error e => .error e
      | .ok bs => match s.blockOk ctx core va h i with
        | some b => .ok (if 1 ≤ i ∧ i < 4 then bs else bs ++ [b])
        | none => .error (va + 4096 * i)) (.ok [])

/-- The error that comes next falls on a block that the restore's second pass reads (R292, R105, R106). -/
def State.restoreMeets (s : State) (ctx core : Nat) (vas : List Nat) : State :=
  match s.errors with
  | some (.sliceWord ..) :: _ | some (.granule ..) :: _ =>
    let ps := vas.flatMap (fun va => match s.check2 (State.deviceWho ctx core) .load 0 va 4096 0 with
      | .ok ps => ps.map (fun p => (p, false))
      | _ => [])
    s.meets core 2 ps (fun _ => false) id
  | _ => s

/-- Groups of blocks by their lengths. -/
def groups : List Nat → List PBytes → List (List PBytes)
  | [], _ => []
  | n :: ns, bs => bs.take n :: groups ns (bs.drop n)

/-- The rows of a block. -/
def blockRows (b : PBytes) (n : Nat) : List Row :=
  (List.range n).map (fun i => rowOfBytes (((b.drop (256 * i)).take 256).map (·.1)))

/-- The state of a core loaded from an image (R287, R293). -/
def Core.loadImage (k : Core) (l : Launch) (kept : Kept) (h : PBytes) (gs : List (List PBytes)) : Core :=
  let w := headAt h 24 8
  let liveOf (lo n : Nat) := (List.range n).filter (fun i => w.testBit (lo + i))
  let rowMap (is : List Nat) (bs : List PBytes) (m : Map Row) : Map Row :=
    (List.range is.length).foldl (fun m j =>
      let rows := blockRows (bs.getD j []) 16
      (List.range 16).foldl (fun m r => Map.set 0 m (16 * is.getD j 0 + r) (rows.getD r 0)) m) m
  let qs := liveOf 44 6
  let queues := (List.range qs.length).foldl (fun (m : Map (List QEntry)) j =>
    let q := qs.getD j 0
    let n := headAt h (80 + q) 1
    let es := ((blockRows ((gs.getD 2 []).getD j []) n).mapIdx (fun i r =>
      ({ serial := i, data := r, pois := (headAt h 528 8).testBit (8 * q + i), taint := Taint.clean, filled := true } : QEntry)))
    Map.set [] m q es) []
  let dwords (ofs n step size : Nat) (base : Nat) : Map Nat :=
    (List.range n).foldl (fun m i => Map.set 0 m (base + i) (headAt h (ofs + step * i) size)) []
  let lp := headAt h 56 8
  let power (b : Bool) (on : Bool) (k : Core) : Core :=
    k.setLayer b { k.layer b with want := on, on := on, busy := false, down := false }
  let k := power true (lp.testBit 1) (power false (lp.testBit 0) ((k.emptied.carve false).carve true))
  let k := k.freshStore l
  let store := (gs.getD 8 [])
  let k := if headAt h 0 8 / 65536 % 2 = 1 then k.lsWrite 0 (store.flatMap id)
    else (kept.ranges.foldl (fun (a : Core × List PBytes) r =>
      let n := (r.2 + 4095) / 4096
      (a.1.lsWrite r.1 (((a.2.take n).flatMap id).take r.2), a.2.drop n)) (k, store)).1
  let arch : Arch := { Arch.reset with
    pc := BitVec.ofNat 64 (headAt h 16 8)
    regs := (dwords 256 32 8 8 0).map (fun e => (e.1, BitVec.ofNat 64 e.2))
    side := BitVec.ofNat 32 (headAt h 88 8)
    rows := rowMap (liveOf 32 8) (gs.getD 0 []) []
    rowSide := BitVec.ofNat 128 (headAt h 512 16)
    queues := queues
    fmts := (dwords 544 7 4 4 1).map (fun e => (e.1, BitVec.ofNat 64 e.2))
    rmode := BitVec.ofNat 64 (headAt h 32 8)
    mdef := BitVec.ofNat 64 (headAt h 40 8)
    shapes := (dwords 576 8 16 16 0).map (fun e => (e.1, BitVec.ofNat 128 e.2))
    accs := rowMap (liveOf 40 4) (gs.getD 1 []) []
    tlIssued := dwords 128 8 16 8 0
    tlCount := dwords 136 8 16 8 0
    redSent := kept.redSent
    redAwaited := kept.redAwaited
    sendNo := kept.sendNo }
  { k with arch := arch, xstat := BitVec.ofNat 64 (headAt h 48 8), chans := kept.chans, xbytes := dwords 708 16 8 4 0,
           accepted := kept.accepted, qp := kept.qp, eventFlag := kept.eventFlag, following := kept.following,
           stopReq := kept.stops, armed := l.gang, l1 := [] }

/-- Loads one task's image into its core and square. -/
def State.loadTask (s : State) (id t : Nat) (l : Launch) (blocks : List PBytes) : State :=
  let c := l.pcore t
  let kept : Kept := Map.get
    { ranges := [], entries := [], chans := [], accepted := [], redSent := [], redAwaited := [],
      sendNo := 0, qp := none, eventFlag := false, following := false, stops := [] } l.kept t
  let h := blocks.headD []
  let gs := groups (imageShape h kept.ranges) (blocks.drop 1)
  let s := s.setCore c { (s.core c).loadImage l kept h gs with task := some (id, t) }
  let s := s.modSquare (squareOf c) (fun q =>
    let fifos := if l.coreIx t ≠ 0 then q.fifos
      else (List.range 4).foldl (fun (m : Map Fifo) i =>
        let bs := (((gs.getD (4 + i) []).flatten).take (headAt h (96 + 8 * i) 8))
        Map.set Fifo.reset m i { Fifo.reset with bytes := PBytes.data bs, pois := PBytes.granules bs }) []
    { q with fifos := fifos, xbuf := q.xbuf ++ kept.entries.map (fun e => { e with core := c }) })
  let s := (s.doubleTask l c).setLogPos id t (headAt h 64 8)
  s.modLaunch id (fun l => { l.modTask t (fun k => { k with bound := true }) with kept := Map.erase l.kept t })

/-- A message of a launch that has moved finds its tasks on their new squares: the routers' remap tables are rewritten
(R293). -/
def Msg.reroute (m : Msg) (id : Nat) (l : Launch) : Msg :=
  if m.body.target.1 ≠ id then m
  else match m.body with
    | .mcast n copies ofs data pois sc si =>
      { m with body := .mcast n (copies.map (fun x => { x with waypoint := none })) ofs data pois sc si }
    | b => match b.target.2 with
      | t :: _ => { m with dst := squareOf (l.pcore t), waypoint := none }
      | [] => m

/-- The images of a launch's tasks that a restore reads, on the cores that a placement gives them: each checked (R292). -/
def State.checkImages (s : State) (l : Launch) (ts : List Nat) : List (Except Nat (List PBytes)) :=
  ts.map (fun t => s.checkImage l.ctx (l.pcore t) (s.slotAddr l t) ((Map.find? l.kept t).map (·.ranges) |>.getD []))

/-- The first block that fails its check. -/
def firstBad (rs : List (Except Nat (List PBytes))) : Option Nat :=
  rs.findSome? (fun r => match r with | .error a => some a | .ok _ => none)

/-- A restore is abandoned at a block (R292). -/
def State.restoreFails (s : State) (ctx a : Nat) : State :=
  (s.modContext ctx (fun k => { k with unrestorable := true })).post 0x04 ctx (BitVec.ofNat 64 a)

/-- A core that an abandoned restore has touched is zeroed (R292). -/
def Core.zeroed (k : Core) : Core :=
  { (k.emptied.carve false).carve true with arch := Arch.reset, ls := [], lsPois := [], l1 := [], xstat := 0 }

/-- RESTORE (R292, R293) of the launch that the scheduler selects (R218, R220): every block is checked before any state
is loaded, and again as it is loaded. -/
def execRestore (launch : Nat) (placement : List Nat) (st : State) : Res :=
  .next (match st.selected with
    | some (i, .resumed id, l) =>
      if id ≠ launch ∨ !st.placeable l placement then st
      else
        let ts := (List.range l.count).filter (fun t => Map.has l.kept t)
        let l' := { l with place := placement }
        let blocks := ts.flatMap (fun t =>
          let va := st.slotAddr l t
          (imageBlocks ((st.getBlock l.ctx (l'.pcore t) va).getD []) va
            ((Map.find? l.kept t).map (·.ranges) |>.getD [])).map (fun a => (l'.pcore t, a)))
        let vas := blocks.map (·.2)
        if blocks.any (fun b => st.blockWaits l.ctx b.1 b.2) then vas.foldl (fun s a => s.keepWalked l.ctx a 4096) st
        else match firstBad (st.checkImages l' ts) with
        | some a => st.restoreFails l.ctx a
        | none =>
          let st := st.restoreMeets l.ctx (l'.pcore 0) vas
          let checked := st.checkImages l' ts
          match firstBad checked with
          | some a => ts.foldl (fun s t => s.modCore (l'.pcore t) Core.zeroed) (st.restoreFails l.ctx a)
          | none =>
          let st := { st.clearSquares placement with lastQueue := i }
          let st := st.modLaunch launch (fun l => { l with place := placement, saved := false })
          let st := (List.range ts.length).foldl (fun s j => match checked.getD j (.error 0) with
            | .ok bs => s.loadTask launch (ts.getD j 0) l' bs
            | .error _ => s) st
          ({ st with msgs := st.msgs.map (fun (e : Nat × Msg) => (e.1, e.2.reroute launch l')) }).relend
            none
    | _ => st)

end Sys2Proof.Machine
end

