-- ==== Sys2Proof/Machine/Management.lean ====
section
/-! DEFINITION. The management controller: boot, attestation, checkpoints, and the registers the host writes (R109 to
R112, R229, R249, R251, R256, R260 to R266, R457). -/

namespace Sys2Proof.Machine

/-! ## Boot (R264, R266, R66) -/

/-- The result code of a boot (R264). -/
def bootCode (ecdsaOk lmsOk : Bool) (version fused : Nat) (selfTestOk memOk : Bool) : Nat :=
  if !ecdsaOk then 1 else if !lmsOk then 2 else if version < fused then 3 else if !selfTestOk then 4
  else if !memOk then 5 else 0

/-- Buses that failed their test, 8 per core, and the layers carved without them (R66). -/
def State.failBus (s : State) (b : Nat) : State :=
  s.modCore (b / 8) (fun k =>
    let up := decide (4 ≤ b % 8)
    let l := k.layer up
    (k.setLayer up { l with live := setBit l.live (b % 4) false, carvePending := true }).carve up)

/-- What outlasts a cold reset: the count of resets, the fused security version, the non-volatile attestation counter,
and the model's own fields. -/
def State.afterReset (s : State) (fused code : Nat) : State :=
  { State.reset with
    coldResets := s.coldResets + 1, lmsIndex := s.lmsIndex, fusedVersion := fused, bootFailed := decide (code ≠ 0)
    bootst := BitVec.ofNat 64 (code + 256 * (Config.bootStage code).toNat)
    agenda := s.agenda, cur := s.cur, turns := s.turns, delays := s.delays, errors := s.errors, peeks := s.peeks,
    freeCount := s.freeCount }

/-- COLD_RESET (R266): `fused` is what has been fused since, and a fuse never falls. -/
def execColdReset (ecdsaOk lmsOk : Bool) (version fused : Nat) (selfTestOk memOk : Bool) (failedBuses : List Nat)
    (st : State) : Res :=
  let least := max st.fusedVersion fused
  let code := bootCode ecdsaOk lmsOk version least selfTestOk memOk
  let s := st.afterReset least code
  .next (if code = 0 then failedBuses.foldl State.failBus s else s)

/-- A report over a nonce (R265). -/
def State.report (s : State) (nonce : Nat) : Report :=
  { nonce := nonce, identity := Config.deviceIdentity, stages := Config.measurements s.coldResets, index := s.lmsIndex,
    ecdsa := Config.ecdsaSignature nonce s.lmsIndex, lms := Config.lmsSignature nonce s.lmsIndex }

/-- ATTESTATION_REPORT (R265): none after 2^20 reports. -/
def execAttestationReport (nonce : Nat) (st : State) : Res :=
  .next (if 2 ^ 20 ≤ st.lmsIndex then st
    else { st with lmsIndex := st.lmsIndex + 1, reports := st.reports ++ [st.report nonce] })

/-! ## Checkpoints (R263) -/

/-- Whether every context is stopped. -/
def State.allStopped (s : State) : Bool := s.cores.all (fun e => e.2.task.isNone || e.2.stopped.isSome)

/-- The 4 KiB blocks in which a memory lists a byte. -/
def listedBlocks (m : List Host.Cell) : List Nat := (m.map (fun e => e.1 / 4096)).eraseDups

/-- Where a checkpoint holds what is no device memory: local stores, queue arrays, the vectors in lent ways, and the
tags of blocks (notes/assumptions/23.md). -/
def ckptStore (core : Nat) : Nat := 2 ^ 48 + core * 2 ^ 24
def ckptArray (sl : Nat) : Nat := 2 ^ 49 + sl * 2 ^ 24
def ckptVec (sl i : Nat) : Nat := 2 ^ 50 + sl * 2 ^ 32 + i * 2 ^ 18
def ckptTag (place : Nat) : Nat := 2 ^ 60 + place

/-- A resident vector as its lent way holds it, and a checkpoint with it: the header's granule, then the elements (R161). -/
def SaVec.wayBytes (v : SaVec) : List Byte :=
  natBytes 64 v.header ++ (List.range (64 * v.nr)).flatMap (fun j => natBytes 5 (v.elem j).toNat)

/-- A run of bytes as blocks of 4 KiB from a place on. -/
def blocksAt (place : Nat) (bs : List Byte) : List (Nat × List Byte) :=
  (List.range ((bs.length + 4095) / 4096)).map (fun b =>
    (place + 4096 * b, (List.range 4096).map (fun i => bs.getD (4096 * b + i) 0)))

/-- The blocks of a checkpoint that hold anything: local stores, the slices' queue arrays and lent ways, then device
memory with the slices' lines. -/
def State.ckptBlocks (s : State) : List (Nat × List Byte) :=
  let range (f : Nat → Byte) (a : Nat) : List Byte := (List.range 4096).map (fun i => f (a + i))
  s.cores.flatMap (fun e => (listedBlocks e.2.ls).map (fun b => (ckptStore e.1 + 4096 * b, range e.2.lsRd (4096 * b))))
    ++ s.slices.flatMap (fun e => ((e.2.array.map (fun d => d.1 / 512)).eraseDups).map (fun b =>
      (ckptArray e.1 + 4096 * b, (List.range 512).flatMap (fun i => natBytes 8 (Map.get 0 e.2.array (512 * b + i)).toNat))))
    ++ s.slices.flatMap (fun e => (e.2.vecs.filter (fun v => v.2.valid && v.2.st == 1)).flatMap (fun v =>
      blocksAt (ckptVec e.1 v.1) v.2.wayBytes))
    ++ (listedBlocks s.mem).map (fun b => (4096 * b, range s.rd (4096 * b)))

/-- The checkpoint tier behind a port, as a device. -/
def tierOf (port : Nat) : Nat := 2 ^ 19 + port

/-- A port of the checkpoint tier that is lit; `other` is left out. -/
def State.tierPorts (s : State) (other : Nat) : List Nat :=
  ((List.range 10).map (· + 22)).filter (fun i => (s.port i).lit && i != other)

/-- A block and its tag, for a port of the tier. -/
def ckptFrames (port : Nat) (b : Nat × List Byte) : List Outgoing :=
  let store (ofs : Nat) (bs : List Byte) : Outgoing :=
    { dev := tierOf port, what := { kind := .store, key := 0, ofs := ofs, size := bs.length, data := bs } }
  [store b.1 b.2, store (ckptTag b.1) (natBytes 16 (Config.checkpointTag b.1 b.2).toNat)]

/-- A checkpoint's blocks, spread over the lit ports of the tier. -/
def State.ckptSend (s : State) : State :=
  let ps := s.tierPorts 32
  s.sendOut ((s.ckptBlocks.mapIdx (fun i b => ckptFrames (ps.getD (i % ps.length) 22) b)).flatten)

/-- The blocks that a port of the tier has not had acknowledged go to another, when the port goes dark (R263). -/
def State.moveBlocks (s : State) (port : Nat) : State :=
  match if port < 22 then none else (s.tierPorts port).head? with
  | none => s
  | some q =>
    let unsent := Map.get Peer.reset s.peers (tierOf port)
    { s with
      outbox := s.outbox.map (fun (o : Outgoing) => if o.dev = tierOf port then { o with dev := tierOf q } else o)
        ++ unsent.window.map (fun f => ({ dev := tierOf q, what := f.2 } : Outgoing)),
      peers := Map.put s.peers (tierOf port) { unsent with window := [], again := [] } }

/-- CHECKPOINT (R263): its start, once every context is stopped and a port of the tier is lit; and its end with
CKPT_DONE, once every block has been acknowledged. What was held goes on. -/
def execCheckpoint (done : Bool) (st : State) : Res :=
  .next (if !done then
      (if st.checkpointing || !st.allStopped || (st.tierPorts 32).isEmpty then st
        else ({ st with checkpointing := true } : State).ckptSend)
    else if !st.checkpointing || st.outbox.any (fun o => decide (2 ^ 19 ≤ o.dev))
        || st.peers.any (fun p => decide (2 ^ 19 ≤ p.1) && !p.2.window.isEmpty) then st
    else (({ st with checkpointing := false } : State).post 0x0C 0 (Config.ckptStatus 0)).serveInbound)

/-- Bytes loaded into a memory from an address on. -/
def loadBytes (m : List Host.Cell) (a : Nat) (bs : List Byte) : List Host.Cell :=
  (bs.mapIdx (fun i b => (a + i, b))).foldl (fun m e => Memory.write none m e.1 e.2) m

/-- A resident vector loaded from its way's bytes. -/
def SaVec.loadWay (v : SaVec) (all : List Byte) : SaVec :=
  { v.setHeader (bytesNat (all.take 32)) with elems := (List.range (64 * v.nr)).foldl (fun m j =>
      Map.set 0 m j (BitVec.ofNat 40 (bytesNat ((all.drop (64 + 5 * j)).take 5)))) [] }

/-- The bytes that a checkpoint's blocks hold from a place on, `n` blocks of them; a block that is not there is zero. -/
def imageBytes (blocks : List (Nat × List Byte)) (place n : Nat) : List Byte :=
  (List.range n).flatMap (fun b => (Map.find? blocks (place + 4096 * b)).getD (List.replicate 4096 0))

/-- A slice loaded from a checkpoint's blocks: its queue array empty as yet, and its resident vectors. -/
def Slice.loadCkpt (k : Slice) (sl : Nat) (blocks : List (Nat × List Byte)) : Slice :=
  { k with
    array := [], arrayPois := [],
    vecs := k.vecs.map (fun (v : Nat × SaVec) => (v.1, if v.2.valid && v.2.st == 1 then
      v.2.loadWay (imageBytes blocks (ckptVec sl v.1) ((64 + 320 * v.2.nr + 4095) / 4096)) else v.2)) }

/-- A checkpoint's blocks loaded: device memory, local stores, queue arrays, and the vectors that are resident. -/
def State.loadCkpt (s : State) (blocks : List (Nat × List Byte)) : State :=
  let upTo (hi lo : Nat) := blocks.filter (fun b => decide (lo ≤ b.1) && decide (b.1 < hi))
  let stores (c : Nat) (m : List Host.Cell) : List Host.Cell :=
    (upTo (ckptStore (c + 1)) (ckptStore c)).foldl (fun m b => loadBytes m (b.1 - ckptStore c) b.2) m
  let s : State := { s with
    mem := (upTo (2 ^ 48) 0).foldl (fun m b => loadBytes m b.1 b.2) [], memPois := [], lines := [], lost := none,
    cores := s.cores.map (fun (e : Nat × Core) => (e.1, { e.2 with ls := stores e.1 [], lsPois := [] })),
    slices := s.slices.map (fun (e : Nat × Slice) => (e.1, e.2.loadCkpt e.1 blocks)) }
  let held := s.cores
  let s := (upTo (ckptStore Config.cores) (ckptStore 0)).foldl (fun (s : State) b =>
    let c := (b.1 - ckptStore 0) / 2 ^ 24
    if Map.has held c then s
    else s.modCore c (fun k => { k with ls := loadBytes k.ls (b.1 - ckptStore c) b.2 })) s
  (upTo (ckptArray Config.squares) (ckptArray 0)).foldl (fun (s : State) b =>
    let sl := (b.1 - ckptArray 0) / 2 ^ 24
    (chunks 8 512 b.2).mapIdx (fun i d => ((b.1 - ckptArray sl) / 8 + i, d)) |>.foldl (fun (s : State) e =>
      s.modSlice sl (fun k => { k with array := Map.set 0 k.array e.1 (BitVec.ofNat 64 (bytesNat e.2)) })) s) s

/-- CHECKPOINT_RESTORE (R263): `blocks` are read from the tier, each with its tag, and `broken` is one with an
uncorrectable error. Every tag is checked; a bad block leaves device memory undefined and no context runnable. -/
def execCheckpointRestore (blocks : List (Nat × List Byte × BitVec 128)) (broken : Option Nat) (st : State) : Res :=
  let bad (b : Nat × List Byte × BitVec 128) : Bool :=
    b.2.1.length != 4096 || b.2.2 != Config.checkpointTag b.1 b.2.1 || broken == some b.1
  .next (if !st.allStopped then st
    else match List.find? bad blocks with
      | some b =>
        let st := { st with mem := [], memPois := [], lines := [], lost := some st.freeCount, freeCount := st.freeCount + 1 }
        ((List.range Config.contexts).foldl (fun (s : State) n =>
          s.modContext n (fun k => { k with notRunnable := true })) st).post 0x04 0 (BitVec.ofNat 64 b.1)
      | none =>
        ((List.range Config.contexts).foldl (fun (s : State) n =>
          if (s.context n).notRunnable ∨ (s.context n).unrestorable then
            s.modContext n (fun k => { k with notRunnable := false, unrestorable := false })
          else s) (st.loadCkpt (blocks.map (fun b => (b.1, b.2.1))))).post 0x0C 0 (Config.ckptStatus 1))

/-! ## Management registers -/

/-- XSTAT (R249): a write of any value clears MISS and SLOTMISS. -/
def execXstat (core : Nat) (st : State) : Res :=
  .next (st.modCore core (fun k => { k with xstat := 0 }))

/-- ECNT (R111). -/
def execEcnt (level : Nat) (st : State) : Res :=
  .next (st.modErr level (fun b => { b with cor := 0, unc := 0 }))

/-- ELOG (R112). -/
def execElog (level : Nat) (st : State) : Res :=
  .next (st.modErr level (fun b => { b with log := [] }))

/-- The least PERIOD of a level; 0 for a level without a scrubber (R110). -/
def periodMin (level : Nat) : Nat := if level = 1 ∨ level = 3 then 16 else if level = 5 then 1024 else 0

/-- What ESCR holds after a write (R110). -/
def escrOf (level : Nat) (v : Dword) : Dword :=
  let logm := if bitsOf v.toNat 4 2 = 3 then 0 else bitsOf v.toNat 4 2
  if periodMin level = 0 then BitVec.ofNat 64 (16 * logm)
  else BitVec.ofNat 64 (v.toNat % 2 + 16 * logm + 2 ^ 16 * max (periodMin level) (bitsOf v.toNat 16 32))

/-- ESCR (R110). -/
def execEscr (level : Nat) (v : Dword) (st : State) : Res :=
  .next (st.modErr level (fun b => { b with escr := escrOf level v }))

/-- CTMP (R229): LEVEL is read only, and the ceiling limits the rate in force. -/
def execCtmp (col : Nat) (v : Dword) (st : State) : Res :=
  .next (st.modColumn col (fun k => { k with rate := bitsOf v.toNat 32 12 }))

/-- Whether AFPCFG accepts a value (R251). -/
def afpcfgOk (v : Dword) : Bool :=
  let x := v.toNat
  let tloss := bitsOf x 32 20
  let burst := bitsOf x 16 16
  bitsOf x 52 12 == 0 && bitsOf x 2 14 == 0 && decide (4 ≤ burst) && decide (burst ≤ 1024)
    && decide (1000 ≤ tloss) && decide (tloss ≤ 1000000) && decide (1024 * burst + 100000 ≤ 100 * tloss)

/-- AFPCFG (R251): CKPT is read only; EN set again brings a disabled port back (R259), and EN clear makes it dark. -/
def execAfpcfg (port : Nat) (v : Dword) (st : State) : Res :=
  let cfg := BitVec.ofNat 64 (v.toNat - bitsOf v.toNat 1 1 * 2 + (if 22 ≤ port then 2 else 0))
  .next (if 32 ≤ port ∨ !afpcfgOk v then st
    else if v.getLsbD 0 then st.modPort port (fun p => { p with cfg := cfg, down := false })
    else (st.modPort port (fun p => { p with cfg := cfg, lit := false })).moveBlocks port)

/-- AFMW (R256). -/
def execAfmw (v : Dword) (st : State) : Res :=
  let guard := bitsOf v.toNat 16 10
  let window := bitsOf v.toNat 0 16
  .next (if v.toNat < 2 ^ 26 ∧ 1 ≤ guard ∧ 10 ≤ window ∧ window ≤ 10000 then { st with afmw := v } else st)

/-- The model's numbers for registers outside R457's table (notes/assumptions/24.md): ESLC's management offset (R109),
and offsets above 2^16 where the spec gives none. -/
def regEslc : Nat := 0x310
def regHeqb : Nat := 0x10000
def regHeqctl : Nat := 0x10008
def regHapb : Nat := 0x10010
def regGrandmaster : Nat := 0x10018
def regAfmw : Nat := 0x10020
def regBootst : Nat := 0x10028
/-- CTMP of column `i` stands 8 i bytes further. -/
def regCtmp : Nat := 0x20000

/-- REGISTER_WRITE (R457): the host's write of a register of core or context `own`; what a register does not accept
changes nothing. TAIL and the drop count of HEQCTL stay the device's. DESIGN CHOICE (notes/assumptions/63.md): a
write of HEQCTL with other bits set is taken without them. -/
def execRegisterWrite (cr own : Nat) (v : Dword) (st : State) : Res :=
  .next (if cr = regEslc then (if crAccepts 0x4D v then st.modErr 3 (fun b => { b with eslc := v }) else st)
    else if cr = regHeqb then { st with heqb := v }
    else if cr = regHeqctl then
      let old := st.heqctl.toNat
      { st with heqctl := BitVec.ofNat 64 (bitsOf v.toNat 20 4 * 2 ^ 20 + bitsOf v.toNat 32 16 * 2 ^ 32
          + bitsOf old 48 16 * 2 ^ 48 + bitsOf old 1 15 * 2) }
    else if cr = regHapb then { st with hapb := v }
    else if cr = regGrandmaster then { st with grandmaster := v.toNat, timeSource := none }
    else if crListed cr && !crReadOnly cr && crAccepts cr v then st.writeCr own own cr v
    else st)

/-! ## The host's accesses (R260) -/

/-- The dword of BAR0 at an 8-aligned offset: RSIG reads as zero (R474), and so does what no register holds. -/
def State.mgmtRead (s : State) (ofs : Nat) : Dword :=
  if ofs < 0x700 then (s.err (ofs / 256)).read (ofs / 256) (ofs % 256)
  else if 0x1000 ≤ ofs ∧ ofs < 0x1800 ∧ ofs % 64 = 0 then (s.port ((ofs - 0x1000) / 64)).cfg
  else if ofs = regHeqb then s.heqb
  else if ofs = regHeqctl then s.heqctl
  else if ofs = regHapb then s.hapb
  else if ofs = regGrandmaster then BitVec.ofNat 64 s.grandmaster
  else if ofs = regAfmw then s.afmw
  else if ofs = regBootst then s.bootst
  else if regCtmp ≤ ofs ∧ ofs < regCtmp + 8 * 256 then s.ctmp ((ofs - regCtmp) / 8)
  else 0

/-- A dword written to BAR0, through the management controller. -/
def State.mgmtWrite (s : State) (ofs : Nat) (v : Dword) : Res :=
  if ofs = regEslc then execRegisterWrite regEslc 0 v s
  else if ofs < 0x700 then
    if ofs % 256 = 0 then execEscr (ofs / 256) v s
    else if ofs % 256 = 8 then execEcnt (ofs / 256) s
    else if 0x40 ≤ ofs % 256 ∧ ofs % 256 ≤ 0x78 then execElog (ofs / 256) s
    else .next s
  else if 0x1000 ≤ ofs ∧ ofs < 0x1800 ∧ ofs % 64 = 0 then execAfpcfg ((ofs - 0x1000) / 64) v s
  else if ofs = 0x2000 then execRsig v s
  else if ofs = regAfmw then execAfmw v s
  else if regCtmp ≤ ofs ∧ ofs < regCtmp + 8 * 256 then execCtmp ((ofs - regCtmp) / 8) v s
  else if regHeqb ≤ ofs ∧ ofs ≤ regGrandmaster then execRegisterWrite ofs 0 v s
  else .next s

/-- Bytes of BAR0. -/
def State.mgmtBytes (s : State) (ofs n : Nat) : List Byte :=
  (List.range n).map (fun i => (natBytes 8 (s.mgmtRead ((ofs + i) / 8 * 8)).toNat).getD ((ofs + i) % 8) 0)

/-- The host's answer to a read. -/
def State.answerHost (s : State) (ofs : Nat) (bs : List Byte) : State :=
  s.sendOut [{ dev := 2 ^ 18, what := { kind := .answer, key := 0, ofs := ofs, size := bs.length, data := bs } }]

/-- HOST_ACCESS (R260, R263, R264), of at most 512 bytes written or 4,096 read. Through BAR0 the host reads the management registers, and writes one a dword at a
time; after a boot that failed it reads BOOTST alone. Through BAR2 it reaches device memory at HAPB's base, at the home
slices: a checkpoint holds such an access, and a busy line refuses it (R89). -/
def execHostAccess (place : BarPlace) (store : Bool) (size : Nat) (data : List Byte) (st : State) : Res :=
  let ofs := place.ofs
  let pa := st.hapb.toNat / 2 ^ 36 * 2 ^ 36 + ofs
  if (if store then 512 else 4096) < size then .next st
  else if place.bar = 0 then
    if 2 ^ 26 < ofs + size ∨ (st.bootFailed ∧ (store ∨ ofs / 8 * 8 ≠ regBootst ∨ regBootst + 8 < ofs + size)) then .next st
    else if !store then .next (st.answerHost ofs (st.mgmtBytes ofs size))
    else if ofs % 8 = 0 ∧ size = 8 then st.mgmtWrite ofs (BitVec.ofNat 64 (bytesNat data))
    else .next st
  else .next (if st.bootFailed || decide (2 ^ 36 < ofs + size) || decide (Config.memTop < pa + size) then st
    else st.outsideAccess { id := 0, dev := 2 ^ 18, parts := (spans 128 pa size).map (fun (a, n, i) => mkPart a a n 0 i),
                            what := { kind := if store then .store else .load, key := 0, ofs := pa, size := size, data := data } })

end Sys2Proof.Machine
end

