-- ==== Sys2Proof/Machine/Optical.lean ====
section
/-! DEFINITION. The optical fabric (R250 to R259) and the events of doubled execution, replay and phalanxes (R187,
R211, R212, R214). -/

namespace Sys2Proof.Machine

def Port.enabled (p : Port) : Bool := p.cfg.getLsbD 0 && !p.down
def State.peer (s : State) (d : Nat) : Peer := Map.get Peer.reset s.peers d
def State.modPeer (s : State) (d : Nat) (f : Peer → Peer) : State := { s with peers := Map.put s.peers d (f (s.peer d)) }

/-! ## Circuits (R250, R255) -/

/-- Bytes queued for a device: frames with their headers, those to be sent again with them. -/
def State.demand (s : State) (d : Nat) : Nat :=
  let size (p : Payload) : Nat := 32 + p.data.length
  (s.outbox.filter (fun o => o.dev == d)).foldl (fun a o => a + size o.what) 0
    + (s.peer d).again.foldl (fun a f => a + size f.2) 0

/-- A device placed before the first that does not come before it. -/
def insertBy (before : Nat → Nat → Bool) (d : Nat) : List Nat → List Nat
  | [] => [d]
  | e :: es => if before e d then e :: insertBy before d es else d :: e :: es

/-- The devices to which a device has something to send, the largest count first, ties to the lower number. -/
def State.wanted (s : State) : List Nat :=
  let ds := (((s.outbox.map (·.dev)) ++ (s.peers.filter (fun p => !p.2.again.isEmpty)).map (·.1)).eraseDups).filter (· < 2 ^ 18)
  ds.foldr (insertBy (fun a b => decide (s.demand b < s.demand a) || (s.demand a == s.demand b && decide (a ≤ b)))) []

/-- The largest requester of a round: device and count, ties to the lower device. -/
def largest (rs : List (Nat × Nat)) : Option (Nat × Nat) :=
  rs.foldl (fun b r => match b with
    | none => some r
    | some q => if q.2 < r.2 ∨ (q.2 = r.2 ∧ r.1 < q.1) then some r else some q) none

/-- One round of the matching for this device with `free` ports: it grants its largest requester, and its ports accept
the largest of the grants to their requests. What it has granted, and what it has accepted. -/
def State.matchRound (s : State) (free : Nat) (acc : List Nat × List Nat) (r : List (Nat × Nat) × List Nat) :
    List Nat × List Nat :=
  let mine := (s.wanted.filter (fun d => r.2.contains d && !acc.2.contains d)).take (free - acc.2.length)
  let granted := match largest (r.1.filter (fun q => !acc.1.contains q.1)) with
    | some q => acc.1 ++ [q.1]
    | none => acc.1
  (granted, acc.2 ++ mine)

/-- The circuits that four rounds give: an accepted device keeps the port that leads to it, or takes the lowest port
left. -/
def State.matched (s : State) (accepted : List Nat) : List (Nat × Nat) :=
  let ports := (List.range 22).filter (fun i => (s.port i).enabled)
  let kept := ports.filterMap (fun i => match (s.port i).circuit with
    | some d => if accepted.contains d then some (i, d) else none
    | none => none)
  let left := ports.filter (fun i => !kept.any (fun e => e.1 == i))
  kept ++ left.zip (accepted.filter (fun d => !kept.any (fun e => e.2 == d)))

/-- MATCHING_WINDOW (R255): at a window boundary, the outcome of the four rounds: circuits to the devices that this one's
ports accept, and from those that accept its grants. A new circuit to a device that is out of time, or at a port whose old
circuit leads to one, stays dark until the next boundary. A changed circuit is dark for 2 µs. This device keeps its old
circuits when it is itself out of time. -/
def execMatchingWindow (m : Matching) (st : State) : Res :=
  let window := bitsOf st.afmw.toNat 0 16 * 1000
  let guard := bitsOf st.afmw.toNat 16 10
  let free := ((List.range 22).filter (fun i => (st.port i).enabled)).length
  .next (if st.clock.toNat % window ≠ 0 ∨ (guard : Int) < st.offset.natAbs then st
    else
      let (granted, accepted) := (m.rounds.take 4).foldl (st.matchRound free) ([], [])
      let circuits := st.matched (accepted ++ granted.filter (fun d => m.accepts.contains d && !accepted.contains d))
      (List.range 22).foldl (fun (s : State) p =>
        let new := (List.find? (fun (e : Nat × Nat) => e.1 == p) circuits).map (fun e => e.2)
        let held (c : Option Nat) : Bool := match c with | some d => m.abstain.contains d | none => false
        let dark := if held new || held (s.port p).circuit then window - 2000 else 0
        if new = (s.port p).circuit then s
        else s.modPort p (fun q => { q with circuit := new, lit := false, changed := st.clock + BitVec.ofNat 64 dark }))
        { st with sentGrants := granted.mapIdx (fun i d => (i, d)) })

/-- What a device has not acknowledged goes to it again with the next token (R252, R254). -/
def State.resend (s : State) (d : Nat) : State := s.modPeer d (fun p => { p with again := p.window })

/-- CIRCUIT_LIT (R250, R254, R255): both ends of a port's circuit have trained, 2 µs after it changed at the earliest. A
port of the checkpoint tier leads to its appliance. -/
def execCircuitLit (port : Nat) (st : State) : Res :=
  let p := st.port port
  .next (if 32 ≤ port ∨ !p.enabled ∨ st.clock.toNat < p.changed.toNat + 2000 then st
    else match if 22 ≤ port then some (tierOf port) else p.circuit with
      | some d => (st.modPort port (fun p => { p with circuit := some d, lit := true })).resend d
      | none => st)

/-! ## Tokens (R252, R253) -/

/-- Whether a generation is older than another, modulo 2^16 over a half range. -/
def olderGen (g newest : BitVec 16) : Bool := decide (2 ^ 15 ≤ (g - newest).toNat)

/-- Frames that fit a burst, by their payload bytes. -/
def takeFrames : Nat → List (Option (BitVec 32) × Payload) → List (Option (BitVec 32) × Payload)
  | _, [] => []
  | burst, f :: fs => if f.2.data.length ≤ burst then f :: takeFrames (burst - f.2.data.length) fs else []

/-- What may go to a device under its token: first what is to be sent again, then what waits, while the replay window of
256 has room. -/
def State.toSend (s : State) (d : Nat) : List (Option (BitVec 32) × Payload) :=
  let p := s.peer d
  p.again.map (fun f => (some f.1, f.2))
    ++ (((s.outbox.filter (fun o => o.dev == d)).take (256 - p.window.length)).map (fun o => (none, o.what)))

/-- The first `n` transfers for a device leave the outbox. -/
def dropFor (d : Nat) : Nat → List Outgoing → List Outgoing
  | _, [] => []
  | n, o :: os => if o.dev = d ∧ n ≠ 0 then dropFor d (n - 1) os else o :: dropFor d n os

/-- A writer sends what a burst holds, at most `cut` frames where its token is superseded. -/
def State.sendBurst (s : State) (d burst : Nat) (cut : Option Nat) : State :=
  let p := s.peer d
  let fs := takeFrames burst (s.toSend d)
  let fs := fs.take (cut.getD fs.length)
  let old := fs.filterMap (fun f => f.1.map (fun n => (n, f.2)))
  let new := (fs.filter (fun f => f.1.isNone)).mapIdx (fun i f => (p.nextSend + BitVec.ofNat 32 i, f.2))
  let s := s.modPeer d (fun p => { p with
    nextSend := p.nextSend + BitVec.ofNat 32 new.length, window := p.window ++ new, again := p.again.drop old.length })
  { s with outbox := dropFor d new.length s.outbox, sentFrames := s.sentFrames ++ (old ++ new).map (fun f => (d, f.1, f.2)) }

/-- The lowest bound core of each launch that records or replays. -/
def State.loggedCores (s : State) : List Nat :=
  s.launches.filterMap (fun e =>
    if e.2.scr = 0 ∨ e.2.isOver then none
    else (List.find? (fun (c : Nat × Core) => match c.2.task with | some (j, _) => j == e.1 | none => false) s.cores).map
      (fun c => c.1))

/-- The order of the writers as KIND 4 entries (R253): none while a replay awaits another. -/
def State.logToken (s : State) (reader : Nat) : List Nat → Option State
  | [] => some s
  | c :: cs => match s.choose c 4 reader with
    | some s' => State.logToken s' reader cs
    | none => none

/-- TOKEN_ARRIVE (R252, R253): a token reaches a port. One older than the newest generation seen is dropped. This
device's own token passes on, or is held while the receive buffer lacks room. A writer with frames for
the reader absorbs the token, sends a burst and re-emits it; under a superseded token it stops after `cut` frames and
emits nothing. -/
def execTokenArrive (port : Nat) (token : Token) (cut : Option Nat) (st : State) : Res :=
  let p := st.port port
  let gen := token.gen
  .next (match token.reader with
    | none => if olderGen gen p.gen then st else (st.modPort port (fun p => { p with gen := gen })).passToken port
    | some d =>
      if olderGen gen (st.peer d).gen then st
      else
        let st := st.modPeer d (fun q => { q with gen := gen })
        let onward (s : State) : State := { s with sentTokens := s.sentTokens ++ [(port, some d, gen)] }
        if p.lit && p.circuit == some d && !(st.toSend d).isEmpty then
          match st.logToken d st.loggedCores with
          | some s => let s := s.sendBurst d p.burst cut; if cut.isSome then s else onward s
          | none => st
        else onward st)

/-- TOKEN_LOSS (R253): a reader whose token has not come back emits one of the next generation. -/
def execTokenLoss (port : Nat) (st : State) : Res :=
  .next (if (st.port port).held then st
    else { st.modPort port (fun p => { p with gen := p.gen + 1 }) with
           sentTokens := st.sentTokens ++ [(port, none, (st.port port).gen + 1)] })

/-! ## Frames (R254) -/

/-- The port whose circuit leads to a device, and through which its frames come: 32 where none does. -/
def State.portOf (s : State) (dev : Nat) : Nat :=
  ((List.range 32).find? (fun p => (s.port p).lit && (s.port p).circuit == some dev)).getD 32

/-- FRAME_RECEIVE (R254): frames are delivered in sequence order and acknowledged cumulatively; a duplicate is
discarded, and a CRC error reported. During a checkpoint frames are not acknowledged and stay with their senders (R263).
What is delivered stays in its port's receive buffer until it performs or, of an answer, until what waits for it takes it. -/
def execFrameReceive (dev : Nat) (seqNo : BitVec 32) (crcOk : Bool) (what : Payload) (st : State) : Res :=
  let next := (st.peer dev).nextRecv
  let ack (s : State) (n : BitVec 32) (bad : Bool) : State := { s with sentAcks := s.sentAcks ++ [(dev, n, bad)] }
  .next (if st.checkpointing then st
    else if !crcOk then ack st (next - 1) true
    else if seqNo ≠ next then (if 2 ^ 31 ≤ (seqNo - next).toNat then ack st (next - 1) false else st)
    else
      let s := st.modPeer dev (fun p => { p with nextRecv := p.nextRecv + 1 })
      ack { s with delivered := s.delivered ++ [{ port := s.portOf dev, dev := dev, what := what }] } seqNo false)

/-- FRAME_ACK (R254): the frames up to the number acknowledged leave the replay window; a reported CRC error sends the
others again. -/
def execFrameAck (dev : Nat) (ack : FrameAck) (st : State) : Res :=
  let kept (fs : List (BitVec 32 × Payload)) := fs.filter (fun f => !decide ((ack.seqNo - f.1).toNat < 2 ^ 31))
  let s := st.modPeer dev (fun p => { p with window := kept p.window, again := kept p.again })
  .next (if ack.crcError then s.resend dev else s)

/-- REPLAY_TIMEOUT (R254): 20 µs without an acknowledgement. -/
def execReplayTimeout (dev : Nat) (st : State) : Res :=
  .next (st.resend dev)

/-- WATCHDOG_RESET (R259): the port goes dark and loses the token it held; three resets within a second disable it. -/
def execWatchdogReset (port : Nat) (st : State) : Res :=
  let recent := ((st.port port).resets.filter (fun t => decide ((st.clock - t).toNat < 1000000000)))
  let st := (st.modPort port (fun p => { p with lit := false, held := false, resets := (st.clock :: recent).take 3 })).moveBlocks port
  .next (if recent.length < 2 then st
    else (st.modPort port (fun p => { p with
      down := true, resets := [], cfg := p.cfg &&& ~~~(1 : Dword) })).post 0x0A 0 (BitVec.ofNat 64 port))

/-! ## Doubled execution (R211, R212), replay (R214), forwarding (R187) -/

/-- Whether a hash is one that the shadow of a core has sent. -/
def State.hashSent (s : State) (core : Nat) (hash : Dword) : Bool :=
  match s.shadowCore core with
  | some q => (s.core q).hashWait == some hash
  | none => true

/-- The hashes of a core's held exchange messages are compared, or found absent (R211, R212, R215). -/
def State.slotHash (s : State) (core : Nat) (hash : Option Dword) : State :=
  match List.find? (fun m => m.core == core && match m.hashes with | some (_, h) => hash.all (· == h) | none => false)
      (s.square (squareOf core)).slotMsgs with
  | none => s
  | some m =>
    let equal := match m.hashes, hash with | some (h, _), some x => h == x | _, _ => false
    let edit (f : List SlotMsg → List SlotMsg) : State := s.modSquare (squareOf core) (fun q => { q with slotMsgs := f q.slotMsgs })
    if equal then edit (fun ms => ms.map (fun x => if x = m then { x with hashes := none } else x))
    else
      let pc := match List.find? (fun x => x.id == m.cmd) (s.core core).cmds with | some x => x.pc | none => 0
      (edit (fun ms => ms.erase m)).hashFails core m.cmd pc

/-- DOUBLED_HASH_COMPARE (R211, R212): a hash that the shadow has sent reaches the primary's router. Where it differs, both
copies trap at their sending instructions. -/
def execDoubledHashCompare (core : Nat) (hash : Dword) (st : State) : Res :=
  .next (match (st.core core).hashWait with
    | some h =>
      if st.hashSent core hash then st.modCore core (fun k => { k with hashWait := none, hashPass := some (h == hash) }) else st
    | none => st.slotHash core (some hash))

/-- DOUBLED_HASH_TIMEOUT (R212): no hash for 2^16 cycles. -/
def execDoubledHashTimeout (core : Nat) (st : State) : Res :=
  .next (if (st.core core).hashWait.isSome then
      st.modCore core (fun k => { k with hashWait := none, hashPass := some false })
    else st.slotHash core none)

/-- REPLAY_FORCE_TIMEOUT (R214): `sq` is the virtual square's index. -/
def execReplayForceTimeout (launch sq : Nat) (st : State) : Res :=
  .next (match st.launch? launch with
    | none => st
    | some l =>
      match (List.range l.count).find? (fun t => l.sqIndex t == sq && (l.task t).bound && !(l.task t).ended) with
      | some t => if l.scr = 2 then st.diverge (l.pcore t) l (l.logPosOf t) else st
      | none => st)

/-- INSTRUCTION_FORWARD (R187): the oldest instruction on its way reaches the follower, which executes it at its turn. -/
def execInstructionForward (core : Nat) (st : State) : Res :=
  .next (st.modCore core (fun k =>
    let here := k.inbox.takeWhile (·.arrived)
    { k with inbox := here ++ ((k.inbox.drop here.length).take 1).map (fun f => { f with arrived := true })
                      ++ k.inbox.drop (here.length + 1) }))

end Sys2Proof.Machine
end

