-- ==== Sys2Proof/Machine/Scalar.lean ====
section
/-! DEFINITION. Integer instructions: majors 0x02 to 0x0B (R334 to R340). -/

namespace Sys2Proof.Machine

/-- A register-register operation of R335. -/
def State.intOp (s : State) (op : IntOp) (d a b : R5) (sz : BitVec 2) : Res :=
  .next (s.writeX d [a, b] (op.eval (szBits sz) (s.me.x a) (s.me.x b)))

/-- An operation of R336 whose sources are a and b; MADD reads d as well. -/
def State.mulOp (s : State) (op : MulOp) (d a b : R5) (sz : BitVec 2) : Res :=
  .next (s.writeX d (if op = .madd then [a, b, d] else [a, b])
    (op.eval (szBits sz) (s.me.x a) (s.me.x b) (s.me.x d)))

/-- A unary operation of R336. -/
def State.countOp (s : State) (op : CountOp) (d a : R5) (sz : BitVec 2) : Res :=
  .next (s.writeX d [a] (op.eval (szBits sz) (s.me.x a)))

/-- An operation of R335 with an immediate in place of b, at width `w` (R337 to R339). -/
def State.immOp (s : State) (op : IntOp) (w : Nat) (d a : R5) (i : Dword) : Res :=
  .next (s.writeX d [a] (op.eval w (s.me.x a) i))

/-- ADD (R335). -/
def execAdd (_m : BitVec 1) (d a b : R5) (s : BitVec 2) (st : State) : Res :=
  st.intOp .add d a b s

/-- SUB (R335). -/
def execSub (_m : BitVec 1) (d a b : R5) (s : BitVec 2) (st : State) : Res :=
  st.intOp .sub d a b s

/-- AND (R335). -/
def execAnd (_m : BitVec 1) (d a b : R5) (s : BitVec 2) (st : State) : Res :=
  st.intOp .and d a b s

/-- OR (R335). -/
def execOr (_m : BitVec 1) (d a b : R5) (s : BitVec 2) (st : State) : Res :=
  st.intOp .or d a b s

/-- XOR (R335). -/
def execXor (_m : BitVec 1) (d a b : R5) (s : BitVec 2) (st : State) : Res :=
  st.intOp .xor d a b s

/-- ANDN (R335). -/
def execAndn (_m : BitVec 1) (d a b : R5) (s : BitVec 2) (st : State) : Res :=
  st.intOp .andn d a b s

/-- SLL (R335). -/
def execSll (_m : BitVec 1) (d a b : R5) (s : BitVec 2) (st : State) : Res :=
  st.intOp .sll d a b s

/-- SRL (R335). -/
def execSrl (_m : BitVec 1) (d a b : R5) (s : BitVec 2) (st : State) : Res :=
  st.intOp .srl d a b s

/-- SRA (R335). -/
def execSra (_m : BitVec 1) (d a b : R5) (s : BitVec 2) (st : State) : Res :=
  st.intOp .sra d a b s

/-- ROL (R335). -/
def execRol (_m : BitVec 1) (d a b : R5) (s : BitVec 2) (st : State) : Res :=
  st.intOp .rol d a b s

/-- ROR (R335). -/
def execRor (_m : BitVec 1) (d a b : R5) (s : BitVec 2) (st : State) : Res :=
  st.intOp .ror d a b s

/-- SLT (R335). -/
def execSlt (_m : BitVec 1) (d a b : R5) (s : BitVec 2) (st : State) : Res :=
  st.intOp .slt d a b s

/-- SLTU (R335). -/
def execSltu (_m : BitVec 1) (d a b : R5) (s : BitVec 2) (st : State) : Res :=
  st.intOp .sltu d a b s

/-- SEQ (R335). -/
def execSeq (_m : BitVec 1) (d a b : R5) (s : BitVec 2) (st : State) : Res :=
  st.intOp .seq d a b s

/-- MIN (R335). -/
def execMin (_m : BitVec 1) (d a b : R5) (s : BitVec 2) (st : State) : Res :=
  st.intOp .min d a b s

/-- MAX (R335). -/
def execMax (_m : BitVec 1) (d a b : R5) (s : BitVec 2) (st : State) : Res :=
  st.intOp .max d a b s

/-- MINU (R335). -/
def execMinu (_m : BitVec 1) (d a b : R5) (s : BitVec 2) (st : State) : Res :=
  st.intOp .minu d a b s

/-- MAXU (R335). -/
def execMaxu (_m : BitVec 1) (d a b : R5) (s : BitVec 2) (st : State) : Res :=
  st.intOp .maxu d a b s

/-- MUL (R336). -/
def execMul (_m : BitVec 1) (d a b : R5) (s : BitVec 2) (st : State) : Res :=
  st.mulOp .mul d a b s

/-- MULH (R336). -/
def execMulh (_m : BitVec 1) (d a b : R5) (s : BitVec 2) (st : State) : Res :=
  st.mulOp .mulh d a b s

/-- MULHU (R336). -/
def execMulhu (_m : BitVec 1) (d a b : R5) (s : BitVec 2) (st : State) : Res :=
  st.mulOp .mulhu d a b s

/-- MADD (R336). -/
def execMadd (_m : BitVec 1) (d a b : R5) (s : BitVec 2) (st : State) : Res :=
  st.mulOp .madd d a b s

/-- DIV (R336). -/
def execDiv (_m : BitVec 1) (d a b : R5) (s : BitVec 2) (st : State) : Res :=
  st.mulOp .div d a b s

/-- DIVU (R336). -/
def execDivu (_m : BitVec 1) (d a b : R5) (s : BitVec 2) (st : State) : Res :=
  st.mulOp .divu d a b s

/-- REM (R336). -/
def execRem (_m : BitVec 1) (d a b : R5) (s : BitVec 2) (st : State) : Res :=
  st.mulOp .rem d a b s

/-- REMU (R336). -/
def execRemu (_m : BitVec 1) (d a b : R5) (s : BitVec 2) (st : State) : Res :=
  st.mulOp .remu d a b s

/-- CLZ (R336). -/
def execClz (_m : BitVec 1) (d a : R5) (s : BitVec 2) (st : State) : Res :=
  st.countOp .clz d a s

/-- CTZ (R336). -/
def execCtz (_m : BitVec 1) (d a : R5) (s : BitVec 2) (st : State) : Res :=
  st.countOp .ctz d a s

/-- POPC (R336). -/
def execPopc (_m : BitVec 1) (d a : R5) (s : BitVec 2) (st : State) : Res :=
  st.countOp .popc d a s

/-- BREV (R336). -/
def execBrev (_m : BitVec 1) (d a : R5) (s : BitVec 2) (st : State) : Res :=
  st.countOp .brev d a s

/-- BSWAP (R336). -/
def execBswap (_m : BitVec 1) (d a : R5) (s : BitVec 2) (st : State) : Res :=
  st.countOp .bswap d a s

/-- ADDI (R337). -/
def execAddi (_m : BitVec 1) (d a : R5) (i : BitVec 15) (st : State) : Res :=
  st.immOp .add 64 d a (immDword i)

/-- ANDI (R337). -/
def execAndi (_m : BitVec 1) (d a : R5) (i : BitVec 15) (st : State) : Res :=
  st.immOp .and 64 d a (immDword i)

/-- ORI (R337). -/
def execOri (_m : BitVec 1) (d a : R5) (i : BitVec 15) (st : State) : Res :=
  st.immOp .or 64 d a (immDword i)

/-- XORI (R337). -/
def execXori (_m : BitVec 1) (d a : R5) (i : BitVec 15) (st : State) : Res :=
  st.immOp .xor 64 d a (immDword i)

/-- SLLI (R338). -/
def execSlli (_m : BitVec 1) (d a : R5) (s : BitVec 2) (h : BitVec 6) (st : State) : Res :=
  st.immOp .sll (szBits s) d a (h.setWidth 64)

/-- SRLI (R338). -/
def execSrli (_m : BitVec 1) (d a : R5) (s : BitVec 2) (h : BitVec 6) (st : State) : Res :=
  st.immOp .srl (szBits s) d a (h.setWidth 64)

/-- SRAI (R338). -/
def execSrai (_m : BitVec 1) (d a : R5) (s : BitVec 2) (h : BitVec 6) (st : State) : Res :=
  st.immOp .sra (szBits s) d a (h.setWidth 64)

/-- ROLI (R338). -/
def execRoli (_m : BitVec 1) (d a : R5) (s : BitVec 2) (h : BitVec 6) (st : State) : Res :=
  st.immOp .rol (szBits s) d a (h.setWidth 64)

/-- SLTI (R339). -/
def execSlti (_m : BitVec 1) (d a : R5) (i : BitVec 14) (st : State) : Res :=
  st.immOp .slt 64 d a (immDword i)

/-- SLTIU (R339): the immediate is sign-extended, the comparison unsigned. -/
def execSltiu (_m : BitVec 1) (d a : R5) (i : BitVec 14) (st : State) : Res :=
  st.immOp .sltu 64 d a (immDword i)

/-- LIM (R340). -/
def execLim (_m : BitVec 1) (d : R5) (i : BitVec 20) (st : State) : Res :=
  .next (st.writeX d [] (immDword i <<< 12))

/-- ADDPC (R340). -/
def execAddpc (_m : BitVec 1) (d : R5) (i : BitVec 20) (st : State) : Res :=
  .next (st.writeX d [] (st.me.arch.pc + (immDword i <<< 12)))

end Sys2Proof.Machine
end

