-- ==== Sys2Proof/Machine/Dispatch.lean ====
section
/-! DEFINITION. One arm per instruction: what it does. -/

namespace Sys2Proof.Machine

def exec (instr : Instr) (st : State) : Host.Outcome State Fault Refusal :=
  match instr with
  | .add m d a b s => Sys2Proof.Machine.execAdd m d a b s st
  | .sub m d a b s => Sys2Proof.Machine.execSub m d a b s st
  | .and m d a b s => Sys2Proof.Machine.execAnd m d a b s st
  | .or m d a b s => Sys2Proof.Machine.execOr m d a b s st
  | .xor m d a b s => Sys2Proof.Machine.execXor m d a b s st
  | .andn m d a b s => Sys2Proof.Machine.execAndn m d a b s st
  | .sll m d a b s => Sys2Proof.Machine.execSll m d a b s st
  | .srl m d a b s => Sys2Proof.Machine.execSrl m d a b s st
  | .sra m d a b s => Sys2Proof.Machine.execSra m d a b s st
  | .rol m d a b s => Sys2Proof.Machine.execRol m d a b s st
  | .ror m d a b s => Sys2Proof.Machine.execRor m d a b s st
  | .slt m d a b s => Sys2Proof.Machine.execSlt m d a b s st
  | .sltu m d a b s => Sys2Proof.Machine.execSltu m d a b s st
  | .seq m d a b s => Sys2Proof.Machine.execSeq m d a b s st
  | .min m d a b s => Sys2Proof.Machine.execMin m d a b s st
  | .max m d a b s => Sys2Proof.Machine.execMax m d a b s st
  | .minu m d a b s => Sys2Proof.Machine.execMinu m d a b s st
  | .maxu m d a b s => Sys2Proof.Machine.execMaxu m d a b s st
  | .mul m d a b s => Sys2Proof.Machine.execMul m d a b s st
  | .mulh m d a b s => Sys2Proof.Machine.execMulh m d a b s st
  | .mulhu m d a b s => Sys2Proof.Machine.execMulhu m d a b s st
  | .madd m d a b s => Sys2Proof.Machine.execMadd m d a b s st
  | .div m d a b s => Sys2Proof.Machine.execDiv m d a b s st
  | .divu m d a b s => Sys2Proof.Machine.execDivu m d a b s st
  | .rem m d a b s => Sys2Proof.Machine.execRem m d a b s st
  | .remu m d a b s => Sys2Proof.Machine.execRemu m d a b s st
  | .clz m d a s => Sys2Proof.Machine.execClz m d a s st
  | .ctz m d a s => Sys2Proof.Machine.execCtz m d a s st
  | .popc m d a s => Sys2Proof.Machine.execPopc m d a s st
  | .brev m d a s => Sys2Proof.Machine.execBrev m d a s st
  | .bswap m d a s => Sys2Proof.Machine.execBswap m d a s st
  | .addi m d a i => Sys2Proof.Machine.execAddi m d a i st
  | .andi m d a i => Sys2Proof.Machine.execAndi m d a i st
  | .ori m d a i => Sys2Proof.Machine.execOri m d a i st
  | .xori m d a i => Sys2Proof.Machine.execXori m d a i st
  | .slli m d a s h => Sys2Proof.Machine.execSlli m d a s h st
  | .srli m d a s h => Sys2Proof.Machine.execSrli m d a s h st
  | .srai m d a s h => Sys2Proof.Machine.execSrai m d a s h st
  | .roli m d a s h => Sys2Proof.Machine.execRoli m d a s h st
  | .slti m d a i => Sys2Proof.Machine.execSlti m d a i st
  | .sltiu m d a i => Sys2Proof.Machine.execSltiu m d a i st
  | .lim m d i => Sys2Proof.Machine.execLim m d i st
  | .addpc m d i => Sys2Proof.Machine.execAddpc m d i st
  | .fadd m d a b r f => Sys2Proof.Machine.execFadd m d a b r f st
  | .fsub m d a b r f => Sys2Proof.Machine.execFsub m d a b r f st
  | .fmul m d a b r f => Sys2Proof.Machine.execFmul m d a b r f st
  | .fma m d a b r f => Sys2Proof.Machine.execFma m d a b r f st
  | .fdiv m d a b r f => Sys2Proof.Machine.execFdiv m d a b r f st
  | .fsqrt m d a r f => Sys2Proof.Machine.execFsqrt m d a r f st
  | .fmin m d a b f => Sys2Proof.Machine.execFmin m d a b f st
  | .fmax m d a b f => Sys2Proof.Machine.execFmax m d a b f st
  | .fcmp m d a b c f => Sys2Proof.Machine.execFcmp m d a b c f st
  | .fcvt m d a x t r f => Sys2Proof.Machine.execFcvt m d a x t r f st
  | .fclass m d a f => Sys2Proof.Machine.execFclass m d a f st
  | .fmv m d a f => Sys2Proof.Machine.execFmv m d a f st
  | .clmul m d a b => Sys2Proof.Machine.execClmul m d a b st
  | .clmulh m d a b => Sys2Proof.Machine.execClmulh m d a b st
  | .extr m d a b x => Sys2Proof.Machine.execExtr m d a b x st
  | .ins m d a b => Sys2Proof.Machine.execIns m d a b st
  | .sel m d a b c => Sys2Proof.Machine.execSel m d a b c st
  | .beq m a b o => Sys2Proof.Machine.execBeq m a b o st
  | .bne m a b o => Sys2Proof.Machine.execBne m a b o st
  | .blt m a b o => Sys2Proof.Machine.execBlt m a b o st
  | .bge m a b o => Sys2Proof.Machine.execBge m a b o st
  | .bltu m a b o => Sys2Proof.Machine.execBltu m a b o st
  | .bgeu m a b o => Sys2Proof.Machine.execBgeu m a b o st
  | .jal m d i => Sys2Proof.Machine.execJal m d i st
  | .jalr m d a i => Sys2Proof.Machine.execJalr m d a i st
  | .loop m c l => Sys2Proof.Machine.execLoop m c l st
  | .rpt n g c => Sys2Proof.Machine.execRpt n g c st
  | .rptRegisterCount n g c => Sys2Proof.Machine.execRptRegisterCount n g c st
  | .mod o s p c n => Sys2Proof.Machine.execMod o s p c n st
  | .ldl d a s i => Sys2Proof.Machine.execLdl d a s i st
  | .stl d a s i => Sys2Proof.Machine.execStl d a s i st
  | .ld d a s i => Sys2Proof.Machine.execLd d a s i st
  | .st d a s i => Sys2Proof.Machine.execSt d a s i st
  | .lqr a l q => Sys2Proof.Machine.execLqr a l q st
  | .lqg a b l q s => Sys2Proof.Machine.execLqg a b l q s st
  | .sqw a l q => Sys2Proof.Machine.execSqw a l q st
  | .sqs a b l q s => Sys2Proof.Machine.execSqs a b l q s st
  | .amoadd d a b s => Sys2Proof.Machine.execAmoadd d a b s st
  | .amoand d a b s => Sys2Proof.Machine.execAmoand d a b s st
  | .amoor d a b s => Sys2Proof.Machine.execAmoor d a b s st
  | .amoxor d a b s => Sys2Proof.Machine.execAmoxor d a b s st
  | .amomin d a b s => Sys2Proof.Machine.execAmomin d a b s st
  | .amomax d a b s => Sys2Proof.Machine.execAmomax d a b s st
  | .amominu d a b s => Sys2Proof.Machine.execAmominu d a b s st
  | .amomaxu d a b s => Sys2Proof.Machine.execAmomaxu d a b s st
  | .amoswp d a b s => Sys2Proof.Machine.execAmoswp d a b s st
  | .amocas d a b s => Sys2Proof.Machine.execAmocas d a b s st
  | .amofadd d a b s => Sys2Proof.Machine.execAmofadd d a b s st
  | .fence s => Sys2Proof.Machine.execFence s st
  | .acq s => Sys2Proof.Machine.execAcq s st
  | .rel s => Sys2Proof.Machine.execRel s st
  | .tclr d t => Sys2Proof.Machine.execTclr d t st
  | .tmrg d a t => Sys2Proof.Machine.execTmrg d a t st
  | .tqry d a t => Sys2Proof.Machine.execTqry d a t st
  | .qenq d a b q r => Sys2Proof.Machine.execQenq d a b q r st
  | .qdeq d a b q r => Sys2Proof.Machine.execQdeq d a b q r st
  | .qwait a => Sys2Proof.Machine.execQwait a st
  | .qstat d a => Sys2Proof.Machine.execQstat d a st
  | .qinit a => Sys2Proof.Machine.execQinit a st
  | .chsend a c => Sys2Proof.Machine.execChsend a c st
  | .chrecv d c => Sys2Proof.Machine.execChrecv d c st
  | .chpoll d c => Sys2Proof.Machine.execChpoll d c st
  | .saadd r p h q f o => Sys2Proof.Machine.execSaadd r p h q f o st
  | .sanrm f s k p h q o => Sys2Proof.Machine.execSanrm f s k p h q o st
  | .saclr p h q => Sys2Proof.Machine.execSaclr p h q st
  | .safence e k p h q => Sys2Proof.Machine.execSafence e k p h q st
  | .saevict f p h q => Sys2Proof.Machine.execSaevict f p h q st
  | .saload p h q => Sys2Proof.Machine.execSaload p h q st
  | .sagain p h q a => Sys2Proof.Machine.execSagain p h q a st
  | .sasq d p h q => Sys2Proof.Machine.execSasq d p h q st
  | .lmzero a c t => Sys2Proof.Machine.execLmzero a c t st
  | .lmcopy a b c t => Sys2Proof.Machine.execLmcopy a b c t st
  | .lmcmp a b c t => Sys2Proof.Machine.execLmcmp a b c t st
  | .lmfence => Sys2Proof.Machine.execLmfence st
  | .mcrd a b c t => Sys2Proof.Machine.execMcrd a b c t st
  | .redsend a b t n o => Sys2Proof.Machine.execRedsend a b t n o st
  | .redwait a b n => Sys2Proof.Machine.execRedwait a b n st
  | .xsend a b c t k => Sys2Proof.Machine.execXsend a b c t k st
  | .xrecv d k => Sys2Proof.Machine.execXrecv d k st
  | .bar n => Sys2Proof.Machine.execBar n st
  | .barDomain => Sys2Proof.Machine.execBarDomain st
  | .sstep => Sys2Proof.Machine.execSstep st
  | .tlwait b t s => Sys2Proof.Machine.execTlwait b t s st
  | .feset a i => Sys2Proof.Machine.execFeset a i st
  | .feclr a i => Sys2Proof.Machine.execFeclr a i st
  | .fewait c v i => Sys2Proof.Machine.execFewait c v i st
  | .tladv d t => Sys2Proof.Machine.execTladv d t st
  | .cpy a b c t d p => Sys2Proof.Machine.execCpy a b c t d p st
  | .cpy2d a b c t d p => Sys2Proof.Machine.execCpy2d a b c t d p st
  | .cpyga a b c t p => Sys2Proof.Machine.execCpyga a b c t p st
  | .cpysc a b c t p => Sys2Proof.Machine.execCpysc a b c t p st
  | .cpyfi k b c t d p => Sys2Proof.Machine.execCpyfi k b c t d p st
  | .cpycv a b c t d p => Sys2Proof.Machine.execCpycv a b c t d p st
  | .pref b c p => Sys2Proof.Machine.execPref b c p st
  | .launch a b c => Sys2Proof.Machine.execLaunch a b c st
  | .ldloc d a s => Sys2Proof.Machine.execLdloc d a s st
  | .stloc d a s => Sys2Proof.Machine.execStloc d a s st
  | .ldctl d a => Sys2Proof.Machine.execLdctl d a st
  | .stctl d a => Sys2Proof.Machine.execStctl d a st
  | .ldvir d a b s o => Sys2Proof.Machine.execLdvir d a b s o st
  | .stvir d a b s o => Sys2Proof.Machine.execStvir d a b s o st
  | .ldphy d a s => Sys2Proof.Machine.execLdphy d a s st
  | .stphy d a s => Sys2Proof.Machine.execStphy d a s st
  | .ldrem d a b s => Sys2Proof.Machine.execLdrem d a b s st
  | .strem d a b s => Sys2Proof.Machine.execStrem d a b s st
  | .ldhst d a s => Sys2Proof.Machine.execLdhst d a s st
  | .sthst d a s => Sys2Proof.Machine.execSthst d a s st
  | .vadd d a b => Sys2Proof.Machine.execVadd d a b st
  | .vsub d a b => Sys2Proof.Machine.execVsub d a b st
  | .vmul d a b => Sys2Proof.Machine.execVmul d a b st
  | .vfma d a b => Sys2Proof.Machine.execVfma d a b st
  | .vfms d a b => Sys2Proof.Machine.execVfms d a b st
  | .vfnma d a b => Sys2Proof.Machine.execVfnma d a b st
  | .vmin d a b => Sys2Proof.Machine.execVmin d a b st
  | .vmax d a b => Sys2Proof.Machine.execVmax d a b st
  | .vabs d a => Sys2Proof.Machine.execVabs d a st
  | .vneg d a => Sys2Proof.Machine.execVneg d a st
  | .vcps d a b => Sys2Proof.Machine.execVcps d a b st
  | .vdiv d a b => Sys2Proof.Machine.execVdiv d a b st
  | .vsqrt d a => Sys2Proof.Machine.execVsqrt d a st
  | .vrsq d a => Sys2Proof.Machine.execVrsq d a st
  | .vrcp d a => Sys2Proof.Machine.execVrcp d a st
  | .vexp2 d a => Sys2Proof.Machine.execVexp2 d a st
  | .vlog2 d a => Sys2Proof.Machine.execVlog2 d a st
  | .vtanh d a => Sys2Proof.Machine.execVtanh d a st
  | .vsig d a => Sys2Proof.Machine.execVsig d a st
  | .viadd d a b => Sys2Proof.Machine.execViadd d a b st
  | .visub d a b => Sys2Proof.Machine.execVisub d a b st
  | .vimul d a b => Sys2Proof.Machine.execVimul d a b st
  | .vimulh d a b u => Sys2Proof.Machine.execVimulh d a b u st
  | .vimin d a b u => Sys2Proof.Machine.execVimin d a b u st
  | .vimax d a b u => Sys2Proof.Machine.execVimax d a b u st
  | .viabs d a => Sys2Proof.Machine.execViabs d a st
  | .vand d a b => Sys2Proof.Machine.execVand d a b st
  | .vor d a b => Sys2Proof.Machine.execVor d a b st
  | .vxor d a b => Sys2Proof.Machine.execVxor d a b st
  | .vandn d a b => Sys2Proof.Machine.execVandn d a b st
  | .vshl d a b => Sys2Proof.Machine.execVshl d a b st
  | .vshr d a b => Sys2Proof.Machine.execVshr d a b st
  | .vsra d a b => Sys2Proof.Machine.execVsra d a b st
  | .vpopc d a => Sys2Proof.Machine.execVpopc d a st
  | .vclmul d a b => Sys2Proof.Machine.execVclmul d a b st
  | .vcmpF32Eq d a b => Sys2Proof.Machine.execVcmpF32Eq d a b st
  | .vcmpF32Lt d a b => Sys2Proof.Machine.execVcmpF32Lt d a b st
  | .vcmpF32Le d a b => Sys2Proof.Machine.execVcmpF32Le d a b st
  | .vcmpF32Un d a b => Sys2Proof.Machine.execVcmpF32Un d a b st
  | .vcmpI32Eq d a b => Sys2Proof.Machine.execVcmpI32Eq d a b st
  | .vcmpI32Lt d a b => Sys2Proof.Machine.execVcmpI32Lt d a b st
  | .vcmpI32Le d a b => Sys2Proof.Machine.execVcmpI32Le d a b st
  | .vcmpN32Lt d a b => Sys2Proof.Machine.execVcmpN32Lt d a b st
  | .vcmpN32Le d a b => Sys2Proof.Machine.execVcmpN32Le d a b st
  | .vsel d a b => Sys2Proof.Machine.execVsel d a b st
  | .vmskExpand d a => Sys2Proof.Machine.execVmskExpand d a st
  | .vmskPack d a => Sys2Proof.Machine.execVmskPack d a st
  | .vcvt d a h v => Sys2Proof.Machine.execVcvt d a h v st
  | .vqnt d a o k => Sys2Proof.Machine.execVqnt d a o k st
  | .vdqnt d a o k => Sys2Proof.Machine.execVdqnt d a o k st
  | .vamax d a b => Sys2Proof.Machine.execVamax d a b st
  | .vshuf d a b => Sys2Proof.Machine.execVshuf d a b st
  | .vrot d a k => Sys2Proof.Machine.execVrot d a k st
  | .vredsum d a y => Sys2Proof.Machine.execVredsum d a y st
  | .vredmax d a y => Sys2Proof.Machine.execVredmax d a y st
  | .vredmin d a y => Sys2Proof.Machine.execVredmin d a y st
  | .vscan d a y => Sys2Proof.Machine.execVscan d a y st
  | .vxpose d a => Sys2Proof.Machine.execVxpose d a st
  | .vcpy d a => Sys2Proof.Machine.execVcpy d a st
  | .vzero d => Sys2Proof.Machine.execVzero d st
  | .vbcast d a w => Sys2Proof.Machine.execVbcast d a w st
  | .vext d a i => Sys2Proof.Machine.execVext d a i st
  | .vins d a i => Sys2Proof.Machine.execVins d a i st
  | .viota d a s => Sys2Proof.Machine.execViota d a s st
  | .vsq k a => Sys2Proof.Machine.execVsq k a st
  | .vaddQ d a q w => Sys2Proof.Machine.execVaddQ d a q w st
  | .vsubQ d a q w => Sys2Proof.Machine.execVsubQ d a q w st
  | .vmulQ d a q w => Sys2Proof.Machine.execVmulQ d a q w st
  | .vfmaQ d a q => Sys2Proof.Machine.execVfmaQ d a q st
  | .vfmsQ d a q => Sys2Proof.Machine.execVfmsQ d a q st
  | .vfnmaQ d a q => Sys2Proof.Machine.execVfnmaQ d a q st
  | .vminQ d a q w => Sys2Proof.Machine.execVminQ d a q w st
  | .vmaxQ d a q w => Sys2Proof.Machine.execVmaxQ d a q w st
  | .vabsQ d q => Sys2Proof.Machine.execVabsQ d q st
  | .vnegQ d q => Sys2Proof.Machine.execVnegQ d q st
  | .vcpsQ d a q w => Sys2Proof.Machine.execVcpsQ d a q w st
  | .viaddQ d a q w => Sys2Proof.Machine.execViaddQ d a q w st
  | .visubQ d a q w => Sys2Proof.Machine.execVisubQ d a q w st
  | .vimulQ d a q w => Sys2Proof.Machine.execVimulQ d a q w st
  | .vimulhQ d a q w u => Sys2Proof.Machine.execVimulhQ d a q w u st
  | .viminQ d a q w u => Sys2Proof.Machine.execViminQ d a q w u st
  | .vimaxQ d a q w u => Sys2Proof.Machine.execVimaxQ d a q w u st
  | .viabsQ d q => Sys2Proof.Machine.execViabsQ d q st
  | .vandQ d a q w => Sys2Proof.Machine.execVandQ d a q w st
  | .vorQ d a q w => Sys2Proof.Machine.execVorQ d a q w st
  | .vxorQ d a q w => Sys2Proof.Machine.execVxorQ d a q w st
  | .vandnQ d a q w => Sys2Proof.Machine.execVandnQ d a q w st
  | .vshlQ d a q w => Sys2Proof.Machine.execVshlQ d a q w st
  | .vshrQ d a q w => Sys2Proof.Machine.execVshrQ d a q w st
  | .vsraQ d a q w => Sys2Proof.Machine.execVsraQ d a q w st
  | .vpopcQ d q => Sys2Proof.Machine.execVpopcQ d q st
  | .vclmulQ d a q w => Sys2Proof.Machine.execVclmulQ d a q w st
  | .vcvtQ d h v q => Sys2Proof.Machine.execVcvtQ d h v q st
  | .vqntQ d o k q => Sys2Proof.Machine.execVqntQ d o k q st
  | .vdqntQ d o k q => Sys2Proof.Machine.execVdqntQ d o k q st
  | .vamaxQ d b q => Sys2Proof.Machine.execVamaxQ d b q st
  | .mma c s a b z m => Sys2Proof.Machine.execMma c s a b z m st
  | .mma64 c s a b z m => Sys2Proof.Machine.execMma64 c s a b z m st
  | .mmac c s a b z m => Sys2Proof.Machine.execMmac c s a b z m st
  | .mmas c s a b e z m => Sys2Proof.Machine.execMmas c s a b e z m st
  | .gang => Sys2Proof.Machine.execGang st
  | .mshp k a b => Sys2Proof.Machine.execMshp k a b st
  | .mzero c => Sys2Proof.Machine.execMzero c st
  | .mlda c t => Sys2Proof.Machine.execMlda c t st
  | .msta c t => Sys2Proof.Machine.execMsta c t st
  | .mepi c s a t => Sys2Proof.Machine.execMepi c s a t st
  | .mdld e r => Sys2Proof.Machine.execMdld e r st
  | .mfst f l d => Sys2Proof.Machine.execMfst f l d st
  | .qpset a => Sys2Proof.Machine.execQpset a st
  | .qpfac => Sys2Proof.Machine.execQpfac st
  | .qpiter => Sys2Proof.Machine.execQpiter st
  | .qpshift a b => Sys2Proof.Machine.execQpshift a b st
  | .qpres => Sys2Proof.Machine.execQpres st
  | .qpstat c => Sys2Proof.Machine.execQpstat c st
  | .fchol a b c => Sys2Proof.Machine.execFchol a b c st
  | .ftrs a b c => Sys2Proof.Machine.execFtrs a b c st
  | .trap m x => Sys2Proof.Machine.execTrap m x st
  | .bkpt m x => Sys2Proof.Machine.execBkpt m x st
  | .eret m => Sys2Proof.Machine.execEret m st
  | .mfc m d c => Sys2Proof.Machine.execMfc m d c st
  | .mtc m a c => Sys2Proof.Machine.execMtc m a c st
  | .phint m a => Sys2Proof.Machine.execPhint m a st
  | .yield m => Sys2Proof.Machine.execYield m st
  | .wfe m => Sys2Proof.Machine.execWfe m st
  | .sev m a => Sys2Proof.Machine.execSev m a st
  | .halt m => Sys2Proof.Machine.execHalt m st
  | .tlbi m d a b => Sys2Proof.Machine.execTlbi m d a b st
  | .lease m d a b => Sys2Proof.Machine.execLease m d a b st
  | .mcread m d a => Sys2Proof.Machine.execMcread m d a st
  | .scmark m a => Sys2Proof.Machine.execScmark m a st
  | .clkrd m d => Sys2Proof.Machine.execClkrd m d st
  | .saSliceApply core => Sys2Proof.Machine.execSaSliceApply core st
  | .saEvictionRetry slice => Sys2Proof.Machine.execSaEvictionRetry slice st
  | .gangStart sq => Sys2Proof.Machine.execGangStart sq st
  | .gangResidueCheck sq failed row expct obs => Sys2Proof.Machine.execGangResidueCheck sq failed row expct obs st
  | .fifoTimeout sq => Sys2Proof.Machine.execFifoTimeout sq st
  | .instructionForward core => Sys2Proof.Machine.execInstructionForward core st
  | .coldReset ecdsaOk lmsOk version fused selfTestOk memOk failedBuses => Sys2Proof.Machine.execColdReset ecdsaOk lmsOk version fused selfTestOk memOk failedBuses st
  | .attestationReport nonce => Sys2Proof.Machine.execAttestationReport nonce st
  | .checkpoint done => Sys2Proof.Machine.execCheckpoint done st
  | .checkpointRestore blocks broken => Sys2Proof.Machine.execCheckpointRestore blocks broken st
  | .rsig v => Sys2Proof.Machine.execRsig v st
  | .lnqctl q v => Sys2Proof.Machine.execLnqctl q v st
  | .lpwr core v => Sys2Proof.Machine.execLpwr core v st
  | .layerPowerDown core layer => Sys2Proof.Machine.execLayerPowerDown core layer st
  | .layerTransitionDone core layer => Sys2Proof.Machine.execLayerTransitionDone core layer st
  | .xstat core => Sys2Proof.Machine.execXstat core st
  | .ecnt level => Sys2Proof.Machine.execEcnt level st
  | .elog level => Sys2Proof.Machine.execElog level st
  | .escr level v => Sys2Proof.Machine.execEscr level v st
  | .ctmp col v => Sys2Proof.Machine.execCtmp col v st
  | .afpcfg port v => Sys2Proof.Machine.execAfpcfg port v st
  | .afmw v => Sys2Proof.Machine.execAfmw v st
  | .registerWrite cr own v => Sys2Proof.Machine.execRegisterWrite cr own v st
  | .bankDemote core bank => Sys2Proof.Machine.execBankDemote core bank st
  | .freezeClear col => Sys2Proof.Machine.execFreezeClear col st
  | .squareWithhold sq => Sys2Proof.Machine.execSquareWithhold sq st
  | .schedulerSelect placement => Sys2Proof.Machine.execSchedulerSelect placement st
  | .leaseWalk q => Sys2Proof.Machine.execLeaseWalk q st
  | .taskBind launch task => Sys2Proof.Machine.execTaskBind launch task st
  | .remoteTensorFill launch task buf dev data bad => Sys2Proof.Machine.execRemoteTensorFill launch task buf dev data bad st
  | .preemptionRequest launch => Sys2Proof.Machine.execPreemptionRequest launch st
  | .preemptionDeadline core => Sys2Proof.Machine.execPreemptionDeadline core st
  | .loopContextDiscard core => Sys2Proof.Machine.execLoopContextDiscard core st
  | .coreStop core => Sys2Proof.Machine.execCoreStop core st
  | .save launch => Sys2Proof.Machine.execSave launch st
  | .saveResume launch => Sys2Proof.Machine.execSaveResume launch st
  | .restore launch placement => Sys2Proof.Machine.execRestore launch placement st
  | .refusalRetry core req => Sys2Proof.Machine.execRefusalRetry core req st
  | .sliceFillDone line link => Sys2Proof.Machine.execSliceFillDone line link st
  | .writeBackDone back => Sys2Proof.Machine.execWriteBackDone back st
  | .rehome region group => Sys2Proof.Machine.execRehome region group st
  | .scrub level own loc outcome syn => Sys2Proof.Machine.execScrub level own loc outcome syn st
  | .errorWindowStart level own idx => Sys2Proof.Machine.execErrorWindowStart level own idx st
  | .bankPromotionStart core bank => Sys2Proof.Machine.execBankPromotionStart core bank st
  | .busRepair core bus => Sys2Proof.Machine.execBusRepair core bus st
  | .busRetrainDone core bus ok => Sys2Proof.Machine.execBusRetrainDone core bus ok st
  | .tlbFill kind own ctx va => Sys2Proof.Machine.execTlbFill kind own ctx va st
  | .invalidationRequest id unit => Sys2Proof.Machine.execInvalidationRequest id unit st
  | .invalidationAck id unit => Sys2Proof.Machine.execInvalidationAck id unit st
  | .revocationRequest id unit => Sys2Proof.Machine.execRevocationRequest id unit st
  | .engineCommandPerform core cmd => Sys2Proof.Machine.execEngineCommandPerform core cmd st
  | .exchangeEntryPerform sq core => Sys2Proof.Machine.execExchangeEntryPerform sq core st
  | .barrierComplete launch level inst => Sys2Proof.Machine.execBarrierComplete launch level inst st
  | .tempoAccrue => Sys2Proof.Machine.execTempoAccrue st
  | .thermalSample ceiling inLimits cols => Sys2Proof.Machine.execThermalSample ceiling inLimits cols st
  | .probeOriginate queue waitsOn => Sys2Proof.Machine.execProbeOriginate queue waitsOn st
  | .probeArrive probe waitsOn => Sys2Proof.Machine.execProbeArrive probe waitsOn st
  | .queueDeadlock queue contexts => Sys2Proof.Machine.execQueueDeadlock queue contexts st
  | .routerForward msg => Sys2Proof.Machine.execRouterForward msg st
  | .messageDelivery msg => Sys2Proof.Machine.execMessageDelivery msg st
  | .slotReturn msg => Sys2Proof.Machine.execSlotReturn msg st
  | .reductionCombine red node => Sys2Proof.Machine.execReductionCombine red node st
  | .redwaitTimeout core => Sys2Proof.Machine.execRedwaitTimeout core st
  | .flushArrive red node => Sys2Proof.Machine.execFlushArrive red node st
  | .slotStart sq => Sys2Proof.Machine.execSlotStart sq st
  | .clockDiscipline sq time offset => Sys2Proof.Machine.execClockDiscipline sq time offset st
  | .ptpSync src msg => Sys2Proof.Machine.execPtpSync src msg st
  | .matchingWindow m => Sys2Proof.Machine.execMatchingWindow m st
  | .circuitLit port => Sys2Proof.Machine.execCircuitLit port st
  | .tokenArrive port token cut => Sys2Proof.Machine.execTokenArrive port token cut st
  | .tokenLoss port => Sys2Proof.Machine.execTokenLoss port st
  | .frameReceive dev seqNo crcOk what => Sys2Proof.Machine.execFrameReceive dev seqNo crcOk what st
  | .frameAck dev ack => Sys2Proof.Machine.execFrameAck dev ack st
  | .replayTimeout dev => Sys2Proof.Machine.execReplayTimeout dev st
  | .watchdogReset port => Sys2Proof.Machine.execWatchdogReset port st
  | .remoteAccess dev key ofs kind size data => Sys2Proof.Machine.execRemoteAccess dev key ofs kind size data st
  | .remoteRejection core acc => Sys2Proof.Machine.execRemoteRejection core acc st
  | .hostAccess place store size data => Sys2Proof.Machine.execHostAccess place store size data st
  | .doubledHashCompare core hash => Sys2Proof.Machine.execDoubledHashCompare core hash st
  | .doubledHashTimeout core => Sys2Proof.Machine.execDoubledHashTimeout core st
  | .replayForceTimeout launch sq => Sys2Proof.Machine.execReplayForceTimeout launch sq st
  | .homeSliceRequest core acc hint => Sys2Proof.Machine.execHomeSliceRequest core acc hint st
  | .accessResponse core acc data => Sys2Proof.Machine.execAccessResponse core acc data st
  | .laneGroupArbitration sq => Sys2Proof.Machine.execLaneGroupArbitration sq st
  | .torusLinkFailure link entries withheld => Sys2Proof.Machine.execTorusLinkFailure link entries withheld st

end Sys2Proof.Machine
end

