-- ==== Sys2Proof/WellFormed.lean ====
section
/-! DEFINITION. Which instructions are well formed: the operand values that the entries of the manual
call illegal (R315, R419, R420 and each entry), and destinations of the other stream (R182). A word whose
decoding is not well formed traps ILLEGAL. For events: the ranges of the numbers that name a place. -/

namespace Sys2Proof

/-- R182, R359: s0 and s0 to s15 for marker 0, s0 and s16 to s31 for marker 1. -/
def destOk (m : BitVec 1) (d : R5) : Bool :=
  if m == 0 then decide (d.toNat < 16) else d == 0 || decide (16 ≤ d.toNat)

/-- R359: a destination of the memory class names s0 or one of s16 to s31. -/
def accessDest (d : R5) : Bool := destOk 1 d

/-- R345: the conversions of FCVT that exist. `x` is DIR, `t` is T, `f` is FMT. -/
def cvtOk (x : BitVec 1) (t : BitVec 4) (f : BitVec 2) : Bool :=
  decide (t.toNat < 8) && (if x == 0 then t != f.setWidth 4 else decide (4 ≤ t.toNat))

/-- The instruction breaks no operand rule of its entry. -/
def Instr.wellFormed : Instr → Bool
  | .add m d _ _ _ => destOk m d
  | .sub m d _ _ _ => destOk m d
  | .and m d _ _ _ => destOk m d
  | .or m d _ _ _ => destOk m d
  | .xor m d _ _ _ => destOk m d
  | .andn m d _ _ _ => destOk m d
  | .sll m d _ _ _ => destOk m d
  | .srl m d _ _ _ => destOk m d
  | .sra m d _ _ _ => destOk m d
  | .rol m d _ _ _ => destOk m d
  | .ror m d _ _ _ => destOk m d
  | .slt m d _ _ _ => destOk m d
  | .sltu m d _ _ _ => destOk m d
  | .seq m d _ _ _ => destOk m d
  | .min m d _ _ _ => destOk m d
  | .max m d _ _ _ => destOk m d
  | .minu m d _ _ _ => destOk m d
  | .maxu m d _ _ _ => destOk m d
  | .mul m d _ _ _ => destOk m d
  | .mulh m d _ _ _ => destOk m d
  | .mulhu m d _ _ _ => destOk m d
  | .madd m d _ _ _ => destOk m d
  | .div m d _ _ _ => destOk m d
  | .divu m d _ _ _ => destOk m d
  | .rem m d _ _ _ => destOk m d
  | .remu m d _ _ _ => destOk m d
  | .clz m d _ _ => destOk m d
  | .ctz m d _ _ => destOk m d
  | .popc m d _ _ => destOk m d
  | .brev m d _ _ => destOk m d
  | .bswap m d _ s => destOk m d && s != 0
  | .addi m d _ _ => destOk m d
  | .andi m d _ _ => destOk m d
  | .ori m d _ _ => destOk m d
  | .xori m d _ _ => destOk m d
  | .slli m d _ s h => destOk m d && decide (h.toNat < 8 * 2 ^ s.toNat)
  | .srli m d _ s h => destOk m d && decide (h.toNat < 8 * 2 ^ s.toNat)
  | .srai m d _ s h => destOk m d && decide (h.toNat < 8 * 2 ^ s.toNat)
  | .roli m d _ s h => destOk m d && decide (h.toNat < 8 * 2 ^ s.toNat)
  | .slti m d _ _ => destOk m d
  | .sltiu m d _ _ => destOk m d
  | .lim m d _ => destOk m d
  | .addpc m d _ => destOk m d
  | .fadd m d _ _ r _ => destOk m d && r != 6
  | .fsub m d _ _ r _ => destOk m d && r != 6
  | .fmul m d _ _ r _ => destOk m d && r != 6
  | .fma m d _ _ r _ => destOk m d && r != 6
  | .fdiv m d _ _ r _ => destOk m d && r != 6
  | .fsqrt m d _ r _ => destOk m d && r != 6
  | .fmin m d _ _ _ => destOk m d
  | .fmax m d _ _ _ => destOk m d
  | .fcmp m d _ _ c _ => destOk m d && decide (c.toNat < 4)
  | .fcvt m d _ x t r f => destOk m d && r != 6 && cvtOk x t f
  | .fclass m d _ _ => destOk m d
  | .fmv m d _ _ => destOk m d
  | .clmul m d _ _ => destOk m d
  | .clmulh m d _ _ => destOk m d
  | .extr m d _ _ _ => destOk m d
  | .ins m d _ _ => destOk m d
  | .sel m d _ _ _ => destOk m d
  | .beq .. => true
  | .bne .. => true
  | .blt .. => true
  | .bge .. => true
  | .bltu .. => true
  | .bgeu .. => true
  | .jal m d _ => destOk m d
  | .jalr m d _ _ => destOk m d
  | .loop _ _ l => l != 0
  | .rpt .. => true
  | .rptRegisterCount .. => true
  | .mod o s p _ _ => decide (o.toNat < 6) && decide (s.toNat < 5) && decide (p.toNat < 4)
  | .ldl d _ _ _ => accessDest d
  | .stl .. => true
  | .ld d _ _ _ => accessDest d
  | .st .. => true
  | .lqr .. => true
  | .lqg .. => true
  | .sqw .. => true
  | .sqs .. => true
  | .amoadd d _ _ _ => accessDest d
  | .amoand d _ _ _ => accessDest d
  | .amoor d _ _ _ => accessDest d
  | .amoxor d _ _ _ => accessDest d
  | .amomin d _ _ _ => accessDest d
  | .amomax d _ _ _ => accessDest d
  | .amominu d _ _ _ => accessDest d
  | .amomaxu d _ _ _ => accessDest d
  | .amoswp d _ _ _ => accessDest d
  | .amocas d _ _ _ => accessDest d
  | .amofadd d _ _ _ => accessDest d
  | .fence s => decide (s.toNat < 5)
  | .acq s => decide (s.toNat < 5)
  | .rel s => decide (s.toNat < 5)
  | .tclr d t => (t == 0 || decide (d.toNat < 8))
  | .tmrg d _ t => (t == 0 || decide (d.toNat < 8))
  | .tqry d a t => accessDest d && (t == 0 || decide (a.toNat < 8))
  | .qenq d _ b q r => accessDest d && (if r == 0 then q == 0 else b == 0)
  | .qdeq d _ b q r => accessDest d && (if r == 0 then q == 0 && accessDest b else b == 0)
  | .qwait .. => true
  | .qstat d _ => accessDest d
  | .qinit .. => true
  | .chsend .. => true
  | .chrecv d _ => accessDest d
  | .chpoll d _ => accessDest d
  | .saadd _ p _ q _ _ => decide ((q ++ p).toNat < 5)
  | .sanrm _ _ _ p _ q _ => decide ((q ++ p).toNat < 5)
  | .saclr p _ q => decide ((q ++ p).toNat < 5)
  | .safence _ _ p _ q => decide ((q ++ p).toNat < 5)
  | .saevict f p _ q => decide ((q ++ p).toNat < 5) && f != 3
  | .saload p _ q => decide ((q ++ p).toNat < 5)
  | .sagain p _ q _ => decide ((q ++ p).toNat < 5)
  | .sasq d p _ q => decide ((q ++ p).toNat < 5) && decide (d.toNat < 16)
  | .lmzero .. => true
  | .lmcopy .. => true
  | .lmcmp _ _ c _ => decide (16 ≤ c.toNat)
  | .lmfence => true
  | .mcrd .. => true
  | .redsend .. => true
  | .redwait .. => true
  | .xsend .. => true
  | .xrecv d _ => accessDest d
  | .bar .. => true
  | .barDomain => true
  | .sstep => true
  | .tlwait _ _ s => decide (s.toNat < 5)
  | .feset .. => true
  | .feclr .. => true
  | .fewait .. => true
  | .tladv d _ => accessDest d
  | .cpy _ _ _ _ d _ => d != 3
  | .cpy2d _ _ _ _ d _ => d != 3
  | .cpyga .. => true
  | .cpysc .. => true
  | .cpyfi .. => true
  | .cpycv .. => true
  | .pref .. => true
  | .launch _ _ c => accessDest c
  | .ldloc d _ _ => accessDest d
  | .stloc .. => true
  | .ldctl d _ => accessDest d
  | .stctl .. => true
  | .ldvir d _ b _ o => accessDest d && (o == 0 || b == 0)
  | .stvir _ _ b _ o => (o == 0 || b == 0)
  | .ldphy d _ _ => accessDest d
  | .stphy .. => true
  | .ldrem d _ _ _ => accessDest d
  | .strem .. => true
  | .ldhst d _ _ => accessDest d
  | .sthst .. => true
  | .vadd .. => true
  | .vsub .. => true
  | .vmul .. => true
  | .vfma .. => true
  | .vfms .. => true
  | .vfnma .. => true
  | .vmin .. => true
  | .vmax .. => true
  | .vabs .. => true
  | .vneg .. => true
  | .vcps .. => true
  | .vdiv .. => true
  | .vsqrt .. => true
  | .vrsq .. => true
  | .vrcp .. => true
  | .vexp2 .. => true
  | .vlog2 .. => true
  | .vtanh .. => true
  | .vsig .. => true
  | .viadd .. => true
  | .visub .. => true
  | .vimul .. => true
  | .vimulh .. => true
  | .vimin .. => true
  | .vimax .. => true
  | .viabs .. => true
  | .vand .. => true
  | .vor .. => true
  | .vxor .. => true
  | .vandn .. => true
  | .vshl .. => true
  | .vshr .. => true
  | .vsra .. => true
  | .vpopc .. => true
  | .vclmul .. => true
  | .vcmpF32Eq .. => true
  | .vcmpF32Lt .. => true
  | .vcmpF32Le .. => true
  | .vcmpF32Un .. => true
  | .vcmpI32Eq .. => true
  | .vcmpI32Lt .. => true
  | .vcmpI32Le .. => true
  | .vcmpN32Lt .. => true
  | .vcmpN32Le .. => true
  | .vsel .. => true
  | .vmskExpand .. => true
  | .vmskPack d _ => decide (d.toNat < 16)
  | .vcvt _ _ h v => (decide (v.toNat < 4) || h == 0)
  | .vqnt _ _ _ k => k != 0
  | .vdqnt _ _ _ k => k != 0
  | .vamax _ _ b => b != 0
  | .vshuf .. => true
  | .vrot .. => true
  | .vredsum _ _ y => decide (y.toNat < 2)
  | .vredmax _ _ y => y != 3
  | .vredmin _ _ y => y != 3
  | .vscan _ _ y => decide (y.toNat < 2)
  | .vxpose .. => true
  | .vcpy .. => true
  | .vzero .. => true
  | .vbcast _ _ w => w != 3
  | .vext d _ _ => decide (d.toNat < 16)
  | .vins .. => true
  | .viota .. => true
  | .vsq .. => true
  | .vaddQ .. => true
  | .vsubQ .. => true
  | .vmulQ .. => true
  | .vfmaQ .. => true
  | .vfmsQ .. => true
  | .vfnmaQ .. => true
  | .vminQ .. => true
  | .vmaxQ .. => true
  | .vabsQ .. => true
  | .vnegQ .. => true
  | .vcpsQ .. => true
  | .viaddQ .. => true
  | .visubQ .. => true
  | .vimulQ .. => true
  | .vimulhQ .. => true
  | .viminQ .. => true
  | .vimaxQ .. => true
  | .viabsQ .. => true
  | .vandQ .. => true
  | .vorQ .. => true
  | .vxorQ .. => true
  | .vandnQ .. => true
  | .vshlQ .. => true
  | .vshrQ .. => true
  | .vsraQ .. => true
  | .vpopcQ .. => true
  | .vclmulQ .. => true
  | .vcvtQ _ h v _ => (decide (v.toNat < 4) || h == 0)
  | .vqntQ _ _ k _ => k != 0
  | .vdqntQ _ _ k _ => k != 0
  | .vamaxQ _ b _ => b != 0
  | .mma .. => true
  | .mma64 .. => true
  | .mmac .. => true
  | .mmas .. => true
  | .gang => true
  | .mshp .. => true
  | .mzero .. => true
  | .mlda .. => true
  | .msta .. => true
  | .mepi .. => true
  | .mdld .. => true
  | .mfst _ _ d => decide (d.toNat < 16)
  | .qpset .. => true
  | .qpfac => true
  | .qpiter => true
  | .qpshift .. => true
  | .qpres => true
  | .qpstat c => decide (c.toNat < 16)
  | .fchol _ _ c => decide (c.toNat < 16)
  | .ftrs .. => true
  | .trap .. => true
  | .bkpt .. => true
  | .eret .. => true
  | .mfc m d _ => destOk m d
  | .mtc .. => true
  | .phint .. => true
  | .yield .. => true
  | .wfe .. => true
  | .sev .. => true
  | .halt .. => true
  | .tlbi .. => true
  | .lease .. => true
  | .mcread m d _ => destOk m d
  | .scmark .. => true
  | .clkrd m d => destOk m d
  | .saSliceApply core => decide (core < 8192)
  | .saEvictionRetry slice => decide (slice < 2048)
  | .gangStart sq => decide (sq < 2048)
  | .gangResidueCheck sq _ _ _ _ => decide (sq < 2048)
  | .fifoTimeout sq => decide (sq < 2048)
  | .instructionForward core => decide (core < 8192)
  | .coldReset .. => true
  | .attestationReport .. => true
  | .checkpoint .. => true
  | .checkpointRestore .. => true
  | .rsig .. => true
  | .lnqctl q _ => decide (q < 16)
  | .lpwr core _ => decide (core < 8192)
  | .layerPowerDown core _ => decide (core < 8192)
  | .layerTransitionDone core _ => decide (core < 8192)
  | .xstat core => decide (core < 8192)
  | .ecnt level => decide (level < 7)
  | .elog level => decide (level < 7)
  | .escr level _ => decide (level < 7)
  | .ctmp col _ => decide (col < 256)
  | .afpcfg port _ => decide (port < 32)
  | .afmw .. => true
  | .registerWrite .. => true
  | .bankDemote core bank => decide (core < 8192) && decide (bank < 32)
  | .freezeClear col => decide (col < 256)
  | .squareWithhold sq => decide (sq < 2048)
  | .schedulerSelect .. => true
  | .leaseWalk q => decide (q < 16)
  | .taskBind .. => true
  | .remoteTensorFill _ _ buf _ _ _ => decide (buf < 4)
  | .preemptionRequest .. => true
  | .preemptionDeadline core => decide (core < 8192)
  | .loopContextDiscard core => decide (core < 8192)
  | .coreStop core => decide (core < 8192)
  | .save .. => true
  | .saveResume .. => true
  | .restore .. => true
  | .refusalRetry core req => decide (core < 8192) && req.hint != 0
  | .sliceFillDone .. => true
  | .writeBackDone .. => true
  | .rehome .. => true
  | .scrub _ _ _ outcome _ => decide (outcome < 7)
  | .errorWindowStart .. => true
  | .bankPromotionStart core bank => decide (core < 8192) && decide (bank < 32)
  | .busRepair core bus => decide (core < 8192) && decide (bus < 8)
  | .busRetrainDone core bus _ => decide (core < 8192) && decide (bus < 8)
  | .tlbFill kind _ _ _ => decide (kind < 4)
  | .invalidationRequest .. => true
  | .invalidationAck .. => true
  | .revocationRequest .. => true
  | .engineCommandPerform core cmd => decide (core < 8192) && cmd.hint != 0
  | .exchangeEntryPerform sq core => decide (sq < 2048) && decide (core.no / 4 = sq) && core.hint != 0
  | .barrierComplete .. => true
  | .tempoAccrue => true
  | .thermalSample .. => true
  | .probeOriginate .. => true
  | .probeArrive .. => true
  | .queueDeadlock .. => true
  | .routerForward .. => true
  | .messageDelivery .. => true
  | .slotReturn .. => true
  | .reductionCombine .. => true
  | .redwaitTimeout core => decide (core < 8192)
  | .flushArrive .. => true
  | .slotStart sq => decide (sq < 2048)
  | .clockDiscipline sq _ _ => decide (sq < 2048)
  | .ptpSync .. => true
  | .matchingWindow .. => true
  | .circuitLit port => decide (port < 32)
  | .tokenArrive port _ _ => decide (port < 32)
  | .tokenLoss port => decide (port < 32)
  | .frameReceive _ _ _ what => decide (what.data.length ≤ 4096)
  | .frameAck .. => true
  | .replayTimeout .. => true
  | .watchdogReset port => decide (port < 32)
  | .remoteAccess .. => true
  | .remoteRejection core _ => decide (core < 8192)
  | .hostAccess place store size data => (place.bar == 0 || place.bar == 2) && (!store || data.length == size)
  | .doubledHashCompare core _ => decide (core < 8192)
  | .doubledHashTimeout core => decide (core < 8192)
  | .replayForceTimeout .. => true
  | .homeSliceRequest core _ hint => decide (core < 8192) && hint != 0
  | .accessResponse core _ _ => decide (core < 8192)
  | .laneGroupArbitration sq => decide (sq < 2048)
  | .torusLinkFailure .. => true

end Sys2Proof
end

