-- ==== Sys2Proof/Decode.lean ====
section
/-! DEFINITION. Decoding (R310 to R316) and encoding.

`decode` reads a word by the opcode table: the major opcode, then the minor that the major's chapter
assigns, then every bit the row fixes. It refuses every other word by name. Values inside a row's fields
that an entry calls illegal, and destinations of the other stream, are refused by `Instr.wellFormed`
afterwards; `Machine/Step.lean` traps ILLEGAL on either refusal. `encode` is written from the same table.
No event has an encoding. -/

namespace Sys2Proof

/-- The field of `len` bits from bit `lo` of a word (R6). -/
def Word.fld (w : Word) (lo len : Nat) : BitVec len := w.extractLsb' lo len

/-- The word whose bits from `lo` on are `v`, zero elsewhere. -/
def Word.at (lo : Nat) {n : Nat} (v : BitVec n) : Word := (v.setWidth 32) <<< lo

/-- Why a word is no instruction (R315). -/
inductive DecodeError where
  /-- Major 0x00, 0x0E, 0x0F or 0x3F (R314). -/
  | reservedMajor
  /-- A minor that the major's chapter does not assign. -/
  | unassignedMinor
  /-- A bit that the row fixes differs: a nonzero unused field, or a marker that R314 does not permit. -/
  | fixedBits
  /-- Fewer than four bytes. -/
  | tooShort
  deriving DecidableEq, Repr

/-- `i` when the row's fixed bits hold. -/
def want (fixed : Bool) (i : Instr) : Except DecodeError Instr :=
  if fixed then .ok i else .error .fixedBits

/-- Major 0x01. -/
noncomputable def decodeSystem (w : Word) : Except DecodeError Instr :=
  match (w.fld 0 4).toNat with
  | 0 => want (w.fld 4 6 == 0#6) (.trap (w.fld 31 1) (w.fld 10 15))
  | 1 => want (w.fld 4 6 == 0#6) (.bkpt (w.fld 31 1) (w.fld 10 15))
  | 2 => want (w.fld 4 21 == 0#21) (.eret (w.fld 31 1))
  | 3 => want (w.fld 15 5 == 0#5 && w.fld 4 1 == 0#1) (.mfc (w.fld 31 1) (w.fld 20 5) (w.fld 5 10))
  | 4 => want (w.fld 20 5 == 0#5 && w.fld 4 1 == 0#1) (.mtc (w.fld 31 1) (w.fld 15 5) (w.fld 5 10))
  | 5 => want (w.fld 20 5 == 0#5 && w.fld 4 11 == 0#11) (.phint (w.fld 31 1) (w.fld 15 5))
  | 6 => want (w.fld 4 21 == 0#21) (.yield (w.fld 31 1))
  | 7 => want (w.fld 4 21 == 0#21) (.wfe (w.fld 31 1))
  | 8 => want (w.fld 20 5 == 0#5 && w.fld 4 11 == 0#11) (.sev (w.fld 31 1) (w.fld 15 5))
  | 9 => want (w.fld 4 21 == 0#21) (.halt (w.fld 31 1))
  | 10 => want (w.fld 4 6 == 0#6) (.tlbi (w.fld 31 1) (w.fld 20 5) (w.fld 15 5) (w.fld 10 5))
  | 11 => want (w.fld 4 6 == 0#6) (.lease (w.fld 31 1) (w.fld 20 5) (w.fld 15 5) (w.fld 10 5))
  | 12 => want (w.fld 4 11 == 0#11) (.mcread (w.fld 31 1) (w.fld 20 5) (w.fld 15 5))
  | 13 => want (w.fld 20 5 == 0#5 && w.fld 4 11 == 0#11) (.scmark (w.fld 31 1) (w.fld 15 5))
  | 14 => want (w.fld 4 16 == 0#16) (.clkrd (w.fld 31 1) (w.fld 20 5))
  | _ => .error .unassignedMinor

/-- Major 0x02. -/
noncomputable def decodeInteger (w : Word) : Except DecodeError Instr :=
  match (w.fld 0 5).toNat with
  | 0 => want (w.fld 5 3 == 0#3) (.add (w.fld 31 1) (w.fld 20 5) (w.fld 15 5) (w.fld 10 5) (w.fld 8 2))
  | 1 => want (w.fld 5 3 == 0#3) (.sub (w.fld 31 1) (w.fld 20 5) (w.fld 15 5) (w.fld 10 5) (w.fld 8 2))
  | 2 => want (w.fld 5 3 == 0#3) (.and (w.fld 31 1) (w.fld 20 5) (w.fld 15 5) (w.fld 10 5) (w.fld 8 2))
  | 3 => want (w.fld 5 3 == 0#3) (.or (w.fld 31 1) (w.fld 20 5) (w.fld 15 5) (w.fld 10 5) (w.fld 8 2))
  | 4 => want (w.fld 5 3 == 0#3) (.xor (w.fld 31 1) (w.fld 20 5) (w.fld 15 5) (w.fld 10 5) (w.fld 8 2))
  | 5 => want (w.fld 5 3 == 0#3) (.andn (w.fld 31 1) (w.fld 20 5) (w.fld 15 5) (w.fld 10 5) (w.fld 8 2))
  | 6 => want (w.fld 5 3 == 0#3) (.sll (w.fld 31 1) (w.fld 20 5) (w.fld 15 5) (w.fld 10 5) (w.fld 8 2))
  | 7 => want (w.fld 5 3 == 0#3) (.srl (w.fld 31 1) (w.fld 20 5) (w.fld 15 5) (w.fld 10 5) (w.fld 8 2))
  | 8 => want (w.fld 5 3 == 0#3) (.sra (w.fld 31 1) (w.fld 20 5) (w.fld 15 5) (w.fld 10 5) (w.fld 8 2))
  | 9 => want (w.fld 5 3 == 0#3) (.rol (w.fld 31 1) (w.fld 20 5) (w.fld 15 5) (w.fld 10 5) (w.fld 8 2))
  | 10 => want (w.fld 5 3 == 0#3) (.ror (w.fld 31 1) (w.fld 20 5) (w.fld 15 5) (w.fld 10 5) (w.fld 8 2))
  | 11 => want (w.fld 5 3 == 0#3) (.slt (w.fld 31 1) (w.fld 20 5) (w.fld 15 5) (w.fld 10 5) (w.fld 8 2))
  | 12 => want (w.fld 5 3 == 0#3) (.sltu (w.fld 31 1) (w.fld 20 5) (w.fld 15 5) (w.fld 10 5) (w.fld 8 2))
  | 13 => want (w.fld 5 3 == 0#3) (.seq (w.fld 31 1) (w.fld 20 5) (w.fld 15 5) (w.fld 10 5) (w.fld 8 2))
  | 14 => want (w.fld 5 3 == 0#3) (.min (w.fld 31 1) (w.fld 20 5) (w.fld 15 5) (w.fld 10 5) (w.fld 8 2))
  | 15 => want (w.fld 5 3 == 0#3) (.max (w.fld 31 1) (w.fld 20 5) (w.fld 15 5) (w.fld 10 5) (w.fld 8 2))
  | 16 => want (w.fld 5 3 == 0#3) (.minu (w.fld 31 1) (w.fld 20 5) (w.fld 15 5) (w.fld 10 5) (w.fld 8 2))
  | 17 => want (w.fld 5 3 == 0#3) (.maxu (w.fld 31 1) (w.fld 20 5) (w.fld 15 5) (w.fld 10 5) (w.fld 8 2))
  | _ => .error .unassignedMinor

/-- Major 0x03. -/
noncomputable def decodeMultiply (w : Word) : Except DecodeError Instr :=
  match (w.fld 0 4).toNat with
  | 0 => want (w.fld 4 4 == 0#4) (.mul (w.fld 31 1) (w.fld 20 5) (w.fld 15 5) (w.fld 10 5) (w.fld 8 2))
  | 1 => want (w.fld 4 4 == 0#4) (.mulh (w.fld 31 1) (w.fld 20 5) (w.fld 15 5) (w.fld 10 5) (w.fld 8 2))
  | 2 => want (w.fld 4 4 == 0#4) (.mulhu (w.fld 31 1) (w.fld 20 5) (w.fld 15 5) (w.fld 10 5) (w.fld 8 2))
  | 3 => want (w.fld 4 4 == 0#4) (.madd (w.fld 31 1) (w.fld 20 5) (w.fld 15 5) (w.fld 10 5) (w.fld 8 2))
  | 4 => want (w.fld 4 4 == 0#4) (.div (w.fld 31 1) (w.fld 20 5) (w.fld 15 5) (w.fld 10 5) (w.fld 8 2))
  | 5 => want (w.fld 4 4 == 0#4) (.divu (w.fld 31 1) (w.fld 20 5) (w.fld 15 5) (w.fld 10 5) (w.fld 8 2))
  | 6 => want (w.fld 4 4 == 0#4) (.rem (w.fld 31 1) (w.fld 20 5) (w.fld 15 5) (w.fld 10 5) (w.fld 8 2))
  | 7 => want (w.fld 4 4 == 0#4) (.remu (w.fld 31 1) (w.fld 20 5) (w.fld 15 5) (w.fld 10 5) (w.fld 8 2))
  | 8 => want (w.fld 10 5 == 0#5 && w.fld 4 4 == 0#4) (.clz (w.fld 31 1) (w.fld 20 5) (w.fld 15 5) (w.fld 8 2))
  | 9 => want (w.fld 10 5 == 0#5 && w.fld 4 4 == 0#4) (.ctz (w.fld 31 1) (w.fld 20 5) (w.fld 15 5) (w.fld 8 2))
  | 10 => want (w.fld 10 5 == 0#5 && w.fld 4 4 == 0#4) (.popc (w.fld 31 1) (w.fld 20 5) (w.fld 15 5) (w.fld 8 2))
  | 11 => want (w.fld 10 5 == 0#5 && w.fld 4 4 == 0#4) (.brev (w.fld 31 1) (w.fld 20 5) (w.fld 15 5) (w.fld 8 2))
  | 12 => want (w.fld 10 5 == 0#5 && w.fld 4 4 == 0#4) (.bswap (w.fld 31 1) (w.fld 20 5) (w.fld 15 5) (w.fld 8 2))
  | _ => .error .unassignedMinor

/-- Major 0x08. -/
noncomputable def decodeShiftImm (w : Word) : Except DecodeError Instr :=
  match (w.fld 12 2).toNat with
  | 0 => want (w.fld 14 1 == 0#1 && w.fld 8 4 == 0#4) (.slli (w.fld 31 1) (w.fld 20 5) (w.fld 15 5) (w.fld 6 2) (w.fld 0 6))
  | 1 => want (w.fld 14 1 == 0#1 && w.fld 8 4 == 0#4) (.srli (w.fld 31 1) (w.fld 20 5) (w.fld 15 5) (w.fld 6 2) (w.fld 0 6))
  | 2 => want (w.fld 14 1 == 0#1 && w.fld 8 4 == 0#4) (.srai (w.fld 31 1) (w.fld 20 5) (w.fld 15 5) (w.fld 6 2) (w.fld 0 6))
  | _ => want (w.fld 14 1 == 0#1 && w.fld 8 4 == 0#4) (.roli (w.fld 31 1) (w.fld 20 5) (w.fld 15 5) (w.fld 6 2) (w.fld 0 6))

/-- Major 0x09. -/
noncomputable def decodeSetLessImm (w : Word) : Except DecodeError Instr :=
  match (w.fld 14 1).toNat with
  | 0 => .ok (.slti (w.fld 31 1) (w.fld 20 5) (w.fld 15 5) (w.fld 0 14))
  | _ => .ok (.sltiu (w.fld 31 1) (w.fld 20 5) (w.fld 15 5) (w.fld 0 14))

/-- Major 0x0C. -/
noncomputable def decodeScalarFloat (w : Word) : Except DecodeError Instr :=
  match (w.fld 0 4).toNat with
  | 0 => want (w.fld 4 1 == 0#1) (.fadd (w.fld 31 1) (w.fld 20 5) (w.fld 15 5) (w.fld 10 5) (w.fld 7 3) (w.fld 5 2))
  | 1 => want (w.fld 4 1 == 0#1) (.fsub (w.fld 31 1) (w.fld 20 5) (w.fld 15 5) (w.fld 10 5) (w.fld 7 3) (w.fld 5 2))
  | 2 => want (w.fld 4 1 == 0#1) (.fmul (w.fld 31 1) (w.fld 20 5) (w.fld 15 5) (w.fld 10 5) (w.fld 7 3) (w.fld 5 2))
  | 3 => want (w.fld 4 1 == 0#1) (.fma (w.fld 31 1) (w.fld 20 5) (w.fld 15 5) (w.fld 10 5) (w.fld 7 3) (w.fld 5 2))
  | 4 => want (w.fld 4 1 == 0#1) (.fdiv (w.fld 31 1) (w.fld 20 5) (w.fld 15 5) (w.fld 10 5) (w.fld 7 3) (w.fld 5 2))
  | 5 => want (w.fld 10 5 == 0#5 && w.fld 4 1 == 0#1) (.fsqrt (w.fld 31 1) (w.fld 20 5) (w.fld 15 5) (w.fld 7 3) (w.fld 5 2))
  | 6 => want (w.fld 7 3 == 0#3 && w.fld 4 1 == 0#1) (.fmin (w.fld 31 1) (w.fld 20 5) (w.fld 15 5) (w.fld 10 5) (w.fld 5 2))
  | 7 => want (w.fld 7 3 == 0#3 && w.fld 4 1 == 0#1) (.fmax (w.fld 31 1) (w.fld 20 5) (w.fld 15 5) (w.fld 10 5) (w.fld 5 2))
  | 8 => want (w.fld 4 1 == 0#1) (.fcmp (w.fld 31 1) (w.fld 20 5) (w.fld 15 5) (w.fld 10 5) (w.fld 7 3) (w.fld 5 2))
  | 9 => want (w.fld 4 1 == 0#1) (.fcvt (w.fld 31 1) (w.fld 20 5) (w.fld 15 5) (w.fld 14 1) (w.fld 10 4) (w.fld 7 3) (w.fld 5 2))
  | 10 => want (w.fld 7 8 == 0#8 && w.fld 4 1 == 0#1) (.fclass (w.fld 31 1) (w.fld 20 5) (w.fld 15 5) (w.fld 5 2))
  | 11 => want (w.fld 7 8 == 0#8 && w.fld 4 1 == 0#1) (.fmv (w.fld 31 1) (w.fld 20 5) (w.fld 15 5) (w.fld 5 2))
  | _ => .error .unassignedMinor

/-- Major 0x0D. -/
noncomputable def decodeBitField (w : Word) : Except DecodeError Instr :=
  match (w.fld 7 3).toNat with
  | 0 => want (w.fld 0 7 == 0#7) (.clmul (w.fld 31 1) (w.fld 20 5) (w.fld 15 5) (w.fld 10 5))
  | 1 => want (w.fld 0 7 == 0#7) (.clmulh (w.fld 31 1) (w.fld 20 5) (w.fld 15 5) (w.fld 10 5))
  | 2 => want (w.fld 0 6 == 0#6) (.extr (w.fld 31 1) (w.fld 20 5) (w.fld 15 5) (w.fld 10 5) (w.fld 6 1))
  | 3 => want (w.fld 0 7 == 0#7) (.ins (w.fld 31 1) (w.fld 20 5) (w.fld 15 5) (w.fld 10 5))
  | 4 => want (w.fld 5 2 == 0#2) (.sel (w.fld 31 1) (w.fld 20 5) (w.fld 15 5) (w.fld 10 5) (w.fld 0 5))
  | _ => .error .unassignedMinor

/-- Major 0x18. -/
noncomputable def decodeRepeat (w : Word) : Except DecodeError Instr :=
  match (w.fld 24 1).toNat with
  | 0 => want (w.fld 0 9 == 0#9) (.loop (w.fld 31 1) (w.fld 19 5) (w.fld 9 10))
  | _ => 
      match (w.fld 15 1).toNat with
      | 0 => want (w.fld 31 1 == 0#1 && w.fld 0 10 == 0#10) (.rptRegisterCount (w.fld 20 4) (w.fld 16 4) (w.fld 10 5))
      | _ => want (w.fld 31 1 == 0#1 && w.fld 10 5 == 0#5) (.rpt (w.fld 20 4) (w.fld 16 4) (w.fld 0 10))

/-- Major 0x1E. -/
noncomputable def decodeRowLoad (w : Word) : Except DecodeError Instr :=
  match (w.fld 5 1).toNat with
  | 0 => want (w.fld 31 1 == 1#1 && w.fld 6 14 == 0#14 && w.fld 0 2 == 0#2) (.lqr (w.fld 20 5) (w.fld 4 1) (w.fld 2 2))
  | _ => want (w.fld 31 1 == 1#1 && w.fld 6 9 == 0#9) (.lqg (w.fld 20 5) (w.fld 15 5) (w.fld 4 1) (w.fld 2 2) (w.fld 0 2))

/-- Major 0x1F. -/
noncomputable def decodeRowStore (w : Word) : Except DecodeError Instr :=
  match (w.fld 5 1).toNat with
  | 0 => want (w.fld 31 1 == 1#1 && w.fld 6 14 == 0#14 && w.fld 3 1 == 0#1 && w.fld 0 2 == 0#2) (.sqw (w.fld 20 5) (w.fld 4 1) (w.fld 2 1))
  | _ => want (w.fld 31 1 == 1#1 && w.fld 6 9 == 0#9 && w.fld 3 1 == 0#1) (.sqs (w.fld 20 5) (w.fld 15 5) (w.fld 4 1) (w.fld 2 1) (w.fld 0 2))

/-- Major 0x20. -/
noncomputable def decodeAtomic (w : Word) : Except DecodeError Instr :=
  match (w.fld 4 4).toNat with
  | 0 => want (w.fld 31 1 == 1#1 && w.fld 9 1 == 1#1 && w.fld 0 4 == 0#4) (.amoadd (w.fld 20 5) (w.fld 15 5) (w.fld 10 5) (w.fld 8 1))
  | 1 => want (w.fld 31 1 == 1#1 && w.fld 9 1 == 1#1 && w.fld 0 4 == 0#4) (.amoand (w.fld 20 5) (w.fld 15 5) (w.fld 10 5) (w.fld 8 1))
  | 2 => want (w.fld 31 1 == 1#1 && w.fld 9 1 == 1#1 && w.fld 0 4 == 0#4) (.amoor (w.fld 20 5) (w.fld 15 5) (w.fld 10 5) (w.fld 8 1))
  | 3 => want (w.fld 31 1 == 1#1 && w.fld 9 1 == 1#1 && w.fld 0 4 == 0#4) (.amoxor (w.fld 20 5) (w.fld 15 5) (w.fld 10 5) (w.fld 8 1))
  | 4 => want (w.fld 31 1 == 1#1 && w.fld 9 1 == 1#1 && w.fld 0 4 == 0#4) (.amomin (w.fld 20 5) (w.fld 15 5) (w.fld 10 5) (w.fld 8 1))
  | 5 => want (w.fld 31 1 == 1#1 && w.fld 9 1 == 1#1 && w.fld 0 4 == 0#4) (.amomax (w.fld 20 5) (w.fld 15 5) (w.fld 10 5) (w.fld 8 1))
  | 6 => want (w.fld 31 1 == 1#1 && w.fld 9 1 == 1#1 && w.fld 0 4 == 0#4) (.amominu (w.fld 20 5) (w.fld 15 5) (w.fld 10 5) (w.fld 8 1))
  | 7 => want (w.fld 31 1 == 1#1 && w.fld 9 1 == 1#1 && w.fld 0 4 == 0#4) (.amomaxu (w.fld 20 5) (w.fld 15 5) (w.fld 10 5) (w.fld 8 1))
  | 8 => want (w.fld 31 1 == 1#1 && w.fld 9 1 == 1#1 && w.fld 0 4 == 0#4) (.amoswp (w.fld 20 5) (w.fld 15 5) (w.fld 10 5) (w.fld 8 1))
  | 9 => want (w.fld 31 1 == 1#1 && w.fld 9 1 == 1#1 && w.fld 0 4 == 0#4) (.amocas (w.fld 20 5) (w.fld 15 5) (w.fld 10 5) (w.fld 8 1))
  | 10 => want (w.fld 31 1 == 1#1 && w.fld 9 1 == 1#1 && w.fld 0 4 == 0#4) (.amofadd (w.fld 20 5) (w.fld 15 5) (w.fld 10 5) (w.fld 8 1))
  | _ => .error .unassignedMinor

/-- Major 0x21. -/
noncomputable def decodeOrdering (w : Word) : Except DecodeError Instr :=
  match (w.fld 0 3).toNat with
  | 0 => want (w.fld 31 1 == 1#1 && w.fld 6 19 == 0#19) (.fence (w.fld 3 3))
  | 1 => want (w.fld 31 1 == 1#1 && w.fld 6 19 == 0#19) (.acq (w.fld 3 3))
  | 2 => want (w.fld 31 1 == 1#1 && w.fld 6 19 == 0#19) (.rel (w.fld 3 3))
  | 3 => want (w.fld 31 1 == 1#1 && w.fld 7 13 == 0#13 && w.fld 3 3 == 0#3) (.tclr (w.fld 20 5) (w.fld 6 1))
  | 4 => want (w.fld 31 1 == 1#1 && w.fld 7 8 == 0#8 && w.fld 3 3 == 0#3) (.tmrg (w.fld 20 5) (w.fld 15 5) (w.fld 6 1))
  | 5 => want (w.fld 31 1 == 1#1 && w.fld 7 8 == 0#8 && w.fld 3 3 == 0#3) (.tqry (w.fld 20 5) (w.fld 15 5) (w.fld 6 1))
  | _ => .error .unassignedMinor

/-- Major 0x22. -/
noncomputable def decodeSliceQueue (w : Word) : Except DecodeError Instr :=
  match (w.fld 0 3).toNat with
  | 0 => want (w.fld 31 1 == 1#1 && w.fld 5 5 == 0#5) (.qenq (w.fld 20 5) (w.fld 15 5) (w.fld 10 5) (w.fld 4 1) (w.fld 3 1))
  | 1 => want (w.fld 31 1 == 1#1 && w.fld 6 4 == 0#4) (.qdeq (w.fld 20 5) (w.fld 15 5) (w.fld 10 5) (w.fld 4 2) (w.fld 3 1))
  | 2 => want (w.fld 31 1 == 1#1 && w.fld 20 5 == 0#5 && w.fld 3 12 == 0#12) (.qwait (w.fld 15 5))
  | 3 => want (w.fld 31 1 == 1#1 && w.fld 3 12 == 0#12) (.qstat (w.fld 20 5) (w.fld 15 5))
  | 4 => want (w.fld 31 1 == 1#1 && w.fld 20 5 == 0#5 && w.fld 3 12 == 0#12) (.qinit (w.fld 15 5))
  | _ => .error .unassignedMinor

/-- Major 0x23. -/
noncomputable def decodeChannel (w : Word) : Except DecodeError Instr :=
  match (w.fld 0 2).toNat with
  | 0 => want (w.fld 31 1 == 1#1 && w.fld 20 5 == 0#5 && w.fld 6 9 == 0#9) (.chsend (w.fld 15 5) (w.fld 2 4))
  | 1 => want (w.fld 31 1 == 1#1 && w.fld 6 14 == 0#14) (.chrecv (w.fld 20 5) (w.fld 2 4))
  | 2 => want (w.fld 31 1 == 1#1 && w.fld 6 14 == 0#14) (.chpoll (w.fld 20 5) (w.fld 2 4))
  | _ => .error .unassignedMinor

/-- Major 0x24. -/
noncomputable def decodeStreamAcc (w : Word) : Except DecodeError Instr :=
  match (w.fld 0 3).toNat with
  | 0 => want (w.fld 31 1 == 0#1 && w.fld 3 1 == 0#1) (.saadd (w.fld 18 7) (w.fld 16 2) (w.fld 11 5) (w.fld 10 1) (w.fld 9 1) (w.fld 4 5))
  | 1 => want (w.fld 31 1 == 0#1 && w.fld 22 3 == 0#3 && w.fld 9 1 == 0#1 && w.fld 3 1 == 0#1) (.sanrm (w.fld 21 1) (w.fld 20 1) (w.fld 18 2) (w.fld 16 2) (w.fld 11 5) (w.fld 10 1) (w.fld 4 5))
  | 2 => want (w.fld 31 1 == 0#1 && w.fld 18 7 == 0#7 && w.fld 3 7 == 0#7) (.saclr (w.fld 16 2) (w.fld 11 5) (w.fld 10 1))
  | 3 => want (w.fld 31 1 == 0#1 && w.fld 20 5 == 0#5 && w.fld 3 7 == 0#7) (.safence (w.fld 19 1) (w.fld 18 1) (w.fld 16 2) (w.fld 11 5) (w.fld 10 1))
  | 4 => want (w.fld 31 1 == 0#1 && w.fld 20 5 == 0#5 && w.fld 3 7 == 0#7) (.saevict (w.fld 18 2) (w.fld 16 2) (w.fld 11 5) (w.fld 10 1))
  | 5 => want (w.fld 31 1 == 0#1 && w.fld 18 7 == 0#7 && w.fld 3 7 == 0#7) (.saload (w.fld 16 2) (w.fld 11 5) (w.fld 10 1))
  | 6 => want (w.fld 31 1 == 0#1 && w.fld 18 7 == 0#7 && w.fld 9 1 == 0#1 && w.fld 3 1 == 0#1) (.sagain (w.fld 16 2) (w.fld 11 5) (w.fld 10 1) (w.fld 4 5))
  | _ => want (w.fld 31 1 == 0#1 && w.fld 23 2 == 0#2 && w.fld 3 7 == 0#7) (.sasq (w.fld 18 5) (w.fld 16 2) (w.fld 11 5) (w.fld 10 1))

/-- Major 0x25. -/
noncomputable def decodeInLayer (w : Word) : Except DecodeError Instr :=
  match (w.fld 0 2).toNat with
  | 0 => want (w.fld 31 1 == 1#1 && w.fld 15 5 == 0#5 && w.fld 2 5 == 0#5) (.lmzero (w.fld 20 5) (w.fld 10 5) (w.fld 7 3))
  | 1 => want (w.fld 31 1 == 1#1 && w.fld 2 5 == 0#5) (.lmcopy (w.fld 20 5) (w.fld 15 5) (w.fld 10 5) (w.fld 7 3))
  | 2 => want (w.fld 31 1 == 1#1 && w.fld 2 5 == 0#5) (.lmcmp (w.fld 20 5) (w.fld 15 5) (w.fld 10 5) (w.fld 7 3))
  | _ => want (w.fld 31 1 == 1#1 && w.fld 2 23 == 0#23) (.lmfence)

/-- Major 0x26. -/
noncomputable def decodeExchange (w : Word) : Except DecodeError Instr :=
  match (w.fld 4 3).toNat with
  | 0 => want (w.fld 31 1 == 1#1 && w.fld 0 4 == 0#4) (.mcrd (w.fld 20 5) (w.fld 15 5) (w.fld 10 5) (w.fld 7 3))
  | 1 => want (w.fld 31 1 == 1#1 && w.fld 10 5 == 0#5) (.redsend (w.fld 20 5) (w.fld 15 5) (w.fld 7 3) (w.fld 2 2) (w.fld 0 2))
  | 2 => want (w.fld 31 1 == 1#1 && w.fld 7 8 == 0#8 && w.fld 0 2 == 0#2) (.redwait (w.fld 20 5) (w.fld 15 5) (w.fld 2 2))
  | 3 => want (w.fld 31 1 == 1#1) (.xsend (w.fld 20 5) (w.fld 15 5) (w.fld 10 5) (w.fld 7 3) (w.fld 0 4))
  | 4 => want (w.fld 31 1 == 1#1 && w.fld 7 13 == 0#13) (.xrecv (w.fld 20 5) (w.fld 0 4))
  | _ => .error .unassignedMinor

/-- Major 0x27. -/
noncomputable def decodeSync (w : Word) : Except DecodeError Instr :=
  match (w.fld 3 3).toNat with
  | 0 => 
      match (w.fld 10 1).toNat with
      | 0 => want (w.fld 31 1 == 1#1 && w.fld 11 14 == 0#14 && w.fld 6 4 == 0#4) (.bar (w.fld 0 3))
      | _ => want (w.fld 31 1 == 1#1 && w.fld 11 14 == 0#14 && w.fld 6 4 == 0#4 && w.fld 0 3 == 0#3) (.barDomain)
  | 1 => want (w.fld 31 1 == 1#1 && w.fld 6 19 == 0#19 && w.fld 0 3 == 0#3) (.sstep)
  | 2 => want (w.fld 31 1 == 1#1 && w.fld 20 5 == 0#5 && w.fld 10 5 == 0#5 && w.fld 6 1 == 0#1) (.tlwait (w.fld 15 5) (w.fld 7 3) (w.fld 0 3))
  | 3 => want (w.fld 31 1 == 1#1 && w.fld 6 14 == 0#14 && w.fld 2 1 == 0#1) (.feset (w.fld 20 5) (w.fld 0 2))
  | 4 => want (w.fld 31 1 == 1#1 && w.fld 6 14 == 0#14 && w.fld 2 1 == 0#1) (.feclr (w.fld 20 5) (w.fld 0 2))
  | 5 => want (w.fld 31 1 == 1#1 && w.fld 12 13 == 0#13 && w.fld 6 4 == 0#4 && w.fld 2 1 == 0#1) (.fewait (w.fld 11 1) (w.fld 10 1) (w.fld 0 2))
  | 6 => want (w.fld 31 1 == 1#1 && w.fld 10 10 == 0#10 && w.fld 6 1 == 0#1 && w.fld 0 3 == 0#3) (.tladv (w.fld 20 5) (w.fld 7 3))
  | _ => .error .unassignedMinor

/-- Major 0x28. -/
noncomputable def decodeCopy (w : Word) : Except DecodeError Instr :=
  match (w.fld 4 3).toNat with
  | 0 => want (w.fld 31 1 == 1#1) (.cpy (w.fld 20 5) (w.fld 15 5) (w.fld 10 5) (w.fld 7 3) (w.fld 2 2) (w.fld 0 2))
  | 1 => want (w.fld 31 1 == 1#1 && w.fld 10 1 == 0#1) (.cpy2d (w.fld 20 5) (w.fld 15 5) (w.fld 11 4) (w.fld 7 3) (w.fld 2 2) (w.fld 0 2))
  | 2 => want (w.fld 31 1 == 1#1 && w.fld 2 2 == 0#2) (.cpyga (w.fld 20 5) (w.fld 15 5) (w.fld 10 5) (w.fld 7 3) (w.fld 0 2))
  | 3 => want (w.fld 31 1 == 1#1 && w.fld 2 2 == 0#2) (.cpysc (w.fld 20 5) (w.fld 15 5) (w.fld 10 5) (w.fld 7 3) (w.fld 0 2))
  | 4 => want (w.fld 31 1 == 1#1 && w.fld 22 3 == 0#3 && w.fld 3 1 == 0#1) (.cpyfi (w.fld 20 2) (w.fld 15 5) (w.fld 10 5) (w.fld 7 3) (w.fld 2 1) (w.fld 0 2))
  | 5 => want (w.fld 31 1 == 1#1 && w.fld 3 1 == 0#1) (.cpycv (w.fld 20 5) (w.fld 15 5) (w.fld 10 5) (w.fld 7 3) (w.fld 2 1) (w.fld 0 2))
  | 6 => want (w.fld 31 1 == 1#1 && w.fld 20 5 == 0#5 && w.fld 7 3 == 0#3 && w.fld 2 2 == 0#2) (.pref (w.fld 15 5) (w.fld 10 5) (w.fld 0 2))
  | _ => .error .unassignedMinor

/-- Major 0x2A. -/
noncomputable def decodePrivLocal (w : Word) : Except DecodeError Instr :=
  match (w.fld 7 1).toNat with
  | 0 => want (w.fld 31 1 == 1#1 && w.fld 10 5 == 0#5 && w.fld 0 7 == 0#7) (.ldloc (w.fld 20 5) (w.fld 15 5) (w.fld 8 2))
  | _ => want (w.fld 31 1 == 1#1 && w.fld 10 5 == 0#5 && w.fld 0 7 == 0#7) (.stloc (w.fld 20 5) (w.fld 15 5) (w.fld 8 2))

/-- Major 0x2B. -/
noncomputable def decodePrivControl (w : Word) : Except DecodeError Instr :=
  match (w.fld 7 1).toNat with
  | 0 => want (w.fld 31 1 == 1#1 && w.fld 8 7 == 3#7 && w.fld 0 7 == 0#7) (.ldctl (w.fld 20 5) (w.fld 15 5))
  | _ => want (w.fld 31 1 == 1#1 && w.fld 8 7 == 3#7 && w.fld 0 7 == 0#7) (.stctl (w.fld 20 5) (w.fld 15 5))

/-- Major 0x2C. -/
noncomputable def decodePrivVirtual (w : Word) : Except DecodeError Instr :=
  match (w.fld 7 1).toNat with
  | 0 => want (w.fld 31 1 == 1#1 && w.fld 0 6 == 0#6) (.ldvir (w.fld 20 5) (w.fld 15 5) (w.fld 10 5) (w.fld 8 2) (w.fld 6 1))
  | _ => want (w.fld 31 1 == 1#1 && w.fld 0 6 == 0#6) (.stvir (w.fld 20 5) (w.fld 15 5) (w.fld 10 5) (w.fld 8 2) (w.fld 6 1))

/-- Major 0x2D. -/
noncomputable def decodePrivPhysical (w : Word) : Except DecodeError Instr :=
  match (w.fld 7 1).toNat with
  | 0 => want (w.fld 31 1 == 1#1 && w.fld 10 5 == 0#5 && w.fld 0 7 == 0#7) (.ldphy (w.fld 20 5) (w.fld 15 5) (w.fld 8 2))
  | _ => want (w.fld 31 1 == 1#1 && w.fld 10 5 == 0#5 && w.fld 0 7 == 0#7) (.stphy (w.fld 20 5) (w.fld 15 5) (w.fld 8 2))

/-- Major 0x2E. -/
noncomputable def decodePrivRemote (w : Word) : Except DecodeError Instr :=
  match (w.fld 7 1).toNat with
  | 0 => want (w.fld 31 1 == 1#1 && w.fld 0 7 == 0#7) (.ldrem (w.fld 20 5) (w.fld 15 5) (w.fld 10 5) (w.fld 8 2))
  | _ => want (w.fld 31 1 == 1#1 && w.fld 0 7 == 0#7) (.strem (w.fld 20 5) (w.fld 15 5) (w.fld 10 5) (w.fld 8 2))

/-- Major 0x2F. -/
noncomputable def decodePrivHost (w : Word) : Except DecodeError Instr :=
  match (w.fld 7 1).toNat with
  | 0 => want (w.fld 31 1 == 1#1 && w.fld 10 5 == 0#5 && w.fld 0 7 == 0#7) (.ldhst (w.fld 20 5) (w.fld 15 5) (w.fld 8 2))
  | _ => want (w.fld 31 1 == 1#1 && w.fld 10 5 == 0#5 && w.fld 0 7 == 0#7) (.sthst (w.fld 20 5) (w.fld 15 5) (w.fld 8 2))

/-- Major 0x30. -/
noncomputable def decodeVecFloat (w : Word) : Except DecodeError Instr :=
  match (w.fld 0 4).toNat with
  | 0 => want (w.fld 31 1 == 0#1) (.vadd (w.fld 18 7) (w.fld 11 7) (w.fld 4 7))
  | 1 => want (w.fld 31 1 == 0#1) (.vsub (w.fld 18 7) (w.fld 11 7) (w.fld 4 7))
  | 2 => want (w.fld 31 1 == 0#1) (.vmul (w.fld 18 7) (w.fld 11 7) (w.fld 4 7))
  | 3 => want (w.fld 31 1 == 0#1) (.vfma (w.fld 18 7) (w.fld 11 7) (w.fld 4 7))
  | 4 => want (w.fld 31 1 == 0#1) (.vfms (w.fld 18 7) (w.fld 11 7) (w.fld 4 7))
  | 5 => want (w.fld 31 1 == 0#1) (.vfnma (w.fld 18 7) (w.fld 11 7) (w.fld 4 7))
  | 6 => want (w.fld 31 1 == 0#1) (.vmin (w.fld 18 7) (w.fld 11 7) (w.fld 4 7))
  | 7 => want (w.fld 31 1 == 0#1) (.vmax (w.fld 18 7) (w.fld 11 7) (w.fld 4 7))
  | 8 => want (w.fld 31 1 == 0#1 && w.fld 4 7 == 0#7) (.vabs (w.fld 18 7) (w.fld 11 7))
  | 9 => want (w.fld 31 1 == 0#1 && w.fld 4 7 == 0#7) (.vneg (w.fld 18 7) (w.fld 11 7))
  | 10 => want (w.fld 31 1 == 0#1) (.vcps (w.fld 18 7) (w.fld 11 7) (w.fld 4 7))
  | _ => .error .unassignedMinor

/-- Major 0x31. -/
noncomputable def decodeVecSpecial (w : Word) : Except DecodeError Instr :=
  match (w.fld 0 3).toNat with
  | 0 => want (w.fld 31 1 == 0#1 && w.fld 3 1 == 0#1) (.vdiv (w.fld 18 7) (w.fld 11 7) (w.fld 4 7))
  | 1 => want (w.fld 31 1 == 0#1 && w.fld 3 8 == 0#8) (.vsqrt (w.fld 18 7) (w.fld 11 7))
  | 2 => want (w.fld 31 1 == 0#1 && w.fld 3 8 == 0#8) (.vrsq (w.fld 18 7) (w.fld 11 7))
  | 3 => want (w.fld 31 1 == 0#1 && w.fld 3 8 == 0#8) (.vrcp (w.fld 18 7) (w.fld 11 7))
  | 4 => want (w.fld 31 1 == 0#1 && w.fld 3 8 == 0#8) (.vexp2 (w.fld 18 7) (w.fld 11 7))
  | 5 => want (w.fld 31 1 == 0#1 && w.fld 3 8 == 0#8) (.vlog2 (w.fld 18 7) (w.fld 11 7))
  | 6 => want (w.fld 31 1 == 0#1 && w.fld 3 8 == 0#8) (.vtanh (w.fld 18 7) (w.fld 11 7))
  | _ => want (w.fld 31 1 == 0#1 && w.fld 3 8 == 0#8) (.vsig (w.fld 18 7) (w.fld 11 7))

/-- Major 0x32. -/
noncomputable def decodeVecInt (w : Word) : Except DecodeError Instr :=
  match (w.fld 0 3).toNat with
  | 0 => want (w.fld 31 1 == 0#1 && w.fld 3 1 == 0#1) (.viadd (w.fld 18 7) (w.fld 11 7) (w.fld 4 7))
  | 1 => want (w.fld 31 1 == 0#1 && w.fld 3 1 == 0#1) (.visub (w.fld 18 7) (w.fld 11 7) (w.fld 4 7))
  | 2 => want (w.fld 31 1 == 0#1 && w.fld 3 1 == 0#1) (.vimul (w.fld 18 7) (w.fld 11 7) (w.fld 4 7))
  | 3 => want (w.fld 31 1 == 0#1) (.vimulh (w.fld 18 7) (w.fld 11 7) (w.fld 4 7) (w.fld 3 1))
  | 4 => want (w.fld 31 1 == 0#1) (.vimin (w.fld 18 7) (w.fld 11 7) (w.fld 4 7) (w.fld 3 1))
  | 5 => want (w.fld 31 1 == 0#1) (.vimax (w.fld 18 7) (w.fld 11 7) (w.fld 4 7) (w.fld 3 1))
  | 6 => want (w.fld 31 1 == 0#1 && w.fld 3 8 == 0#8) (.viabs (w.fld 18 7) (w.fld 11 7))
  | _ => .error .unassignedMinor

/-- Major 0x33. -/
noncomputable def decodeVecLogic (w : Word) : Except DecodeError Instr :=
  match (w.fld 0 4).toNat with
  | 0 => want (w.fld 31 1 == 0#1) (.vand (w.fld 18 7) (w.fld 11 7) (w.fld 4 7))
  | 1 => want (w.fld 31 1 == 0#1) (.vor (w.fld 18 7) (w.fld 11 7) (w.fld 4 7))
  | 2 => want (w.fld 31 1 == 0#1) (.vxor (w.fld 18 7) (w.fld 11 7) (w.fld 4 7))
  | 3 => want (w.fld 31 1 == 0#1) (.vandn (w.fld 18 7) (w.fld 11 7) (w.fld 4 7))
  | 4 => want (w.fld 31 1 == 0#1) (.vshl (w.fld 18 7) (w.fld 11 7) (w.fld 4 7))
  | 5 => want (w.fld 31 1 == 0#1) (.vshr (w.fld 18 7) (w.fld 11 7) (w.fld 4 7))
  | 6 => want (w.fld 31 1 == 0#1) (.vsra (w.fld 18 7) (w.fld 11 7) (w.fld 4 7))
  | 7 => want (w.fld 31 1 == 0#1 && w.fld 4 7 == 0#7) (.vpopc (w.fld 18 7) (w.fld 11 7))
  | 8 => want (w.fld 31 1 == 0#1) (.vclmul (w.fld 18 7) (w.fld 11 7) (w.fld 4 7))
  | _ => .error .unassignedMinor

/-- Major 0x34. -/
noncomputable def decodeVecCompare (w : Word) : Except DecodeError Instr :=
  match (w.fld 0 4).toNat with
  | 0 => want (w.fld 31 1 == 0#1) (.vcmpF32Eq (w.fld 18 7) (w.fld 11 7) (w.fld 4 7))
  | 1 => want (w.fld 31 1 == 0#1) (.vcmpF32Lt (w.fld 18 7) (w.fld 11 7) (w.fld 4 7))
  | 2 => want (w.fld 31 1 == 0#1) (.vcmpF32Le (w.fld 18 7) (w.fld 11 7) (w.fld 4 7))
  | 3 => want (w.fld 31 1 == 0#1) (.vcmpF32Un (w.fld 18 7) (w.fld 11 7) (w.fld 4 7))
  | 4 => want (w.fld 31 1 == 0#1) (.vcmpI32Eq (w.fld 18 7) (w.fld 11 7) (w.fld 4 7))
  | 5 => want (w.fld 31 1 == 0#1) (.vcmpI32Lt (w.fld 18 7) (w.fld 11 7) (w.fld 4 7))
  | 6 => want (w.fld 31 1 == 0#1) (.vcmpI32Le (w.fld 18 7) (w.fld 11 7) (w.fld 4 7))
  | 7 => want (w.fld 31 1 == 0#1) (.vcmpN32Lt (w.fld 18 7) (w.fld 11 7) (w.fld 4 7))
  | 8 => want (w.fld 31 1 == 0#1) (.vcmpN32Le (w.fld 18 7) (w.fld 11 7) (w.fld 4 7))
  | 9 => want (w.fld 31 1 == 0#1) (.vsel (w.fld 18 7) (w.fld 11 7) (w.fld 4 7))
  | 10 => 
      match (w.fld 4 1).toNat with
      | 0 => want (w.fld 31 1 == 0#1 && w.fld 16 2 == 0#2 && w.fld 5 6 == 0#6) (.vmskExpand (w.fld 18 7) (w.fld 11 5))
      | _ => want (w.fld 31 1 == 0#1 && w.fld 23 2 == 0#2 && w.fld 5 6 == 0#6) (.vmskPack (w.fld 18 5) (w.fld 11 7))
  | _ => .error .unassignedMinor

/-- Major 0x35. -/
noncomputable def decodeVecConvert (w : Word) : Except DecodeError Instr :=
  match (w.fld 0 2).toNat with
  | 0 => want (w.fld 31 1 == 0#1 && w.fld 7 3 == 0#3 && w.fld 2 2 == 0#2) (.vcvt (w.fld 18 7) (w.fld 11 7) (w.fld 10 1) (w.fld 4 3))
  | 1 => want (w.fld 31 1 == 0#1 && w.fld 2 2 == 0#2) (.vqnt (w.fld 18 7) (w.fld 11 7) (w.fld 7 4) (w.fld 4 3))
  | 2 => want (w.fld 31 1 == 0#1 && w.fld 2 2 == 0#2) (.vdqnt (w.fld 18 7) (w.fld 11 7) (w.fld 7 4) (w.fld 4 3))
  | _ => want (w.fld 31 1 == 0#1 && w.fld 6 5 == 0#5 && w.fld 2 2 == 0#2) (.vamax (w.fld 18 7) (w.fld 11 7) (w.fld 4 2))

/-- Major 0x36. -/
noncomputable def decodeVecPermute (w : Word) : Except DecodeError Instr :=
  match (w.fld 0 3).toNat with
  | 0 => want (w.fld 31 1 == 0#1 && w.fld 3 1 == 0#1) (.vshuf (w.fld 18 7) (w.fld 11 7) (w.fld 4 7))
  | 1 => want (w.fld 31 1 == 0#1 && w.fld 10 1 == 0#1 && w.fld 3 1 == 0#1) (.vrot (w.fld 18 7) (w.fld 11 7) (w.fld 4 6))
  | 2 => want (w.fld 31 1 == 0#1 && w.fld 6 5 == 0#5 && w.fld 3 1 == 0#1) (.vredsum (w.fld 18 7) (w.fld 11 7) (w.fld 4 2))
  | 3 => want (w.fld 31 1 == 0#1 && w.fld 6 5 == 0#5 && w.fld 3 1 == 0#1) (.vredmax (w.fld 18 7) (w.fld 11 7) (w.fld 4 2))
  | 4 => want (w.fld 31 1 == 0#1 && w.fld 6 5 == 0#5 && w.fld 3 1 == 0#1) (.vredmin (w.fld 18 7) (w.fld 11 7) (w.fld 4 2))
  | 5 => want (w.fld 31 1 == 0#1 && w.fld 6 5 == 0#5 && w.fld 3 1 == 0#1) (.vscan (w.fld 18 7) (w.fld 11 7) (w.fld 4 2))
  | 6 => want (w.fld 31 1 == 0#1 && w.fld 18 4 == 0#4 && w.fld 3 12 == 0#12) (.vxpose (w.fld 22 3) (w.fld 15 3))
  | _ => .error .unassignedMinor

/-- Major 0x37. -/
noncomputable def decodeVecMove (w : Word) : Except DecodeError Instr :=
  match (w.fld 0 3).toNat with
  | 0 => want (w.fld 31 1 == 0#1 && w.fld 3 8 == 0#8) (.vcpy (w.fld 18 7) (w.fld 11 7))
  | 1 => want (w.fld 31 1 == 0#1 && w.fld 3 15 == 0#15) (.vzero (w.fld 18 7))
  | 2 => want (w.fld 31 1 == 0#1 && w.fld 16 2 == 0#2 && w.fld 6 5 == 0#5 && w.fld 3 1 == 0#1) (.vbcast (w.fld 18 7) (w.fld 11 5) (w.fld 4 2))
  | 3 => want (w.fld 31 1 == 0#1 && w.fld 23 2 == 0#2 && w.fld 10 1 == 0#1 && w.fld 3 1 == 0#1) (.vext (w.fld 18 5) (w.fld 11 7) (w.fld 4 6))
  | 4 => want (w.fld 31 1 == 0#1 && w.fld 16 2 == 0#2 && w.fld 10 1 == 0#1 && w.fld 3 1 == 0#1) (.vins (w.fld 18 7) (w.fld 11 5) (w.fld 4 6))
  | 5 => want (w.fld 31 1 == 0#1 && w.fld 16 2 == 0#2 && w.fld 3 1 == 0#1) (.viota (w.fld 18 7) (w.fld 11 5) (w.fld 4 7))
  | 6 => want (w.fld 31 1 == 0#1 && w.fld 19 6 == 0#6 && w.fld 3 8 == 0#8) (.vsq (w.fld 18 1) (w.fld 11 7))
  | _ => .error .unassignedMinor

/-- Major 0x38. -/
noncomputable def decodeVecFloatQ (w : Word) : Except DecodeError Instr :=
  match (w.fld 0 4).toNat with
  | 0 => want (w.fld 31 1 == 0#1 && w.fld 5 1 == 0#1) (.vaddQ (w.fld 18 7) (w.fld 11 7) (w.fld 6 5) (w.fld 4 1))
  | 1 => want (w.fld 31 1 == 0#1 && w.fld 5 1 == 0#1) (.vsubQ (w.fld 18 7) (w.fld 11 7) (w.fld 6 5) (w.fld 4 1))
  | 2 => want (w.fld 31 1 == 0#1 && w.fld 5 1 == 0#1) (.vmulQ (w.fld 18 7) (w.fld 11 7) (w.fld 6 5) (w.fld 4 1))
  | 3 => want (w.fld 31 1 == 0#1 && w.fld 4 2 == 0#2) (.vfmaQ (w.fld 18 7) (w.fld 11 7) (w.fld 6 5))
  | 4 => want (w.fld 31 1 == 0#1 && w.fld 4 2 == 0#2) (.vfmsQ (w.fld 18 7) (w.fld 11 7) (w.fld 6 5))
  | 5 => want (w.fld 31 1 == 0#1 && w.fld 4 2 == 0#2) (.vfnmaQ (w.fld 18 7) (w.fld 11 7) (w.fld 6 5))
  | 6 => want (w.fld 31 1 == 0#1 && w.fld 5 1 == 0#1) (.vminQ (w.fld 18 7) (w.fld 11 7) (w.fld 6 5) (w.fld 4 1))
  | 7 => want (w.fld 31 1 == 0#1 && w.fld 5 1 == 0#1) (.vmaxQ (w.fld 18 7) (w.fld 11 7) (w.fld 6 5) (w.fld 4 1))
  | 8 => want (w.fld 31 1 == 0#1 && w.fld 11 7 == 0#7 && w.fld 4 2 == 0#2) (.vabsQ (w.fld 18 7) (w.fld 6 5))
  | 9 => want (w.fld 31 1 == 0#1 && w.fld 11 7 == 0#7 && w.fld 4 2 == 0#2) (.vnegQ (w.fld 18 7) (w.fld 6 5))
  | 10 => want (w.fld 31 1 == 0#1 && w.fld 5 1 == 0#1) (.vcpsQ (w.fld 18 7) (w.fld 11 7) (w.fld 6 5) (w.fld 4 1))
  | _ => .error .unassignedMinor

/-- Major 0x39. -/
noncomputable def decodeVecIntQ (w : Word) : Except DecodeError Instr :=
  match (w.fld 0 3).toNat with
  | 0 => want (w.fld 31 1 == 0#1 && w.fld 5 1 == 0#1 && w.fld 3 1 == 0#1) (.viaddQ (w.fld 18 7) (w.fld 11 7) (w.fld 6 5) (w.fld 4 1))
  | 1 => want (w.fld 31 1 == 0#1 && w.fld 5 1 == 0#1 && w.fld 3 1 == 0#1) (.visubQ (w.fld 18 7) (w.fld 11 7) (w.fld 6 5) (w.fld 4 1))
  | 2 => want (w.fld 31 1 == 0#1 && w.fld 5 1 == 0#1 && w.fld 3 1 == 0#1) (.vimulQ (w.fld 18 7) (w.fld 11 7) (w.fld 6 5) (w.fld 4 1))
  | 3 => want (w.fld 31 1 == 0#1 && w.fld 5 1 == 0#1) (.vimulhQ (w.fld 18 7) (w.fld 11 7) (w.fld 6 5) (w.fld 4 1) (w.fld 3 1))
  | 4 => want (w.fld 31 1 == 0#1 && w.fld 5 1 == 0#1) (.viminQ (w.fld 18 7) (w.fld 11 7) (w.fld 6 5) (w.fld 4 1) (w.fld 3 1))
  | 5 => want (w.fld 31 1 == 0#1 && w.fld 5 1 == 0#1) (.vimaxQ (w.fld 18 7) (w.fld 11 7) (w.fld 6 5) (w.fld 4 1) (w.fld 3 1))
  | 6 => want (w.fld 31 1 == 0#1 && w.fld 11 7 == 0#7 && w.fld 3 3 == 0#3) (.viabsQ (w.fld 18 7) (w.fld 6 5))
  | _ => .error .unassignedMinor

/-- Major 0x3A. -/
noncomputable def decodeVecLogicQ (w : Word) : Except DecodeError Instr :=
  match (w.fld 0 4).toNat with
  | 0 => want (w.fld 31 1 == 0#1 && w.fld 5 1 == 0#1) (.vandQ (w.fld 18 7) (w.fld 11 7) (w.fld 6 5) (w.fld 4 1))
  | 1 => want (w.fld 31 1 == 0#1 && w.fld 5 1 == 0#1) (.vorQ (w.fld 18 7) (w.fld 11 7) (w.fld 6 5) (w.fld 4 1))
  | 2 => want (w.fld 31 1 == 0#1 && w.fld 5 1 == 0#1) (.vxorQ (w.fld 18 7) (w.fld 11 7) (w.fld 6 5) (w.fld 4 1))
  | 3 => want (w.fld 31 1 == 0#1 && w.fld 5 1 == 0#1) (.vandnQ (w.fld 18 7) (w.fld 11 7) (w.fld 6 5) (w.fld 4 1))
  | 4 => want (w.fld 31 1 == 0#1 && w.fld 5 1 == 0#1) (.vshlQ (w.fld 18 7) (w.fld 11 7) (w.fld 6 5) (w.fld 4 1))
  | 5 => want (w.fld 31 1 == 0#1 && w.fld 5 1 == 0#1) (.vshrQ (w.fld 18 7) (w.fld 11 7) (w.fld 6 5) (w.fld 4 1))
  | 6 => want (w.fld 31 1 == 0#1 && w.fld 5 1 == 0#1) (.vsraQ (w.fld 18 7) (w.fld 11 7) (w.fld 6 5) (w.fld 4 1))
  | 7 => want (w.fld 31 1 == 0#1 && w.fld 11 7 == 0#7 && w.fld 4 2 == 0#2) (.vpopcQ (w.fld 18 7) (w.fld 6 5))
  | 8 => want (w.fld 31 1 == 0#1 && w.fld 5 1 == 0#1) (.vclmulQ (w.fld 18 7) (w.fld 11 7) (w.fld 6 5) (w.fld 4 1))
  | _ => .error .unassignedMinor

/-- Major 0x3B. -/
noncomputable def decodeVecConvertQ (w : Word) : Except DecodeError Instr :=
  match (w.fld 0 2).toNat with
  | 0 => want (w.fld 31 1 == 0#1 && w.fld 14 3 == 0#3 && w.fld 2 4 == 0#4) (.vcvtQ (w.fld 18 7) (w.fld 17 1) (w.fld 11 3) (w.fld 6 5))
  | 1 => want (w.fld 31 1 == 0#1 && w.fld 2 4 == 0#4) (.vqntQ (w.fld 18 7) (w.fld 14 4) (w.fld 11 3) (w.fld 6 5))
  | 2 => want (w.fld 31 1 == 0#1 && w.fld 2 4 == 0#4) (.vdqntQ (w.fld 18 7) (w.fld 14 4) (w.fld 11 3) (w.fld 6 5))
  | _ => want (w.fld 31 1 == 0#1 && w.fld 13 5 == 0#5 && w.fld 2 4 == 0#4) (.vamaxQ (w.fld 18 7) (w.fld 11 2) (w.fld 6 5))

/-- Major 0x3C. -/
noncomputable def decodeMatrix (w : Word) : Except DecodeError Instr :=
  match (w.fld 12 2).toNat with
  | 0 => want (w.fld 31 1 == 0#1 && w.fld 14 2 == 0#2 && w.fld 4 8 == 0#8) (.mma (w.fld 23 2) (w.fld 20 3) (w.fld 18 2) (w.fld 16 2) (w.fld 3 1) (w.fld 0 3))
  | 1 => want (w.fld 31 1 == 0#1 && w.fld 23 1 == 0#1 && w.fld 14 2 == 0#2 && w.fld 4 8 == 0#8) (.mma64 (w.fld 24 1) (w.fld 20 3) (w.fld 18 2) (w.fld 16 2) (w.fld 3 1) (w.fld 0 3))
  | 2 => want (w.fld 31 1 == 0#1 && w.fld 23 1 == 0#1 && w.fld 14 2 == 0#2 && w.fld 4 8 == 0#8) (.mmac (w.fld 24 1) (w.fld 20 3) (w.fld 18 2) (w.fld 16 2) (w.fld 3 1) (w.fld 0 3))
  | _ => want (w.fld 31 1 == 0#1 && w.fld 14 2 == 0#2 && w.fld 6 6 == 0#6) (.mmas (w.fld 23 2) (w.fld 20 3) (w.fld 18 2) (w.fld 16 2) (w.fld 4 2) (w.fld 3 1) (w.fld 0 3))

/-- Major 0x3D. -/
noncomputable def decodeMatrixMove (w : Word) : Except DecodeError Instr :=
  match (w.fld 12 3).toNat with
  | 0 => want (w.fld 31 1 == 0#1 && w.fld 15 10 == 0#10 && w.fld 0 12 == 0#12) (.gang)
  | 1 => want (w.fld 31 1 == 0#1 && w.fld 23 2 == 0#2 && w.fld 15 5 == 0#5 && w.fld 10 2 == 0#2) (.mshp (w.fld 20 3) (w.fld 5 5) (w.fld 0 5))
  | 2 => want (w.fld 31 1 == 0#1 && w.fld 15 8 == 0#8 && w.fld 0 12 == 0#12) (.mzero (w.fld 23 2))
  | 3 => want (w.fld 31 1 == 0#1 && w.fld 15 8 == 0#8 && w.fld 7 5 == 0#5 && w.fld 0 4 == 0#4) (.mlda (w.fld 23 2) (w.fld 4 3))
  | 4 => want (w.fld 31 1 == 0#1 && w.fld 15 8 == 0#8 && w.fld 7 5 == 0#5 && w.fld 0 4 == 0#4) (.msta (w.fld 23 2) (w.fld 4 3))
  | 5 => want (w.fld 31 1 == 0#1 && w.fld 15 5 == 0#5 && w.fld 0 4 == 0#4) (.mepi (w.fld 23 2) (w.fld 20 3) (w.fld 7 5) (w.fld 4 3))
  | 6 => want (w.fld 31 1 == 0#1 && w.fld 15 10 == 0#10 && w.fld 9 3 == 0#3) (.mdld (w.fld 7 2) (w.fld 0 7))
  | _ => want (w.fld 31 1 == 0#1 && w.fld 20 5 == 0#5 && w.fld 15 3 == 0#3 && w.fld 6 6 == 0#6) (.mfst (w.fld 18 2) (w.fld 5 1) (w.fld 0 5))

/-- Major 0x3E. -/
noncomputable def decodeSolver (w : Word) : Except DecodeError Instr :=
  match (w.fld 4 3).toNat with
  | 0 => want (w.fld 31 1 == 0#1 && w.fld 7 13 == 0#13 && w.fld 0 4 == 0#4) (.qpset (w.fld 20 5))
  | 1 => want (w.fld 31 1 == 0#1 && w.fld 7 18 == 0#18 && w.fld 0 4 == 0#4) (.qpfac)
  | 2 => want (w.fld 31 1 == 0#1 && w.fld 7 18 == 0#18 && w.fld 0 4 == 0#4) (.qpiter)
  | 3 => want (w.fld 31 1 == 0#1 && w.fld 7 8 == 0#8 && w.fld 0 4 == 0#4) (.qpshift (w.fld 20 5) (w.fld 15 5))
  | 4 => want (w.fld 31 1 == 0#1 && w.fld 7 18 == 0#18 && w.fld 0 4 == 0#4) (.qpres)
  | 5 => want (w.fld 31 1 == 0#1 && w.fld 15 10 == 0#10 && w.fld 7 3 == 0#3 && w.fld 0 4 == 0#4) (.qpstat (w.fld 10 5))
  | 6 => want (w.fld 31 1 == 0#1 && w.fld 7 3 == 0#3 && w.fld 0 4 == 0#4) (.fchol (w.fld 20 5) (w.fld 15 5) (w.fld 10 5))
  | _ => want (w.fld 31 1 == 0#1 && w.fld 7 3 == 0#3 && w.fld 0 4 == 0#4) (.ftrs (w.fld 20 5) (w.fld 15 5) (w.fld 10 5))

/-- The instruction a word decodes to (R310, R314). -/
noncomputable def decode (w : Word) : Except DecodeError Instr :=
  match (w.fld 25 6).toNat with
  | 0x01 => decodeSystem w
  | 0x02 => decodeInteger w
  | 0x03 => decodeMultiply w
  | 0x04 => .ok (.addi (w.fld 31 1) (w.fld 20 5) (w.fld 15 5) (w.fld 0 15))
  | 0x05 => .ok (.andi (w.fld 31 1) (w.fld 20 5) (w.fld 15 5) (w.fld 0 15))
  | 0x06 => .ok (.ori (w.fld 31 1) (w.fld 20 5) (w.fld 15 5) (w.fld 0 15))
  | 0x07 => .ok (.xori (w.fld 31 1) (w.fld 20 5) (w.fld 15 5) (w.fld 0 15))
  | 0x08 => decodeShiftImm w
  | 0x09 => decodeSetLessImm w
  | 0x0A => .ok (.lim (w.fld 31 1) (w.fld 20 5) (w.fld 0 20))
  | 0x0B => .ok (.addpc (w.fld 31 1) (w.fld 20 5) (w.fld 0 20))
  | 0x0C => decodeScalarFloat w
  | 0x0D => decodeBitField w
  | 0x10 => .ok (.beq (w.fld 31 1) (w.fld 20 5) (w.fld 15 5) (w.fld 0 15))
  | 0x11 => .ok (.bne (w.fld 31 1) (w.fld 20 5) (w.fld 15 5) (w.fld 0 15))
  | 0x12 => .ok (.blt (w.fld 31 1) (w.fld 20 5) (w.fld 15 5) (w.fld 0 15))
  | 0x13 => .ok (.bge (w.fld 31 1) (w.fld 20 5) (w.fld 15 5) (w.fld 0 15))
  | 0x14 => .ok (.bltu (w.fld 31 1) (w.fld 20 5) (w.fld 15 5) (w.fld 0 15))
  | 0x15 => .ok (.bgeu (w.fld 31 1) (w.fld 20 5) (w.fld 15 5) (w.fld 0 15))
  | 0x16 => .ok (.jal (w.fld 31 1) (w.fld 20 5) (w.fld 0 20))
  | 0x17 => .ok (.jalr (w.fld 31 1) (w.fld 20 5) (w.fld 15 5) (w.fld 0 15))
  | 0x18 => decodeRepeat w
  | 0x19 => want (w.fld 31 1 == 1#1 && w.fld 0 13 == 0#13) (.mod (w.fld 22 3) (w.fld 19 3) (w.fld 16 3) (w.fld 14 2) (w.fld 13 1))
  | 0x1A => want (w.fld 31 1 == 1#1) (.ldl (w.fld 20 5) (w.fld 15 5) (w.fld 13 2) (w.fld 0 13))
  | 0x1B => want (w.fld 31 1 == 1#1) (.stl (w.fld 20 5) (w.fld 15 5) (w.fld 13 2) (w.fld 0 13))
  | 0x1C => want (w.fld 31 1 == 1#1) (.ld (w.fld 20 5) (w.fld 15 5) (w.fld 13 2) (w.fld 0 13))
  | 0x1D => want (w.fld 31 1 == 1#1) (.st (w.fld 20 5) (w.fld 15 5) (w.fld 13 2) (w.fld 0 13))
  | 0x1E => decodeRowLoad w
  | 0x1F => decodeRowStore w
  | 0x20 => decodeAtomic w
  | 0x21 => decodeOrdering w
  | 0x22 => decodeSliceQueue w
  | 0x23 => decodeChannel w
  | 0x24 => decodeStreamAcc w
  | 0x25 => decodeInLayer w
  | 0x26 => decodeExchange w
  | 0x27 => decodeSync w
  | 0x28 => decodeCopy w
  | 0x29 => want (w.fld 31 1 == 1#1 && w.fld 0 10 == 0#10) (.launch (w.fld 20 5) (w.fld 15 5) (w.fld 10 5))
  | 0x2A => decodePrivLocal w
  | 0x2B => decodePrivControl w
  | 0x2C => decodePrivVirtual w
  | 0x2D => decodePrivPhysical w
  | 0x2E => decodePrivRemote w
  | 0x2F => decodePrivHost w
  | 0x30 => decodeVecFloat w
  | 0x31 => decodeVecSpecial w
  | 0x32 => decodeVecInt w
  | 0x33 => decodeVecLogic w
  | 0x34 => decodeVecCompare w
  | 0x35 => decodeVecConvert w
  | 0x36 => decodeVecPermute w
  | 0x37 => decodeVecMove w
  | 0x38 => decodeVecFloatQ w
  | 0x39 => decodeVecIntQ w
  | 0x3A => decodeVecLogicQ w
  | 0x3B => decodeVecConvertQ w
  | 0x3C => decodeMatrix w
  | 0x3D => decodeMatrixMove w
  | 0x3E => decodeSolver w
  | _ => .error .reservedMajor

/-- The word of four bytes, the first at the lowest address (R6, R310). -/
def wordOfBytes (b0 b1 b2 b3 : Byte) : Word :=
  Word.at 0 b0 ||| Word.at 8 b1 ||| Word.at 16 b2 ||| Word.at 24 b3

/-- Decodes one instruction word from the front of a byte list. -/
noncomputable def decodeBytes : List Byte → Except DecodeError (Instr × List Byte)
  | b0 :: b1 :: b2 :: b3 :: rest => (decode (wordOfBytes b0 b1 b2 b3)).map (·, rest)
  | _ => .error .tooShort

/-- The four bytes of a word as the hardware stores them (R310). -/
def bytesOfWord (w : Word) : List Byte := [w.fld 0 8, w.fld 8 8, w.fld 16 8, w.fld 24 8]

/-- The instruction the decoder reads from a table row's bits. -/
noncomputable def decodeTableWord (_nbits w : Nat) : Option Instr :=
  match decodeBytes (bytesOfWord (BitVec.ofNat 32 w)) with
  | .ok (i, _) => some i
  | .error _ => none

/-- The word of an instruction; none for an event, which has no encoding. -/
def encode : Instr → Option Word
  | .add m d a b s => some (0x04000000#32 ||| Word.at 31 m ||| Word.at 20 d ||| Word.at 15 a ||| Word.at 10 b ||| Word.at 8 s)
  | .sub m d a b s => some (0x04000001#32 ||| Word.at 31 m ||| Word.at 20 d ||| Word.at 15 a ||| Word.at 10 b ||| Word.at 8 s)
  | .and m d a b s => some (0x04000002#32 ||| Word.at 31 m ||| Word.at 20 d ||| Word.at 15 a ||| Word.at 10 b ||| Word.at 8 s)
  | .or m d a b s => some (0x04000003#32 ||| Word.at 31 m ||| Word.at 20 d ||| Word.at 15 a ||| Word.at 10 b ||| Word.at 8 s)
  | .xor m d a b s => some (0x04000004#32 ||| Word.at 31 m ||| Word.at 20 d ||| Word.at 15 a ||| Word.at 10 b ||| Word.at 8 s)
  | .andn m d a b s => some (0x04000005#32 ||| Word.at 31 m ||| Word.at 20 d ||| Word.at 15 a ||| Word.at 10 b ||| Word.at 8 s)
  | .sll m d a b s => some (0x04000006#32 ||| Word.at 31 m ||| Word.at 20 d ||| Word.at 15 a ||| Word.at 10 b ||| Word.at 8 s)
  | .srl m d a b s => some (0x04000007#32 ||| Word.at 31 m ||| Word.at 20 d ||| Word.at 15 a ||| Word.at 10 b ||| Word.at 8 s)
  | .sra m d a b s => some (0x04000008#32 ||| Word.at 31 m ||| Word.at 20 d ||| Word.at 15 a ||| Word.at 10 b ||| Word.at 8 s)
  | .rol m d a b s => some (0x04000009#32 ||| Word.at 31 m ||| Word.at 20 d ||| Word.at 15 a ||| Word.at 10 b ||| Word.at 8 s)
  | .ror m d a b s => some (0x0400000A#32 ||| Word.at 31 m ||| Word.at 20 d ||| Word.at 15 a ||| Word.at 10 b ||| Word.at 8 s)
  | .slt m d a b s => some (0x0400000B#32 ||| Word.at 31 m ||| Word.at 20 d ||| Word.at 15 a ||| Word.at 10 b ||| Word.at 8 s)
  | .sltu m d a b s => some (0x0400000C#32 ||| Word.at 31 m ||| Word.at 20 d ||| Word.at 15 a ||| Word.at 10 b ||| Word.at 8 s)
  | .seq m d a b s => some (0x0400000D#32 ||| Word.at 31 m ||| Word.at 20 d ||| Word.at 15 a ||| Word.at 10 b ||| Word.at 8 s)
  | .min m d a b s => some (0x0400000E#32 ||| Word.at 31 m ||| Word.at 20 d ||| Word.at 15 a ||| Word.at 10 b ||| Word.at 8 s)
  | .max m d a b s => some (0x0400000F#32 ||| Word.at 31 m ||| Word.at 20 d ||| Word.at 15 a ||| Word.at 10 b ||| Word.at 8 s)
  | .minu m d a b s => some (0x04000010#32 ||| Word.at 31 m ||| Word.at 20 d ||| Word.at 15 a ||| Word.at 10 b ||| Word.at 8 s)
  | .maxu m d a b s => some (0x04000011#32 ||| Word.at 31 m ||| Word.at 20 d ||| Word.at 15 a ||| Word.at 10 b ||| Word.at 8 s)
  | .mul m d a b s => some (0x06000000#32 ||| Word.at 31 m ||| Word.at 20 d ||| Word.at 15 a ||| Word.at 10 b ||| Word.at 8 s)
  | .mulh m d a b s => some (0x06000001#32 ||| Word.at 31 m ||| Word.at 20 d ||| Word.at 15 a ||| Word.at 10 b ||| Word.at 8 s)
  | .mulhu m d a b s => some (0x06000002#32 ||| Word.at 31 m ||| Word.at 20 d ||| Word.at 15 a ||| Word.at 10 b ||| Word.at 8 s)
  | .madd m d a b s => some (0x06000003#32 ||| Word.at 31 m ||| Word.at 20 d ||| Word.at 15 a ||| Word.at 10 b ||| Word.at 8 s)
  | .div m d a b s => some (0x06000004#32 ||| Word.at 31 m ||| Word.at 20 d ||| Word.at 15 a ||| Word.at 10 b ||| Word.at 8 s)
  | .divu m d a b s => some (0x06000005#32 ||| Word.at 31 m ||| Word.at 20 d ||| Word.at 15 a ||| Word.at 10 b ||| Word.at 8 s)
  | .rem m d a b s => some (0x06000006#32 ||| Word.at 31 m ||| Word.at 20 d ||| Word.at 15 a ||| Word.at 10 b ||| Word.at 8 s)
  | .remu m d a b s => some (0x06000007#32 ||| Word.at 31 m ||| Word.at 20 d ||| Word.at 15 a ||| Word.at 10 b ||| Word.at 8 s)
  | .clz m d a s => some (0x06000008#32 ||| Word.at 31 m ||| Word.at 20 d ||| Word.at 15 a ||| Word.at 8 s)
  | .ctz m d a s => some (0x06000009#32 ||| Word.at 31 m ||| Word.at 20 d ||| Word.at 15 a ||| Word.at 8 s)
  | .popc m d a s => some (0x0600000A#32 ||| Word.at 31 m ||| Word.at 20 d ||| Word.at 15 a ||| Word.at 8 s)
  | .brev m d a s => some (0x0600000B#32 ||| Word.at 31 m ||| Word.at 20 d ||| Word.at 15 a ||| Word.at 8 s)
  | .bswap m d a s => some (0x0600000C#32 ||| Word.at 31 m ||| Word.at 20 d ||| Word.at 15 a ||| Word.at 8 s)
  | .addi m d a i => some (0x08000000#32 ||| Word.at 31 m ||| Word.at 20 d ||| Word.at 15 a ||| Word.at 0 i)
  | .andi m d a i => some (0x0A000000#32 ||| Word.at 31 m ||| Word.at 20 d ||| Word.at 15 a ||| Word.at 0 i)
  | .ori m d a i => some (0x0C000000#32 ||| Word.at 31 m ||| Word.at 20 d ||| Word.at 15 a ||| Word.at 0 i)
  | .xori m d a i => some (0x0E000000#32 ||| Word.at 31 m ||| Word.at 20 d ||| Word.at 15 a ||| Word.at 0 i)
  | .slli m d a s h => some (0x10000000#32 ||| Word.at 31 m ||| Word.at 20 d ||| Word.at 15 a ||| Word.at 6 s ||| Word.at 0 h)
  | .srli m d a s h => some (0x10001000#32 ||| Word.at 31 m ||| Word.at 20 d ||| Word.at 15 a ||| Word.at 6 s ||| Word.at 0 h)
  | .srai m d a s h => some (0x10002000#32 ||| Word.at 31 m ||| Word.at 20 d ||| Word.at 15 a ||| Word.at 6 s ||| Word.at 0 h)
  | .roli m d a s h => some (0x10003000#32 ||| Word.at 31 m ||| Word.at 20 d ||| Word.at 15 a ||| Word.at 6 s ||| Word.at 0 h)
  | .slti m d a i => some (0x12000000#32 ||| Word.at 31 m ||| Word.at 20 d ||| Word.at 15 a ||| Word.at 0 i)
  | .sltiu m d a i => some (0x12004000#32 ||| Word.at 31 m ||| Word.at 20 d ||| Word.at 15 a ||| Word.at 0 i)
  | .lim m d i => some (0x14000000#32 ||| Word.at 31 m ||| Word.at 20 d ||| Word.at 0 i)
  | .addpc m d i => some (0x16000000#32 ||| Word.at 31 m ||| Word.at 20 d ||| Word.at 0 i)
  | .fadd m d a b r f => some (0x18000000#32 ||| Word.at 31 m ||| Word.at 20 d ||| Word.at 15 a ||| Word.at 10 b ||| Word.at 7 r ||| Word.at 5 f)
  | .fsub m d a b r f => some (0x18000001#32 ||| Word.at 31 m ||| Word.at 20 d ||| Word.at 15 a ||| Word.at 10 b ||| Word.at 7 r ||| Word.at 5 f)
  | .fmul m d a b r f => some (0x18000002#32 ||| Word.at 31 m ||| Word.at 20 d ||| Word.at 15 a ||| Word.at 10 b ||| Word.at 7 r ||| Word.at 5 f)
  | .fma m d a b r f => some (0x18000003#32 ||| Word.at 31 m ||| Word.at 20 d ||| Word.at 15 a ||| Word.at 10 b ||| Word.at 7 r ||| Word.at 5 f)
  | .fdiv m d a b r f => some (0x18000004#32 ||| Word.at 31 m ||| Word.at 20 d ||| Word.at 15 a ||| Word.at 10 b ||| Word.at 7 r ||| Word.at 5 f)
  | .fsqrt m d a r f => some (0x18000005#32 ||| Word.at 31 m ||| Word.at 20 d ||| Word.at 15 a ||| Word.at 7 r ||| Word.at 5 f)
  | .fmin m d a b f => some (0x18000006#32 ||| Word.at 31 m ||| Word.at 20 d ||| Word.at 15 a ||| Word.at 10 b ||| Word.at 5 f)
  | .fmax m d a b f => some (0x18000007#32 ||| Word.at 31 m ||| Word.at 20 d ||| Word.at 15 a ||| Word.at 10 b ||| Word.at 5 f)
  | .fcmp m d a b c f => some (0x18000008#32 ||| Word.at 31 m ||| Word.at 20 d ||| Word.at 15 a ||| Word.at 10 b ||| Word.at 7 c ||| Word.at 5 f)
  | .fcvt m d a x t r f => some (0x18000009#32 ||| Word.at 31 m ||| Word.at 20 d ||| Word.at 15 a ||| Word.at 14 x ||| Word.at 10 t ||| Word.at 7 r ||| Word.at 5 f)
  | .fclass m d a f => some (0x1800000A#32 ||| Word.at 31 m ||| Word.at 20 d ||| Word.at 15 a ||| Word.at 5 f)
  | .fmv m d a f => some (0x1800000B#32 ||| Word.at 31 m ||| Word.at 20 d ||| Word.at 15 a ||| Word.at 5 f)
  | .clmul m d a b => some (0x1A000000#32 ||| Word.at 31 m ||| Word.at 20 d ||| Word.at 15 a ||| Word.at 10 b)
  | .clmulh m d a b => some (0x1A000080#32 ||| Word.at 31 m ||| Word.at 20 d ||| Word.at 15 a ||| Word.at 10 b)
  | .extr m d a b x => some (0x1A000100#32 ||| Word.at 31 m ||| Word.at 20 d ||| Word.at 15 a ||| Word.at 10 b ||| Word.at 6 x)
  | .ins m d a b => some (0x1A000180#32 ||| Word.at 31 m ||| Word.at 20 d ||| Word.at 15 a ||| Word.at 10 b)
  | .sel m d a b c => some (0x1A000200#32 ||| Word.at 31 m ||| Word.at 20 d ||| Word.at 15 a ||| Word.at 10 b ||| Word.at 0 c)
  | .beq m a b o => some (0x20000000#32 ||| Word.at 31 m ||| Word.at 20 a ||| Word.at 15 b ||| Word.at 0 o)
  | .bne m a b o => some (0x22000000#32 ||| Word.at 31 m ||| Word.at 20 a ||| Word.at 15 b ||| Word.at 0 o)
  | .blt m a b o => some (0x24000000#32 ||| Word.at 31 m ||| Word.at 20 a ||| Word.at 15 b ||| Word.at 0 o)
  | .bge m a b o => some (0x26000000#32 ||| Word.at 31 m ||| Word.at 20 a ||| Word.at 15 b ||| Word.at 0 o)
  | .bltu m a b o => some (0x28000000#32 ||| Word.at 31 m ||| Word.at 20 a ||| Word.at 15 b ||| Word.at 0 o)
  | .bgeu m a b o => some (0x2A000000#32 ||| Word.at 31 m ||| Word.at 20 a ||| Word.at 15 b ||| Word.at 0 o)
  | .jal m d i => some (0x2C000000#32 ||| Word.at 31 m ||| Word.at 20 d ||| Word.at 0 i)
  | .jalr m d a i => some (0x2E000000#32 ||| Word.at 31 m ||| Word.at 20 d ||| Word.at 15 a ||| Word.at 0 i)
  | .loop m c l => some (0x30000000#32 ||| Word.at 31 m ||| Word.at 19 c ||| Word.at 9 l)
  | .rpt n g c => some (0x31008000#32 ||| Word.at 20 n ||| Word.at 16 g ||| Word.at 0 c)
  | .rptRegisterCount n g c => some (0x31000000#32 ||| Word.at 20 n ||| Word.at 16 g ||| Word.at 10 c)
  | .mod o s p c n => some (0xB2000000#32 ||| Word.at 22 o ||| Word.at 19 s ||| Word.at 16 p ||| Word.at 14 c ||| Word.at 13 n)
  | .ldl d a s i => some (0xB4000000#32 ||| Word.at 20 d ||| Word.at 15 a ||| Word.at 13 s ||| Word.at 0 i)
  | .stl d a s i => some (0xB6000000#32 ||| Word.at 20 d ||| Word.at 15 a ||| Word.at 13 s ||| Word.at 0 i)
  | .ld d a s i => some (0xB8000000#32 ||| Word.at 20 d ||| Word.at 15 a ||| Word.at 13 s ||| Word.at 0 i)
  | .st d a s i => some (0xBA000000#32 ||| Word.at 20 d ||| Word.at 15 a ||| Word.at 13 s ||| Word.at 0 i)
  | .lqr a l q => some (0xBC000000#32 ||| Word.at 20 a ||| Word.at 4 l ||| Word.at 2 q)
  | .lqg a b l q s => some (0xBC000020#32 ||| Word.at 20 a ||| Word.at 15 b ||| Word.at 4 l ||| Word.at 2 q ||| Word.at 0 s)
  | .sqw a l q => some (0xBE000000#32 ||| Word.at 20 a ||| Word.at 4 l ||| Word.at 2 q)
  | .sqs a b l q s => some (0xBE000020#32 ||| Word.at 20 a ||| Word.at 15 b ||| Word.at 4 l ||| Word.at 2 q ||| Word.at 0 s)
  | .amoadd d a b s => some (0xC0000200#32 ||| Word.at 20 d ||| Word.at 15 a ||| Word.at 10 b ||| Word.at 8 s)
  | .amoand d a b s => some (0xC0000210#32 ||| Word.at 20 d ||| Word.at 15 a ||| Word.at 10 b ||| Word.at 8 s)
  | .amoor d a b s => some (0xC0000220#32 ||| Word.at 20 d ||| Word.at 15 a ||| Word.at 10 b ||| Word.at 8 s)
  | .amoxor d a b s => some (0xC0000230#32 ||| Word.at 20 d ||| Word.at 15 a ||| Word.at 10 b ||| Word.at 8 s)
  | .amomin d a b s => some (0xC0000240#32 ||| Word.at 20 d ||| Word.at 15 a ||| Word.at 10 b ||| Word.at 8 s)
  | .amomax d a b s => some (0xC0000250#32 ||| Word.at 20 d ||| Word.at 15 a ||| Word.at 10 b ||| Word.at 8 s)
  | .amominu d a b s => some (0xC0000260#32 ||| Word.at 20 d ||| Word.at 15 a ||| Word.at 10 b ||| Word.at 8 s)
  | .amomaxu d a b s => some (0xC0000270#32 ||| Word.at 20 d ||| Word.at 15 a ||| Word.at 10 b ||| Word.at 8 s)
  | .amoswp d a b s => some (0xC0000280#32 ||| Word.at 20 d ||| Word.at 15 a ||| Word.at 10 b ||| Word.at 8 s)
  | .amocas d a b s => some (0xC0000290#32 ||| Word.at 20 d ||| Word.at 15 a ||| Word.at 10 b ||| Word.at 8 s)
  | .amofadd d a b s => some (0xC00002A0#32 ||| Word.at 20 d ||| Word.at 15 a ||| Word.at 10 b ||| Word.at 8 s)
  | .fence s => some (0xC2000000#32 ||| Word.at 3 s)
  | .acq s => some (0xC2000001#32 ||| Word.at 3 s)
  | .rel s => some (0xC2000002#32 ||| Word.at 3 s)
  | .tclr d t => some (0xC2000003#32 ||| Word.at 20 d ||| Word.at 6 t)
  | .tmrg d a t => some (0xC2000004#32 ||| Word.at 20 d ||| Word.at 15 a ||| Word.at 6 t)
  | .tqry d a t => some (0xC2000005#32 ||| Word.at 20 d ||| Word.at 15 a ||| Word.at 6 t)
  | .qenq d a b q r => some (0xC4000000#32 ||| Word.at 20 d ||| Word.at 15 a ||| Word.at 10 b ||| Word.at 4 q ||| Word.at 3 r)
  | .qdeq d a b q r => some (0xC4000001#32 ||| Word.at 20 d ||| Word.at 15 a ||| Word.at 10 b ||| Word.at 4 q ||| Word.at 3 r)
  | .qwait a => some (0xC4000002#32 ||| Word.at 15 a)
  | .qstat d a => some (0xC4000003#32 ||| Word.at 20 d ||| Word.at 15 a)
  | .qinit a => some (0xC4000004#32 ||| Word.at 15 a)
  | .chsend a c => some (0xC6000000#32 ||| Word.at 15 a ||| Word.at 2 c)
  | .chrecv d c => some (0xC6000001#32 ||| Word.at 20 d ||| Word.at 2 c)
  | .chpoll d c => some (0xC6000002#32 ||| Word.at 20 d ||| Word.at 2 c)
  | .saadd r p h q f o => some (0x48000000#32 ||| Word.at 18 r ||| Word.at 16 p ||| Word.at 11 h ||| Word.at 10 q ||| Word.at 9 f ||| Word.at 4 o)
  | .sanrm f s k p h q o => some (0x48000001#32 ||| Word.at 21 f ||| Word.at 20 s ||| Word.at 18 k ||| Word.at 16 p ||| Word.at 11 h ||| Word.at 10 q ||| Word.at 4 o)
  | .saclr p h q => some (0x48000002#32 ||| Word.at 16 p ||| Word.at 11 h ||| Word.at 10 q)
  | .safence e k p h q => some (0x48000003#32 ||| Word.at 19 e ||| Word.at 18 k ||| Word.at 16 p ||| Word.at 11 h ||| Word.at 10 q)
  | .saevict f p h q => some (0x48000004#32 ||| Word.at 18 f ||| Word.at 16 p ||| Word.at 11 h ||| Word.at 10 q)
  | .saload p h q => some (0x48000005#32 ||| Word.at 16 p ||| Word.at 11 h ||| Word.at 10 q)
  | .sagain p h q a => some (0x48000006#32 ||| Word.at 16 p ||| Word.at 11 h ||| Word.at 10 q ||| Word.at 4 a)
  | .sasq d p h q => some (0x48000007#32 ||| Word.at 18 d ||| Word.at 16 p ||| Word.at 11 h ||| Word.at 10 q)
  | .lmzero a c t => some (0xCA000000#32 ||| Word.at 20 a ||| Word.at 10 c ||| Word.at 7 t)
  | .lmcopy a b c t => some (0xCA000001#32 ||| Word.at 20 a ||| Word.at 15 b ||| Word.at 10 c ||| Word.at 7 t)
  | .lmcmp a b c t => some (0xCA000002#32 ||| Word.at 20 a ||| Word.at 15 b ||| Word.at 10 c ||| Word.at 7 t)
  | .lmfence => some (0xCA000003#32)
  | .mcrd a b c t => some (0xCC000000#32 ||| Word.at 20 a ||| Word.at 15 b ||| Word.at 10 c ||| Word.at 7 t)
  | .redsend a b t n o => some (0xCC000010#32 ||| Word.at 20 a ||| Word.at 15 b ||| Word.at 7 t ||| Word.at 2 n ||| Word.at 0 o)
  | .redwait a b n => some (0xCC000020#32 ||| Word.at 20 a ||| Word.at 15 b ||| Word.at 2 n)
  | .xsend a b c t k => some (0xCC000030#32 ||| Word.at 20 a ||| Word.at 15 b ||| Word.at 10 c ||| Word.at 7 t ||| Word.at 0 k)
  | .xrecv d k => some (0xCC000040#32 ||| Word.at 20 d ||| Word.at 0 k)
  | .bar n => some (0xCE000000#32 ||| Word.at 0 n)
  | .barDomain => some (0xCE000400#32)
  | .sstep => some (0xCE000008#32)
  | .tlwait b t s => some (0xCE000010#32 ||| Word.at 15 b ||| Word.at 7 t ||| Word.at 0 s)
  | .feset a i => some (0xCE000018#32 ||| Word.at 20 a ||| Word.at 0 i)
  | .feclr a i => some (0xCE000020#32 ||| Word.at 20 a ||| Word.at 0 i)
  | .fewait c v i => some (0xCE000028#32 ||| Word.at 11 c ||| Word.at 10 v ||| Word.at 0 i)
  | .tladv d t => some (0xCE000030#32 ||| Word.at 20 d ||| Word.at 7 t)
  | .cpy a b c t d p => some (0xD0000000#32 ||| Word.at 20 a ||| Word.at 15 b ||| Word.at 10 c ||| Word.at 7 t ||| Word.at 2 d ||| Word.at 0 p)
  | .cpy2d a b c t d p => some (0xD0000010#32 ||| Word.at 20 a ||| Word.at 15 b ||| Word.at 11 c ||| Word.at 7 t ||| Word.at 2 d ||| Word.at 0 p)
  | .cpyga a b c t p => some (0xD0000020#32 ||| Word.at 20 a ||| Word.at 15 b ||| Word.at 10 c ||| Word.at 7 t ||| Word.at 0 p)
  | .cpysc a b c t p => some (0xD0000030#32 ||| Word.at 20 a ||| Word.at 15 b ||| Word.at 10 c ||| Word.at 7 t ||| Word.at 0 p)
  | .cpyfi k b c t d p => some (0xD0000040#32 ||| Word.at 20 k ||| Word.at 15 b ||| Word.at 10 c ||| Word.at 7 t ||| Word.at 2 d ||| Word.at 0 p)
  | .cpycv a b c t d p => some (0xD0000050#32 ||| Word.at 20 a ||| Word.at 15 b ||| Word.at 10 c ||| Word.at 7 t ||| Word.at 2 d ||| Word.at 0 p)
  | .pref b c p => some (0xD0000060#32 ||| Word.at 15 b ||| Word.at 10 c ||| Word.at 0 p)
  | .launch a b c => some (0xD2000000#32 ||| Word.at 20 a ||| Word.at 15 b ||| Word.at 10 c)
  | .ldloc d a s => some (0xD4000000#32 ||| Word.at 20 d ||| Word.at 15 a ||| Word.at 8 s)
  | .stloc d a s => some (0xD4000080#32 ||| Word.at 20 d ||| Word.at 15 a ||| Word.at 8 s)
  | .ldctl d a => some (0xD6000300#32 ||| Word.at 20 d ||| Word.at 15 a)
  | .stctl d a => some (0xD6000380#32 ||| Word.at 20 d ||| Word.at 15 a)
  | .ldvir d a b s o => some (0xD8000000#32 ||| Word.at 20 d ||| Word.at 15 a ||| Word.at 10 b ||| Word.at 8 s ||| Word.at 6 o)
  | .stvir d a b s o => some (0xD8000080#32 ||| Word.at 20 d ||| Word.at 15 a ||| Word.at 10 b ||| Word.at 8 s ||| Word.at 6 o)
  | .ldphy d a s => some (0xDA000000#32 ||| Word.at 20 d ||| Word.at 15 a ||| Word.at 8 s)
  | .stphy d a s => some (0xDA000080#32 ||| Word.at 20 d ||| Word.at 15 a ||| Word.at 8 s)
  | .ldrem d a b s => some (0xDC000000#32 ||| Word.at 20 d ||| Word.at 15 a ||| Word.at 10 b ||| Word.at 8 s)
  | .strem d a b s => some (0xDC000080#32 ||| Word.at 20 d ||| Word.at 15 a ||| Word.at 10 b ||| Word.at 8 s)
  | .ldhst d a s => some (0xDE000000#32 ||| Word.at 20 d ||| Word.at 15 a ||| Word.at 8 s)
  | .sthst d a s => some (0xDE000080#32 ||| Word.at 20 d ||| Word.at 15 a ||| Word.at 8 s)
  | .vadd d a b => some (0x60000000#32 ||| Word.at 18 d ||| Word.at 11 a ||| Word.at 4 b)
  | .vsub d a b => some (0x60000001#32 ||| Word.at 18 d ||| Word.at 11 a ||| Word.at 4 b)
  | .vmul d a b => some (0x60000002#32 ||| Word.at 18 d ||| Word.at 11 a ||| Word.at 4 b)
  | .vfma d a b => some (0x60000003#32 ||| Word.at 18 d ||| Word.at 11 a ||| Word.at 4 b)
  | .vfms d a b => some (0x60000004#32 ||| Word.at 18 d ||| Word.at 11 a ||| Word.at 4 b)
  | .vfnma d a b => some (0x60000005#32 ||| Word.at 18 d ||| Word.at 11 a ||| Word.at 4 b)
  | .vmin d a b => some (0x60000006#32 ||| Word.at 18 d ||| Word.at 11 a ||| Word.at 4 b)
  | .vmax d a b => some (0x60000007#32 ||| Word.at 18 d ||| Word.at 11 a ||| Word.at 4 b)
  | .vabs d a => some (0x60000008#32 ||| Word.at 18 d ||| Word.at 11 a)
  | .vneg d a => some (0x60000009#32 ||| Word.at 18 d ||| Word.at 11 a)
  | .vcps d a b => some (0x6000000A#32 ||| Word.at 18 d ||| Word.at 11 a ||| Word.at 4 b)
  | .vdiv d a b => some (0x62000000#32 ||| Word.at 18 d ||| Word.at 11 a ||| Word.at 4 b)
  | .vsqrt d a => some (0x62000001#32 ||| Word.at 18 d ||| Word.at 11 a)
  | .vrsq d a => some (0x62000002#32 ||| Word.at 18 d ||| Word.at 11 a)
  | .vrcp d a => some (0x62000003#32 ||| Word.at 18 d ||| Word.at 11 a)
  | .vexp2 d a => some (0x62000004#32 ||| Word.at 18 d ||| Word.at 11 a)
  | .vlog2 d a => some (0x62000005#32 ||| Word.at 18 d ||| Word.at 11 a)
  | .vtanh d a => some (0x62000006#32 ||| Word.at 18 d ||| Word.at 11 a)
  | .vsig d a => some (0x62000007#32 ||| Word.at 18 d ||| Word.at 11 a)
  | .viadd d a b => some (0x64000000#32 ||| Word.at 18 d ||| Word.at 11 a ||| Word.at 4 b)
  | .visub d a b => some (0x64000001#32 ||| Word.at 18 d ||| Word.at 11 a ||| Word.at 4 b)
  | .vimul d a b => some (0x64000002#32 ||| Word.at 18 d ||| Word.at 11 a ||| Word.at 4 b)
  | .vimulh d a b u => some (0x64000003#32 ||| Word.at 18 d ||| Word.at 11 a ||| Word.at 4 b ||| Word.at 3 u)
  | .vimin d a b u => some (0x64000004#32 ||| Word.at 18 d ||| Word.at 11 a ||| Word.at 4 b ||| Word.at 3 u)
  | .vimax d a b u => some (0x64000005#32 ||| Word.at 18 d ||| Word.at 11 a ||| Word.at 4 b ||| Word.at 3 u)
  | .viabs d a => some (0x64000006#32 ||| Word.at 18 d ||| Word.at 11 a)
  | .vand d a b => some (0x66000000#32 ||| Word.at 18 d ||| Word.at 11 a ||| Word.at 4 b)
  | .vor d a b => some (0x66000001#32 ||| Word.at 18 d ||| Word.at 11 a ||| Word.at 4 b)
  | .vxor d a b => some (0x66000002#32 ||| Word.at 18 d ||| Word.at 11 a ||| Word.at 4 b)
  | .vandn d a b => some (0x66000003#32 ||| Word.at 18 d ||| Word.at 11 a ||| Word.at 4 b)
  | .vshl d a b => some (0x66000004#32 ||| Word.at 18 d ||| Word.at 11 a ||| Word.at 4 b)
  | .vshr d a b => some (0x66000005#32 ||| Word.at 18 d ||| Word.at 11 a ||| Word.at 4 b)
  | .vsra d a b => some (0x66000006#32 ||| Word.at 18 d ||| Word.at 11 a ||| Word.at 4 b)
  | .vpopc d a => some (0x66000007#32 ||| Word.at 18 d ||| Word.at 11 a)
  | .vclmul d a b => some (0x66000008#32 ||| Word.at 18 d ||| Word.at 11 a ||| Word.at 4 b)
  | .vcmpF32Eq d a b => some (0x68000000#32 ||| Word.at 18 d ||| Word.at 11 a ||| Word.at 4 b)
  | .vcmpF32Lt d a b => some (0x68000001#32 ||| Word.at 18 d ||| Word.at 11 a ||| Word.at 4 b)
  | .vcmpF32Le d a b => some (0x68000002#32 ||| Word.at 18 d ||| Word.at 11 a ||| Word.at 4 b)
  | .vcmpF32Un d a b => some (0x68000003#32 ||| Word.at 18 d ||| Word.at 11 a ||| Word.at 4 b)
  | .vcmpI32Eq d a b => some (0x68000004#32 ||| Word.at 18 d ||| Word.at 11 a ||| Word.at 4 b)
  | .vcmpI32Lt d a b => some (0x68000005#32 ||| Word.at 18 d ||| Word.at 11 a ||| Word.at 4 b)
  | .vcmpI32Le d a b => some (0x68000006#32 ||| Word.at 18 d ||| Word.at 11 a ||| Word.at 4 b)
  | .vcmpN32Lt d a b => some (0x68000007#32 ||| Word.at 18 d ||| Word.at 11 a ||| Word.at 4 b)
  | .vcmpN32Le d a b => some (0x68000008#32 ||| Word.at 18 d ||| Word.at 11 a ||| Word.at 4 b)
  | .vsel d a b => some (0x68000009#32 ||| Word.at 18 d ||| Word.at 11 a ||| Word.at 4 b)
  | .vmskExpand d a => some (0x6800000A#32 ||| Word.at 18 d ||| Word.at 11 a)
  | .vmskPack d a => some (0x6800001A#32 ||| Word.at 18 d ||| Word.at 11 a)
  | .vcvt d a h v => some (0x6A000000#32 ||| Word.at 18 d ||| Word.at 11 a ||| Word.at 10 h ||| Word.at 4 v)
  | .vqnt d a o k => some (0x6A000001#32 ||| Word.at 18 d ||| Word.at 11 a ||| Word.at 7 o ||| Word.at 4 k)
  | .vdqnt d a o k => some (0x6A000002#32 ||| Word.at 18 d ||| Word.at 11 a ||| Word.at 7 o ||| Word.at 4 k)
  | .vamax d a b => some (0x6A000003#32 ||| Word.at 18 d ||| Word.at 11 a ||| Word.at 4 b)
  | .vshuf d a b => some (0x6C000000#32 ||| Word.at 18 d ||| Word.at 11 a ||| Word.at 4 b)
  | .vrot d a k => some (0x6C000001#32 ||| Word.at 18 d ||| Word.at 11 a ||| Word.at 4 k)
  | .vredsum d a y => some (0x6C000002#32 ||| Word.at 18 d ||| Word.at 11 a ||| Word.at 4 y)
  | .vredmax d a y => some (0x6C000003#32 ||| Word.at 18 d ||| Word.at 11 a ||| Word.at 4 y)
  | .vredmin d a y => some (0x6C000004#32 ||| Word.at 18 d ||| Word.at 11 a ||| Word.at 4 y)
  | .vscan d a y => some (0x6C000005#32 ||| Word.at 18 d ||| Word.at 11 a ||| Word.at 4 y)
  | .vxpose d a => some (0x6C000006#32 ||| Word.at 22 d ||| Word.at 15 a)
  | .vcpy d a => some (0x6E000000#32 ||| Word.at 18 d ||| Word.at 11 a)
  | .vzero d => some (0x6E000001#32 ||| Word.at 18 d)
  | .vbcast d a w => some (0x6E000002#32 ||| Word.at 18 d ||| Word.at 11 a ||| Word.at 4 w)
  | .vext d a i => some (0x6E000003#32 ||| Word.at 18 d ||| Word.at 11 a ||| Word.at 4 i)
  | .vins d a i => some (0x6E000004#32 ||| Word.at 18 d ||| Word.at 11 a ||| Word.at 4 i)
  | .viota d a s => some (0x6E000005#32 ||| Word.at 18 d ||| Word.at 11 a ||| Word.at 4 s)
  | .vsq k a => some (0x6E000006#32 ||| Word.at 18 k ||| Word.at 11 a)
  | .vaddQ d a q w => some (0x70000000#32 ||| Word.at 18 d ||| Word.at 11 a ||| Word.at 6 q ||| Word.at 4 w)
  | .vsubQ d a q w => some (0x70000001#32 ||| Word.at 18 d ||| Word.at 11 a ||| Word.at 6 q ||| Word.at 4 w)
  | .vmulQ d a q w => some (0x70000002#32 ||| Word.at 18 d ||| Word.at 11 a ||| Word.at 6 q ||| Word.at 4 w)
  | .vfmaQ d a q => some (0x70000003#32 ||| Word.at 18 d ||| Word.at 11 a ||| Word.at 6 q)
  | .vfmsQ d a q => some (0x70000004#32 ||| Word.at 18 d ||| Word.at 11 a ||| Word.at 6 q)
  | .vfnmaQ d a q => some (0x70000005#32 ||| Word.at 18 d ||| Word.at 11 a ||| Word.at 6 q)
  | .vminQ d a q w => some (0x70000006#32 ||| Word.at 18 d ||| Word.at 11 a ||| Word.at 6 q ||| Word.at 4 w)
  | .vmaxQ d a q w => some (0x70000007#32 ||| Word.at 18 d ||| Word.at 11 a ||| Word.at 6 q ||| Word.at 4 w)
  | .vabsQ d q => some (0x70000008#32 ||| Word.at 18 d ||| Word.at 6 q)
  | .vnegQ d q => some (0x70000009#32 ||| Word.at 18 d ||| Word.at 6 q)
  | .vcpsQ d a q w => some (0x7000000A#32 ||| Word.at 18 d ||| Word.at 11 a ||| Word.at 6 q ||| Word.at 4 w)
  | .viaddQ d a q w => some (0x72000000#32 ||| Word.at 18 d ||| Word.at 11 a ||| Word.at 6 q ||| Word.at 4 w)
  | .visubQ d a q w => some (0x72000001#32 ||| Word.at 18 d ||| Word.at 11 a ||| Word.at 6 q ||| Word.at 4 w)
  | .vimulQ d a q w => some (0x72000002#32 ||| Word.at 18 d ||| Word.at 11 a ||| Word.at 6 q ||| Word.at 4 w)
  | .vimulhQ d a q w u => some (0x72000003#32 ||| Word.at 18 d ||| Word.at 11 a ||| Word.at 6 q ||| Word.at 4 w ||| Word.at 3 u)
  | .viminQ d a q w u => some (0x72000004#32 ||| Word.at 18 d ||| Word.at 11 a ||| Word.at 6 q ||| Word.at 4 w ||| Word.at 3 u)
  | .vimaxQ d a q w u => some (0x72000005#32 ||| Word.at 18 d ||| Word.at 11 a ||| Word.at 6 q ||| Word.at 4 w ||| Word.at 3 u)
  | .viabsQ d q => some (0x72000006#32 ||| Word.at 18 d ||| Word.at 6 q)
  | .vandQ d a q w => some (0x74000000#32 ||| Word.at 18 d ||| Word.at 11 a ||| Word.at 6 q ||| Word.at 4 w)
  | .vorQ d a q w => some (0x74000001#32 ||| Word.at 18 d ||| Word.at 11 a ||| Word.at 6 q ||| Word.at 4 w)
  | .vxorQ d a q w => some (0x74000002#32 ||| Word.at 18 d ||| Word.at 11 a ||| Word.at 6 q ||| Word.at 4 w)
  | .vandnQ d a q w => some (0x74000003#32 ||| Word.at 18 d ||| Word.at 11 a ||| Word.at 6 q ||| Word.at 4 w)
  | .vshlQ d a q w => some (0x74000004#32 ||| Word.at 18 d ||| Word.at 11 a ||| Word.at 6 q ||| Word.at 4 w)
  | .vshrQ d a q w => some (0x74000005#32 ||| Word.at 18 d ||| Word.at 11 a ||| Word.at 6 q ||| Word.at 4 w)
  | .vsraQ d a q w => some (0x74000006#32 ||| Word.at 18 d ||| Word.at 11 a ||| Word.at 6 q ||| Word.at 4 w)
  | .vpopcQ d q => some (0x74000007#32 ||| Word.at 18 d ||| Word.at 6 q)
  | .vclmulQ d a q w => some (0x74000008#32 ||| Word.at 18 d ||| Word.at 11 a ||| Word.at 6 q ||| Word.at 4 w)
  | .vcvtQ d h v q => some (0x76000000#32 ||| Word.at 18 d ||| Word.at 17 h ||| Word.at 11 v ||| Word.at 6 q)
  | .vqntQ d o k q => some (0x76000001#32 ||| Word.at 18 d ||| Word.at 14 o ||| Word.at 11 k ||| Word.at 6 q)
  | .vdqntQ d o k q => some (0x76000002#32 ||| Word.at 18 d ||| Word.at 14 o ||| Word.at 11 k ||| Word.at 6 q)
  | .vamaxQ d b q => some (0x76000003#32 ||| Word.at 18 d ||| Word.at 11 b ||| Word.at 6 q)
  | .mma c s a b z m => some (0x78000000#32 ||| Word.at 23 c ||| Word.at 20 s ||| Word.at 18 a ||| Word.at 16 b ||| Word.at 3 z ||| Word.at 0 m)
  | .mma64 c s a b z m => some (0x78001000#32 ||| Word.at 24 c ||| Word.at 20 s ||| Word.at 18 a ||| Word.at 16 b ||| Word.at 3 z ||| Word.at 0 m)
  | .mmac c s a b z m => some (0x78002000#32 ||| Word.at 24 c ||| Word.at 20 s ||| Word.at 18 a ||| Word.at 16 b ||| Word.at 3 z ||| Word.at 0 m)
  | .mmas c s a b e z m => some (0x78003000#32 ||| Word.at 23 c ||| Word.at 20 s ||| Word.at 18 a ||| Word.at 16 b ||| Word.at 4 e ||| Word.at 3 z ||| Word.at 0 m)
  | .gang => some (0x7A000000#32)
  | .mshp k a b => some (0x7A001000#32 ||| Word.at 20 k ||| Word.at 5 a ||| Word.at 0 b)
  | .mzero c => some (0x7A002000#32 ||| Word.at 23 c)
  | .mlda c t => some (0x7A003000#32 ||| Word.at 23 c ||| Word.at 4 t)
  | .msta c t => some (0x7A004000#32 ||| Word.at 23 c ||| Word.at 4 t)
  | .mepi c s a t => some (0x7A005000#32 ||| Word.at 23 c ||| Word.at 20 s ||| Word.at 7 a ||| Word.at 4 t)
  | .mdld e r => some (0x7A006000#32 ||| Word.at 7 e ||| Word.at 0 r)
  | .mfst f l d => some (0x7A007000#32 ||| Word.at 18 f ||| Word.at 5 l ||| Word.at 0 d)
  | .qpset a => some (0x7C000000#32 ||| Word.at 20 a)
  | .qpfac => some (0x7C000010#32)
  | .qpiter => some (0x7C000020#32)
  | .qpshift a b => some (0x7C000030#32 ||| Word.at 20 a ||| Word.at 15 b)
  | .qpres => some (0x7C000040#32)
  | .qpstat c => some (0x7C000050#32 ||| Word.at 10 c)
  | .fchol a b c => some (0x7C000060#32 ||| Word.at 20 a ||| Word.at 15 b ||| Word.at 10 c)
  | .ftrs a b c => some (0x7C000070#32 ||| Word.at 20 a ||| Word.at 15 b ||| Word.at 10 c)
  | .trap m x => some (0x02000000#32 ||| Word.at 31 m ||| Word.at 10 x)
  | .bkpt m x => some (0x02000001#32 ||| Word.at 31 m ||| Word.at 10 x)
  | .eret m => some (0x02000002#32 ||| Word.at 31 m)
  | .mfc m d c => some (0x02000003#32 ||| Word.at 31 m ||| Word.at 20 d ||| Word.at 5 c)
  | .mtc m a c => some (0x02000004#32 ||| Word.at 31 m ||| Word.at 15 a ||| Word.at 5 c)
  | .phint m a => some (0x02000005#32 ||| Word.at 31 m ||| Word.at 15 a)
  | .yield m => some (0x02000006#32 ||| Word.at 31 m)
  | .wfe m => some (0x02000007#32 ||| Word.at 31 m)
  | .sev m a => some (0x02000008#32 ||| Word.at 31 m ||| Word.at 15 a)
  | .halt m => some (0x02000009#32 ||| Word.at 31 m)
  | .tlbi m d a b => some (0x0200000A#32 ||| Word.at 31 m ||| Word.at 20 d ||| Word.at 15 a ||| Word.at 10 b)
  | .lease m d a b => some (0x0200000B#32 ||| Word.at 31 m ||| Word.at 20 d ||| Word.at 15 a ||| Word.at 10 b)
  | .mcread m d a => some (0x0200000C#32 ||| Word.at 31 m ||| Word.at 20 d ||| Word.at 15 a)
  | .scmark m a => some (0x0200000D#32 ||| Word.at 31 m ||| Word.at 15 a)
  | .clkrd m d => some (0x0200000E#32 ||| Word.at 31 m ||| Word.at 20 d)
  | _ => none

end Sys2Proof
end

