-- ==== Sys2Proof/Machine/Fields.lean ====
section
/-! DEFINITION. What fetching and issuing need to know of an instruction: the scalar registers it names, its row
designators, the prefix fields it accepts, the queues it pushes and pops (R183, R186, R317, R322, R324, R360). -/

namespace Sys2Proof

/-- The scalar register that a q field broadcasts (R312, R397). -/
def broadcast (q : R5) : List R5 := if 16 ≤ q.toNat then [q] else []

/-- The scalar registers whose writers an instruction waits for: those it reads or writes. TMRG and TCLR wait for d
alone, and TQRY reads a's taint without waiting (R374). -/
def Instr.regs : Instr → List R5
  | .add _ d a b _ => [d, a, b]
  | .sub _ d a b _ => [d, a, b]
  | .and _ d a b _ => [d, a, b]
  | .or _ d a b _ => [d, a, b]
  | .xor _ d a b _ => [d, a, b]
  | .andn _ d a b _ => [d, a, b]
  | .sll _ d a b _ => [d, a, b]
  | .srl _ d a b _ => [d, a, b]
  | .sra _ d a b _ => [d, a, b]
  | .rol _ d a b _ => [d, a, b]
  | .ror _ d a b _ => [d, a, b]
  | .slt _ d a b _ => [d, a, b]
  | .sltu _ d a b _ => [d, a, b]
  | .seq _ d a b _ => [d, a, b]
  | .min _ d a b _ => [d, a, b]
  | .max _ d a b _ => [d, a, b]
  | .minu _ d a b _ => [d, a, b]
  | .maxu _ d a b _ => [d, a, b]
  | .mul _ d a b _ => [d, a, b]
  | .mulh _ d a b _ => [d, a, b]
  | .mulhu _ d a b _ => [d, a, b]
  | .madd _ d a b _ => [d, a, b]
  | .div _ d a b _ => [d, a, b]
  | .divu _ d a b _ => [d, a, b]
  | .rem _ d a b _ => [d, a, b]
  | .remu _ d a b _ => [d, a, b]
  | .fadd _ d a b _ _ => [d, a, b]
  | .fsub _ d a b _ _ => [d, a, b]
  | .fmul _ d a b _ _ => [d, a, b]
  | .fma _ d a b _ _ => [d, a, b]
  | .fdiv _ d a b _ _ => [d, a, b]
  | .fmin _ d a b _ => [d, a, b]
  | .fmax _ d a b _ => [d, a, b]
  | .fcmp _ d a b _ _ => [d, a, b]
  | .clmul _ d a b => [d, a, b]
  | .clmulh _ d a b => [d, a, b]
  | .extr _ d a b _ => [d, a, b]
  | .ins _ d a b => [d, a, b]
  | .amoadd d a b _ => [d, a, b]
  | .amoand d a b _ => [d, a, b]
  | .amoor d a b _ => [d, a, b]
  | .amoxor d a b _ => [d, a, b]
  | .amomin d a b _ => [d, a, b]
  | .amomax d a b _ => [d, a, b]
  | .amominu d a b _ => [d, a, b]
  | .amomaxu d a b _ => [d, a, b]
  | .amoswp d a b _ => [d, a, b]
  | .amocas d a b _ => [d, a, b]
  | .amofadd d a b _ => [d, a, b]
  | .qenq d a b _ _ => [d, a, b]
  | .qdeq d a b _ _ => [d, a, b]
  | .ldvir d a b _ _ => [d, a, b]
  | .stvir d a b _ _ => [d, a, b]
  | .ldrem d a b _ => [d, a, b]
  | .strem d a b _ => [d, a, b]
  | .tlbi _ d a b => [d, a, b]
  | .lease _ d a b => [d, a, b]
  | .clz _ d a _ => [d, a]
  | .ctz _ d a _ => [d, a]
  | .popc _ d a _ => [d, a]
  | .brev _ d a _ => [d, a]
  | .bswap _ d a _ => [d, a]
  | .addi _ d a _ => [d, a]
  | .andi _ d a _ => [d, a]
  | .ori _ d a _ => [d, a]
  | .xori _ d a _ => [d, a]
  | .slli _ d a _ _ => [d, a]
  | .srli _ d a _ _ => [d, a]
  | .srai _ d a _ _ => [d, a]
  | .roli _ d a _ _ => [d, a]
  | .slti _ d a _ => [d, a]
  | .sltiu _ d a _ => [d, a]
  | .fsqrt _ d a _ _ => [d, a]
  | .fcvt _ d a _ _ _ _ => [d, a]
  | .fclass _ d a _ => [d, a]
  | .fmv _ d a _ => [d, a]
  | .jalr _ d a _ => [d, a]
  | .ldl d a _ _ => [d, a]
  | .stl d a _ _ => [d, a]
  | .ld d a _ _ => [d, a]
  | .st d a _ _ => [d, a]
  | .qstat d a => [d, a]
  | .ldloc d a _ => [d, a]
  | .stloc d a _ => [d, a]
  | .ldctl d a => [d, a]
  | .stctl d a => [d, a]
  | .ldphy d a _ => [d, a]
  | .stphy d a _ => [d, a]
  | .ldhst d a _ => [d, a]
  | .sthst d a _ => [d, a]
  | .mcread _ d a => [d, a]
  | .lim _ d _ => [d]
  | .addpc _ d _ => [d]
  | .jal _ d _ => [d]
  | .chrecv d _ => [d]
  | .chpoll d _ => [d]
  | .xrecv d _ => [d]
  | .tladv d _ => [d]
  | .vmskPack d _ => [d]
  | .vext d _ _ => [d]
  | .mfst _ _ d => [d]
  | .mfc _ d _ => [d]
  | .clkrd _ d => [d]
  | .sel _ d a b c => [d, a, b, c]
  | .beq _ a b _ => [a, b]
  | .bne _ a b _ => [a, b]
  | .blt _ a b _ => [a, b]
  | .bge _ a b _ => [a, b]
  | .bltu _ a b _ => [a, b]
  | .bgeu _ a b _ => [a, b]
  | .lqg a b _ _ _ => [a, b]
  | .sqs a b _ _ _ => [a, b]
  | .redsend a b _ _ _ => [a, b]
  | .redwait a b _ => [a, b]
  | .mshp _ a b => [a, b]
  | .qpshift a b => [a, b]
  | .loop _ c _ => [c]
  | .rptRegisterCount _ _ c => [c]
  | .qpstat c => [c]
  | .lqr a _ _ => [a]
  | .sqw a _ _ => [a]
  | .qwait a => [a]
  | .qinit a => [a]
  | .chsend a _ => [a]
  | .feset a _ => [a]
  | .feclr a _ => [a]
  | .vmskExpand _ a => [a]
  | .vbcast _ a _ => [a]
  | .vins _ a _ => [a]
  | .viota _ a _ => [a]
  | .mepi _ _ a _ => [a]
  | .qpset a => [a]
  | .mtc _ a _ => [a]
  | .phint _ a => [a]
  | .sev _ a => [a]
  | .scmark _ a => [a]
  | .saadd _ _ h _ _ o => [h, o]
  | .sanrm _ _ _ _ h _ o => [h, o]
  | .saclr _ h _ => [h]
  | .safence _ _ _ h _ => [h]
  | .saevict _ _ h _ => [h]
  | .saload _ h _ => [h]
  | .sagain _ h _ a => [h, a]
  | .sasq d _ h _ => [d, h]
  | .lmzero a c _ => [a, c]
  | .lmcopy a b c _ => [a, b, c]
  | .lmcmp a b c _ => [a, b, c]
  | .mcrd a b c _ => [a, b, c]
  | .xsend a b c _ _ => [a, b, c]
  | .cpy a b c _ _ _ => [a, b, c]
  | .cpyga a b c _ _ => [a, b, c]
  | .cpysc a b c _ _ => [a, b, c]
  | .cpycv a b c _ _ _ => [a, b, c]
  | .launch a b c => [a, b, c]
  | .fchol a b c => [a, b, c]
  | .ftrs a b c => [a, b, c]
  | .tlwait b _ _ => [b]
  | .cpyfi _ b c _ _ _ => [b, c]
  | .pref b c _ => [b, c]
  | .tclr d t => if t = 0 then [d] else []
  | .tmrg d _ t => if t = 0 then [d] else []
  | .tqry d _ _ => [d]
  | .cpy2d a b c _ _ _ => [a, b, c.setWidth 5 <<< 1, c.setWidth 5 <<< 1 + 1]
  | .vaddQ _ _ q _ => broadcast q
  | .vsubQ _ _ q _ => broadcast q
  | .vmulQ _ _ q _ => broadcast q
  | .vfmaQ _ _ q => broadcast q
  | .vfmsQ _ _ q => broadcast q
  | .vfnmaQ _ _ q => broadcast q
  | .vminQ _ _ q _ => broadcast q
  | .vmaxQ _ _ q _ => broadcast q
  | .vabsQ _ q => broadcast q
  | .vnegQ _ q => broadcast q
  | .vcpsQ _ _ q _ => broadcast q
  | .viaddQ _ _ q _ => broadcast q
  | .visubQ _ _ q _ => broadcast q
  | .vimulQ _ _ q _ => broadcast q
  | .vimulhQ _ _ q _ _ => broadcast q
  | .viminQ _ _ q _ _ => broadcast q
  | .vimaxQ _ _ q _ _ => broadcast q
  | .viabsQ _ q => broadcast q
  | .vandQ _ _ q _ => broadcast q
  | .vorQ _ _ q _ => broadcast q
  | .vxorQ _ _ q _ => broadcast q
  | .vandnQ _ _ q _ => broadcast q
  | .vshlQ _ _ q _ => broadcast q
  | .vshrQ _ _ q _ => broadcast q
  | .vsraQ _ _ q _ => broadcast q
  | .vpopcQ _ q => broadcast q
  | .vclmulQ _ _ q _ => broadcast q
  | .vcvtQ _ _ _ q => broadcast q
  | .vqntQ _ _ _ q => broadcast q
  | .vdqntQ _ _ _ q => broadcast q
  | .vamaxQ _ _ q => broadcast q
  | _ => []

/-- The scalar registers that an instruction writes (R182, R183). -/
def Instr.writes : Instr → List R5
  | .qdeq d _ b _ r => if r = 1 then [d] else [d, b]
  | .lmcmp _ _ c _ => [c]
  | .launch _ _ c => [c]
  | .fchol _ _ c => [c]
  | .stl .. | .st .. | .stloc .. | .stctl .. | .stvir .. | .stphy .. | .strem .. | .sthst .. | .beq .. | .bne .. | .blt ..
  | .bge .. | .bltu .. | .bgeu .. | .lqr .. | .lqg .. | .sqw .. | .sqs .. | .redsend .. | .redwait .. | .mshp .. | .qpshift ..
  | .loop .. | .rptRegisterCount .. | .qwait .. | .qinit .. | .chsend .. | .feset .. | .feclr .. | .vmskExpand .. | .vbcast ..
  | .vins .. | .viota .. | .mepi .. | .qpset .. | .mtc .. | .phint .. | .sev .. | .scmark .. | .saadd .. | .sanrm .. | .saclr ..
  | .safence .. | .saevict .. | .saload .. | .sagain .. | .lmzero .. | .lmcopy .. | .mcrd .. | .xsend .. | .cpy .. | .cpyga ..
  | .cpysc .. | .cpycv .. | .cpyfi .. | .cpy2d .. | .ftrs .. | .pref .. | .tlwait .. => []
  | i => i.regs.take 1

/-- A row designator in a pass whose stagger is `k` (R324): the tile bits stay. -/
def staggerRow (k : Nat) (r : R7) : R7 := BitVec.ofNat 7 (r.toNat / 16 * 16 + (r.toNat + k) % 16)

/-- The instruction with `turn` applied to each row designator of its V or VQ format (R324). -/
noncomputable def Instr.mapRows (turn : R7 → R7) : Instr → Instr
  | .vadd d a b => .vadd (turn d) (turn a) (turn b)
  | .vsub d a b => .vsub (turn d) (turn a) (turn b)
  | .vmul d a b => .vmul (turn d) (turn a) (turn b)
  | .vfma d a b => .vfma (turn d) (turn a) (turn b)
  | .vfms d a b => .vfms (turn d) (turn a) (turn b)
  | .vfnma d a b => .vfnma (turn d) (turn a) (turn b)
  | .vmin d a b => .vmin (turn d) (turn a) (turn b)
  | .vmax d a b => .vmax (turn d) (turn a) (turn b)
  | .vabs d a => .vabs (turn d) (turn a)
  | .vneg d a => .vneg (turn d) (turn a)
  | .vcps d a b => .vcps (turn d) (turn a) (turn b)
  | .vdiv d a b => .vdiv (turn d) (turn a) (turn b)
  | .vsqrt d a => .vsqrt (turn d) (turn a)
  | .vrsq d a => .vrsq (turn d) (turn a)
  | .vrcp d a => .vrcp (turn d) (turn a)
  | .vexp2 d a => .vexp2 (turn d) (turn a)
  | .vlog2 d a => .vlog2 (turn d) (turn a)
  | .vtanh d a => .vtanh (turn d) (turn a)
  | .vsig d a => .vsig (turn d) (turn a)
  | .viadd d a b => .viadd (turn d) (turn a) (turn b)
  | .visub d a b => .visub (turn d) (turn a) (turn b)
  | .vimul d a b => .vimul (turn d) (turn a) (turn b)
  | .vimulh d a b u => .vimulh (turn d) (turn a) (turn b) u
  | .vimin d a b u => .vimin (turn d) (turn a) (turn b) u
  | .vimax d a b u => .vimax (turn d) (turn a) (turn b) u
  | .viabs d a => .viabs (turn d) (turn a)
  | .vand d a b => .vand (turn d) (turn a) (turn b)
  | .vor d a b => .vor (turn d) (turn a) (turn b)
  | .vxor d a b => .vxor (turn d) (turn a) (turn b)
  | .vandn d a b => .vandn (turn d) (turn a) (turn b)
  | .vshl d a b => .vshl (turn d) (turn a) (turn b)
  | .vshr d a b => .vshr (turn d) (turn a) (turn b)
  | .vsra d a b => .vsra (turn d) (turn a) (turn b)
  | .vpopc d a => .vpopc (turn d) (turn a)
  | .vclmul d a b => .vclmul (turn d) (turn a) (turn b)
  | .vcmpF32Eq d a b => .vcmpF32Eq (turn d) (turn a) (turn b)
  | .vcmpF32Lt d a b => .vcmpF32Lt (turn d) (turn a) (turn b)
  | .vcmpF32Le d a b => .vcmpF32Le (turn d) (turn a) (turn b)
  | .vcmpF32Un d a b => .vcmpF32Un (turn d) (turn a) (turn b)
  | .vcmpI32Eq d a b => .vcmpI32Eq (turn d) (turn a) (turn b)
  | .vcmpI32Lt d a b => .vcmpI32Lt (turn d) (turn a) (turn b)
  | .vcmpI32Le d a b => .vcmpI32Le (turn d) (turn a) (turn b)
  | .vcmpN32Lt d a b => .vcmpN32Lt (turn d) (turn a) (turn b)
  | .vcmpN32Le d a b => .vcmpN32Le (turn d) (turn a) (turn b)
  | .vsel d a b => .vsel (turn d) (turn a) (turn b)
  | .vmskExpand d a => .vmskExpand (turn d) a
  | .vmskPack d a => .vmskPack d (turn a)
  | .vcvt d a h v => .vcvt (turn d) (turn a) h v
  | .vqnt d a o k => .vqnt (turn d) (turn a) o k
  | .vdqnt d a o k => .vdqnt (turn d) (turn a) o k
  | .vamax d a b => .vamax (turn d) (turn a) b
  | .vshuf d a b => .vshuf (turn d) (turn a) (turn b)
  | .vrot d a k => .vrot (turn d) (turn a) k
  | .vredsum d a y => .vredsum (turn d) (turn a) y
  | .vredmax d a y => .vredmax (turn d) (turn a) y
  | .vredmin d a y => .vredmin (turn d) (turn a) y
  | .vscan d a y => .vscan (turn d) (turn a) y
  | .vcpy d a => .vcpy (turn d) (turn a)
  | .vzero d => .vzero (turn d)
  | .vbcast d a w => .vbcast (turn d) a w
  | .vext d a i => .vext d (turn a) i
  | .vins d a i => .vins (turn d) a i
  | .viota d a s => .viota (turn d) a s
  | .vsq k a => .vsq k (turn a)
  | .vaddQ d a q w => .vaddQ (turn d) (turn a) q w
  | .vsubQ d a q w => .vsubQ (turn d) (turn a) q w
  | .vmulQ d a q w => .vmulQ (turn d) (turn a) q w
  | .vfmaQ d a q => .vfmaQ (turn d) (turn a) q
  | .vfmsQ d a q => .vfmsQ (turn d) (turn a) q
  | .vfnmaQ d a q => .vfnmaQ (turn d) (turn a) q
  | .vminQ d a q w => .vminQ (turn d) (turn a) q w
  | .vmaxQ d a q w => .vmaxQ (turn d) (turn a) q w
  | .vabsQ d q => .vabsQ (turn d) q
  | .vnegQ d q => .vnegQ (turn d) q
  | .vcpsQ d a q w => .vcpsQ (turn d) (turn a) q w
  | .viaddQ d a q w => .viaddQ (turn d) (turn a) q w
  | .visubQ d a q w => .visubQ (turn d) (turn a) q w
  | .vimulQ d a q w => .vimulQ (turn d) (turn a) q w
  | .vimulhQ d a q w u => .vimulhQ (turn d) (turn a) q w u
  | .viminQ d a q w u => .viminQ (turn d) (turn a) q w u
  | .vimaxQ d a q w u => .vimaxQ (turn d) (turn a) q w u
  | .viabsQ d q => .viabsQ (turn d) q
  | .vandQ d a q w => .vandQ (turn d) (turn a) q w
  | .vorQ d a q w => .vorQ (turn d) (turn a) q w
  | .vxorQ d a q w => .vxorQ (turn d) (turn a) q w
  | .vandnQ d a q w => .vandnQ (turn d) (turn a) q w
  | .vshlQ d a q w => .vshlQ (turn d) (turn a) q w
  | .vshrQ d a q w => .vshrQ (turn d) (turn a) q w
  | .vsraQ d a q w => .vsraQ (turn d) (turn a) q w
  | .vpopcQ d q => .vpopcQ (turn d) q
  | .vclmulQ d a q w => .vclmulQ (turn d) (turn a) q w
  | .vcvtQ d h v q => .vcvtQ (turn d) h v q
  | .vqntQ d o k q => .vqntQ (turn d) o k q
  | .vdqntQ d o k q => .vdqntQ (turn d) o k q
  | .vamaxQ d b q => .vamaxQ (turn d) b q
  | i => i

/-- The frame instruction in a pass whose stagger is `k`. -/
noncomputable def Instr.stagger (k : Nat) (i : Instr) : Instr := if k % 16 = 0 then i else i.mapRows (staggerRow k)

/-- Whether a word may stand in a repeat frame by its marker and major (R322). -/
def frameWord (w : Word) : Bool :=
  let m := (w.fld 25 6).toNat
  !w.getLsbD 31 && ((decide (0x02 ≤ m) && decide (m ≤ 0x0D)) || (decide (0x30 ≤ m) && decide (m ≤ 0x3B)))

/-- A prefix may precede a word of these majors (R317). -/
def prefixable (w : Word) : Bool :=
  let m := (w.fld 25 6).toNat
  w.getLsbD 31 && ((decide (0x1A ≤ m) && decide (m ≤ 0x23)) || m == 0x25 || m == 0x26)

def Instr.isMod : Instr → Bool
  | .mod .. => true
  | _ => false

/-- An RPT's frame length and stagger. -/
def Instr.frame? : Instr → Option (Nat × Nat)
  | .rpt n g _ => some (n.toNat + 1, g.toNat)
  | .rptRegisterCount n g _ => some (n.toNat + 1, g.toNat)
  | _ => none

def Instr.isVxpose : Instr → Bool
  | .vxpose .. => true
  | _ => false

def Instr.isQenq : Instr → Bool
  | .qenq .. => true
  | _ => false

def Instr.isQdeq : Instr → Bool
  | .qdeq .. => true
  | _ => false

def Instr.isFence : Instr → Bool
  | .fence .. => true
  | _ => false

def Instr.isMepi : Instr → Bool
  | .mepi .. => true
  | _ => false

def Instr.isQpiter : Instr → Bool
  | .qpiter => true
  | _ => false

def Instr.isMfst : Instr → Bool
  | .mfst .. => true
  | _ => false

def Instr.isCpyfi : Instr → Bool
  | .cpyfi .. => true
  | _ => false

def Instr.isHostAccess : Instr → Bool
  | .hostAccess .. => true
  | _ => false

def Instr.isColdReset : Instr → Bool
  | .coldReset .. => true
  | _ => false

/-- The classes of R114 and R360: ordering values permitted, spaces accepted, whether notaint is. -/
structure Accepts where
  ords : List Nat
  spaces : List Nat
  nt : Bool

def ordLoad : List Nat := [0, 1, 2, 5]
def ordStore : List Nat := [0, 1, 3, 5]
def ordAtomic : List Nat := [1, 2, 3, 4, 5]
def ordNone : List Nat := [0, 1]
/-- The spaces of a row access: the local store alone through a format window. -/
def rowSpaces (l : BitVec 1) : List Nat := if l = 1 then [1] else [0, 1, 2, 3]

/-- What an instruction accepts of a prefix (R360, R371); none where it accepts no prefix. A slice-queue operation takes a plain
order too (notes/assumptions/54.md). -/
def Instr.accepts : Instr → Option Accepts
  | .ldl .. => some ⟨ordLoad, [1], true⟩
  | .stl .. => some ⟨ordStore, [1], false⟩
  | .ld .. => some ⟨ordLoad, [0, 2, 3], true⟩
  | .st .. => some ⟨ordStore, [0, 2, 3], false⟩
  | .lqr _ l _ => some ⟨ordLoad, rowSpaces l, true⟩
  | .lqg _ _ l _ _ => some ⟨ordLoad, rowSpaces l, true⟩
  | .sqw _ l _ => some ⟨ordStore, rowSpaces l, false⟩
  | .sqs _ _ l _ _ => some ⟨ordStore, rowSpaces l, false⟩
  | .amoadd .. => some ⟨ordAtomic, [0, 1, 2, 3], true⟩
  | .amoand .. => some ⟨ordAtomic, [0, 1, 2], true⟩
  | .amoor .. => some ⟨ordAtomic, [0, 1, 2], true⟩
  | .amoxor .. => some ⟨ordAtomic, [0, 1, 2], true⟩
  | .amomin .. => some ⟨ordAtomic, [0, 1, 2], true⟩
  | .amomax .. => some ⟨ordAtomic, [0, 1, 2], true⟩
  | .amominu .. => some ⟨ordAtomic, [0, 1, 2], true⟩
  | .amomaxu .. => some ⟨ordAtomic, [0, 1, 2], true⟩
  | .amoswp .. => some ⟨ordAtomic, [0, 1, 2, 3], true⟩
  | .amocas .. => some ⟨ordAtomic, [0, 1, 2, 3], true⟩
  | .amofadd .. => some ⟨ordAtomic, [0, 1, 2], true⟩
  | .qenq .. => some ⟨ordStore, [0], false⟩
  | .qinit .. => some ⟨ordStore, [0], false⟩
  | .qdeq .. => some ⟨ordLoad, [0], true⟩
  | .qstat .. => some ⟨ordLoad, [0], true⟩
  | .qwait .. => some ⟨ordLoad, [0], false⟩
  | .chsend .. => some ⟨ordStore, [1], false⟩
  | .chrecv .. => some ⟨ordLoad, [1], true⟩
  | .chpoll .. => some ⟨ordLoad, [1], true⟩
  | .lmzero .. => some ⟨ordNone, [1], false⟩
  | .lmcopy .. => some ⟨ordNone, [1], false⟩
  | .lmcmp .. => some ⟨ordNone, [1], false⟩
  | .lmfence => some ⟨ordNone, [1], false⟩
  | .mcrd .. => some ⟨ordNone, [0], false⟩
  | .redsend .. => some ⟨ordStore, [1], false⟩
  | .redwait .. => some ⟨ordNone, [1], false⟩
  | .xsend .. => some ⟨ordStore, [1], false⟩
  | .xrecv .. => some ⟨ordLoad, [1], true⟩
  | _ => none

/-- Whether an instruction accepts the fields of a prefix (R114, R143, R317, R360). -/
def Instr.acceptsMod (i : Instr) (o p : BitVec 3) (n : BitVec 1) : Bool :=
  match i.accepts with
  | some a => a.ords.contains o.toNat && a.spaces.contains p.toNat && (n == 0 || a.nt)
  | none => false

/-- The queue an instruction pushes an entry into: LQ0 to LQ3 at 0 to 3, SQ0 and SQ1 at 4 and 5 (R186). -/
def Instr.pushes : Instr → Option Nat
  | .lqr _ _ q => some q.toNat
  | .lqg _ _ _ q _ => some q.toNat
  | .qdeq _ _ _ q r => if r = 1 then some q.toNat else none
  | .sanrm _ _ k _ _ _ _ => some k.toNat
  | .vsq k _ => some (4 + k.toNat)
  | _ => none

/-- The queue a word pops: the q field of a VQ word below 4, or the SQ of a row store or an enqueued row (R366, R377,
R397). -/
def pops (w : Word) (i : Instr) : Option Nat :=
  match i with
  | .sqw _ _ q => some (4 + q.toNat)
  | .sqs _ _ _ q _ => some (4 + q.toNat)
  | .qenq _ _ _ q r => if r = 1 then some (4 + q.toNat) else none
  | _ =>
    let m := (w.fld 25 6).toNat
    if 0x38 ≤ m ∧ m ≤ 0x3B ∧ (w.fld 6 5).toNat < 4 then some (w.fld 6 5).toNat else none

end Sys2Proof
end

