-- ==== Sys2Proof/Machine/Fetch.lean ====
section
/-! DEFINITION. Fetching: instruction words, prefixes and frames (R22, R284, R310 to R324). -/

namespace Sys2Proof.Machine

/-! ## Words (R22, R284, R310, R315, R316) -/

/-- The instruction a word is, when it has no defect. -/
noncomputable def readWord (w : Word) : Option Instr :=
  match decode w with
  | .ok i => if i.wellFormed then some i else none
  | .error _ => none

/-- Reads an instruction word of the current core, and whether its granule is poisoned. -/
def State.fetchWord (s : State) (va : Dword) : Checked (Word × Bool) :=
  match s.check2 (s.whoOf s.cur 1) .fetch 0 va.toNat 4 0 with
  | .ok ps =>
    let bs := ps.flatMap (fun p => s.rdBytes p.pa p.size)
    .ok (BitVec.ofNat 32 (bytesNat (bs.map (·.1))), bs.any (·.2))
  | .hold => .hold
  | .fault t => .fault t

/-- ILLEGAL for a word at an address (R316). -/
def illegalAt (w : Word) (va : Dword) : TrapInfo := trapAt Cause.illegal w.toNat va.toNat

/-- An instruction ready to execute: its words, itself, and the prefix before it. -/
structure Fetched where
  words : List Word
  instr : Instr
  pre : Option Instr
  deriving DecidableEq, Repr

/-- The last word of an instruction. -/
def Fetched.word (f : Fetched) : Word := f.words.getLastD 0

/-- The word that follows a MOD (R316 to R318): `w` at `pc`, with the prefix's fields. -/
noncomputable def State.pairWith (s : State) (w : Word) (pc : Dword) (pre : Instr) (o p : BitVec 3) (n : BitVec 1) :
    Checked Fetched :=
  match s.fetchWord (pc + 4) with
  | .hold => .hold
  | .fault t => .fault t
  | .ok (w2, pois) =>
    if pois then .fault (trapAt Cause.poison 768 (pc + 4).toNat)
    else if !prefixable w2 then .fault (illegalAt w2 (pc + 4))
    else match readWord w2 with
      | none => .fault (illegalAt w2 (pc + 4))
      | some i => if i.acceptsMod o p n then .ok { words := [w, w2], instr := i, pre := some pre } else .fault (illegalAt w pc)

/-- Checks the words of a frame from `va` on (R322, R416); a poisoned word is left to be reached (R284). -/
noncomputable def State.frameCheck (s : State) (stg : Nat) : Nat → Dword → Checked Unit
  | 0, _ => .ok ()
  | n + 1, va =>
    match s.fetchWord va with
    | .hold => .hold
    | .fault t => .fault t
    | .ok (w, pois) =>
      if pois then State.frameCheck s stg n (va + 4)
      else match if frameWord w then readWord w else none with
        | none => .fault (illegalAt w va)
        | some i => if i.isVxpose && stg != 0 then .fault (illegalAt w va) else State.frameCheck s stg n (va + 4)

/-- Whether the word at `pc` is the last of the innermost loop body (R318). -/
def Core.endsLoop (k : Core) (pc : Dword) : Bool :=
  match k.seq.loops with
  | e :: _ => e.stop == pc
  | [] => false

/-- The instruction at an address whose word is `w`, with a frame's stagger. -/
noncomputable def State.readAt (s : State) (pc : Dword) (w : Word) : Checked Fetched :=
  let k := s.me
  match readWord w with
  | none => .fault (illegalAt w pc)
  | some i =>
    let i := match k.seq.rpt with
      | some r => i.stagger (r.pass * r.stagger)
      | none => i
    match i, i.frame? with
    | .mod o sc p c n, _ =>
      if k.endsLoop pc then .fault (illegalAt w pc) else s.pairWith w pc (.mod o sc p c n) o p n
    | _, some (len, stg) =>
      match s.frameCheck stg len (pc + 4) with
      | .hold => .hold
      | .fault t => .fault t
      | .ok _ => .ok { words := [w], instr := i, pre := none }
    | _, none => .ok { words := [w], instr := i, pre := none }

/-- Words that fetching the instruction at a word reads: a frame (R322), or a prefix and its instruction. -/
noncomputable def instrWords (w : Word) : Nat :=
  match (readWord w).bind Instr.frame? with
  | some (len, _) => len + 1
  | none => 2

/-- The state with the word being executed on record. -/
def State.withWord (s : State) (w : Word) : State := s.modMe (fun k => { k with word := w })

/-- Fetches the current core's next instruction: what it is, the trap that fetching it takes (STR of a refused word is
that word's stream, R273), or the wait for its translation, whose leaf the fetch unit keeps (R37). -/
noncomputable def State.fetch (s : State) : Fetched ⊕ State :=
  let pc := s.me.arch.pc
  let held (n : Nat) : State := s.holdAt (s.whoOf s.cur 1) (pagesOf pc.toNat n)
  match s.fetchWord pc with
  | .hold => .inr (held 4)
  | .fault t => .inr (s.trap t)
  | .ok (w, pois) =>
    if pois then .inr (s.trap (trapAt Cause.poison 768 pc.toNat))
    else match s.readAt pc w with
      | .ok f => .inl f
      | .hold => .inr (held (4 * instrWords w))
      | .fault t => .inr ((s.withWord w).trap t)

end Sys2Proof.Machine
end

