-- ==== Sys2Proof/Machine/Issue.lean ====
section
/-! DEFINITION. Issuing: the waits before an instruction executes, how far the other stream runs ahead of a push that
stands still (R181 to R186, R269), loads that perform early (R38, R124), and the errors that an instruction meets (R62 to
R64, R72, R84, R103, R106, R144, R178, R279). -/

namespace Sys2Proof.Machine

/-! ## Waits -/

/-- The current core waits: nothing has happened. -/
def State.idle (s : State) : State := { s with stalled := true }

/-- Whether an issued instruction of core `c` waits for an event that completes it: its gang's start, a slice's
verdict, its barrier. -/
def State.parked (s : State) (c : Nat) : Bool :=
  (s.core c).gangWait.isSome || (s.core c).saWait.isSome ||
    match s.launchOf c with
    | some (_, t, l) => (match (l.task t).phase with | .wait _ => true | _ => false)
    | none => false

/-- Whether a register that the instruction names awaits a load (R183, R374). -/
def Core.hazard (k : Core) (i : Instr) : Bool := i.regs.any (fun r => r != 0 && Map.has k.pend r.toNat)

/-! ## Executing -/

/-- The state in which an instruction executes, after its prefix (R318). -/
def State.prefixed (s : State) (f : Fetched) : State :=
  match f.pre with
  | none => s
  | some p => match exec p s with
    | .next t => t
    | _ => s

/-- Executes an instruction with its prefix as one (R318). -/
def State.perform (s : State) (f : Fetched) : Res := exec f.instr (s.prefixed f)

/-- Whether the current core's turn from `s` to `t` has issued its instruction without a trap or a take-back. -/
def State.issuedIn (s t : State) : Bool :=
  let k := t.core s.cur
  k.level == s.me.level && k.task == s.me.task
    && (t.square (squareOf s.cur)).takeBacks == (s.square (squareOf s.cur)).takeBacks
    && (!t.stalled || (t.parked s.cur && !s.parked s.cur))

/-! ## Running ahead (R181 to R186, R269) -/

/-- A word's major. -/
def majorOf (w : Word) : Nat := (w.fld 25 6).toNat

/-- Branches, jumps, loops and repeats, whose outcome one stream sends to the other (R184). -/
def isControl (w : Word) : Bool := decide (0x10 ≤ majorOf w) && decide (majorOf w ≤ 0x18)

/-- Atomics, slice-queue and stream-accumulator operations, and gang operations, which leave the core only once they are
committed (R269): a stream that runs ahead has their results later. A fence orders accesses alone (R129). -/
def leavesCore (f : Fetched) : Bool := [0x20, 0x22, 0x24, 0x3C].contains (majorOf f.word) || f.instr.isFence

/-- System words of the standing stream that end or trap the instructions after them: no later word runs before. -/
def endsAhead : Instr → Bool
  | .trap .. | .bkpt .. | .eret .. | .halt .. | .phint .. | .yield .. | .wfe .. => true
  | _ => false

/-- The next instruction of the current core, where fetching it meets nothing. -/
noncomputable def State.upNext (s : State) : Option Fetched :=
  match s.fetchWord s.me.arch.pc with
  | .ok (w, false) => match s.readAt s.me.arch.pc w with
    | .ok f => some f
    | _ => none
  | _ => none

/-- Goes past an instruction without executing it; the lane groups go on with what has been issued. -/
def State.pass (s : State) (f : Fetched) : State :=
  s.modMe (fun k => { (if f.pre.isSome then { k with pendMod := some privMods } else k).retire with uops := [] })

/-- Whether a stream gets through `need` pops of queue `q` while the other stream, whose marker is `mark`, stands still
at its push (R183 to R186): this is a trial run of the words that follow, in program order. `late` are the registers that
wait for what has not executed, `stale` tells that a gang operation has not, and `outs` are the outcomes in the
branch-outcome queue, which holds `room`. -/
noncomputable def State.runsTo (s : State) (q : Nat) (mark : Bool) (room : Nat) : Nat → Nat → List R5 → Bool → Nat → Bool
  | 0, need, _, _, _ => need == 0
  | fuel + 1, need, late, stale, outs =>
    need == 0 || match s.upNext with
    | none => false
    | some f =>
      let w := f.word
      let late' := f.instr.writes ++ late
      if w.getLsbD 31 == mark then
        !(isControl w || endsAhead f.instr) && State.runsTo (s.pass f) q mark room fuel need late' stale outs
      else if s.me.hazard f.instr || f.instr.regs.any (fun r => r != 0 && late.contains r) then false
      else
        let need' := if pops w f.instr = some q then need - 1 else need
        if leavesCore f then State.runsTo (s.pass f) q mark room fuel need' late' (stale || majorOf w == 0x3C) outs
        else if isControl w && decide (room ≤ outs) then false
        else match (s.withWord w).perform f with
          | .next t =>
            s.issuedIn t && !t.stalled
              && State.runsTo (t.modMe (fun k => { k with uops := [] })) q mark room fuel need'
                  (if stale && decide (0x30 ≤ majorOf w) then late' else late) stale
                  (if isControl w then outs + 1 else outs)
          | _ => false

/-- Entries of a core's branch-outcome queue (R184), with its reserve entry where that has been granted (R226). -/
def State.outcomeRoom (s : State) : Nat :=
  if s.reserves.contains (outcomeReserve s.cur) then 17 else 16

/-- How many words the other stream may run ahead: the access stream 64 instructions (R183); the execute stream without
a limit, of which the trial run looks at the first 2^64 words. -/
def aheadOf (mark : Bool) : Nat := if mark then 2 ^ 64 else 64

/-- Executes an instruction; a push into a full queue that the other stream frees takes the next place at once. -/
noncomputable def State.performAhead (s : State) (f : Fetched) : Res :=
  match f.instr.pushes with
  | none => s.perform f
  | some q =>
    let n := (s.me.queue q).length
    -- every push into an LQ is the access stream's (R186)
    let mark := decide (q < 4)
    if n < 8 ∨ !(s.pass f).runsTo q mark s.outcomeRoom (aheadOf mark) (n - 7) f.instr.writes false 0 then s.perform f
    else match ({ s with reserves := lqReserve s.cur q :: s.reserves } : State).perform f with
      | .next t => .next { t with reserves := s.reserves }
      | r => r

/-! ## What an instruction touches -/

/-- The memory that an instruction asks for: its space, what it does, its modifiers, the context where it names one, first
byte and count of each element. -/
structure Request where
  space : Nat
  kind : Kind
  mods : ModFields
  ctx : Option Nat
  spans : List (Nat × Nat)
  deriving DecidableEq, Repr

/-- An atomic's address register and size. -/
def amoOf : Instr → Option (R5 × BitVec 1)
  | .amoadd _ a _ s => some (a, s)
  | .amoand _ a _ s => some (a, s)
  | .amoor _ a _ s => some (a, s)
  | .amoxor _ a _ s => some (a, s)
  | .amomin _ a _ s => some (a, s)
  | .amomax _ a _ s => some (a, s)
  | .amominu _ a _ s => some (a, s)
  | .amomaxu _ a _ s => some (a, s)
  | .amoswp _ a _ s => some (a, s)
  | .amocas _ a _ s => some (a, s)
  | .amofadd _ a _ s => some (a, s)
  | _ => none

/-- Bytes of a row in the local store at an address: a row, or its form in the window's format (R54). -/
def Core.rowSpan (k : Core) (space va : Nat) : Nat :=
  if space = 1 ∧ va / 2 ^ 21 % 8 ≠ 0 then (match k.fmtReg (va / 2 ^ 21 % 8) with | some f => f.rowBytes | none => 0)
  else 256

/-- The request that an instruction of the current core makes, its prefix in `pendMod`. -/
def State.requestOf (s : State) (i : Instr) : Option Request :=
  let k := s.me
  let at' (space : Nat) (kind : Kind) (m : ModFields) (va n : Nat) : Option Request := some ⟨space, kind, m, none, [(va, n)]⟩
  let vir (kind : Kind) (a b : R5) (s : BitVec 2) (o : BitVec 1) : Option Request :=
    some ⟨2, kind, privMods, if o = 1 then none else some ((k.x b).toNat % 64), [((k.x a).toNat, szBytes s)]⟩
  let row (kind : Kind) (m : ModFields) (a : R5) (l : BitVec 1) : Option Request :=
    at' (rowSpace m l) kind m (k.x a).toNat (k.rowSpan (rowSpace m l) (k.x a).toNat)
  let els (kind : Kind) (m : ModFields) (a b : R5) (l : BitVec 1) (s : BitVec 2) : Option Request :=
    some ⟨rowSpace m l, kind, m, none, (strided (k.x a) (k.x b) (szBytes s)).map (fun e => (e.1, szBytes s))⟩
  let load := k.mods .load false
  let store := k.mods .store false
  match i with
  | .ldl _ a s n => at' 1 .load load (dispAddr k a n) (szBytes s)
  | .stl _ a s n => at' 1 .store store (dispAddr k a n) (szBytes s)
  | .ld _ a s n => at' (spaceOf load.space) .load load (dispAddr k a n) (szBytes s)
  | .st _ a s n => at' (spaceOf store.space) .store store (dispAddr k a n) (szBytes s)
  | .lqr a l _ => row .load load a l
  | .sqw a l _ => row .store store a l
  | .lqg a b l _ s => els .load load a b l s
  | .sqs a b l _ s => els .store store a b l s
  | .ldloc _ a s => at' 1 .load privMods (k.x a).toNat (szBytes s)
  | .stloc _ a s => at' 1 .store privMods (k.x a).toNat (szBytes s)
  | .ldvir _ a b s o => vir .load a b s o
  | .stvir _ a b s o => vir .store a b s o
  | .ldphy _ a s => at' 5 .load privMods (k.x a).toNat (szBytes s)
  | .stphy _ a s => at' 5 .store privMods (k.x a).toNat (szBytes s)
  | .chsend a c => match s.launchOf s.cur with
    | some (_, t, l) => at' 1 .load privMods (k.x a).toNat (s.chEntry l s.cur t c.toNat).size
    | none => none
  | .launch a _ _ => at' 2 .load { privMods with cache := max 2 k.mdefCache } (k.x a).toNat 256
  | i => match amoOf i with
    | some (a, s) => at' (spaceOf (k.mods .atomic false).space) .atomic (k.mods .atomic false) (k.x a).toNat (if s = 1 then 8 else 4)
    | none => none

/-- What an instruction does to a byte of its core's local store, if it touches it. -/
def Request.atLocal (r : Request) (a : Nat) : Option Kind :=
  if r.space = 1 ∧ r.spans.any (fun e => decide (e.1 % 2 ^ 21 ≤ a) && decide (a < e.1 % 2 ^ 21 + e.2)) then some r.kind
  else none

/-- The parts of memory that a request names beyond the local store, where its checks pass. -/
def State.partsOf (s : State) (r : Request) : List Part :=
  let w := s.whoOf s.cur 0
  let w := match r.ctx with | some c => { w with ctx := c } | none => w
  if r.space = 1 then []
  else r.spans.flatMap (fun e => match s.checkSpace w r.space r.kind r.mods.cache e.1 e.2 0 with
    | .ok ps => ps
    | _ => [])

/-- Whether a request reads a part from the core's L1 (R79). -/
def State.readsL1 (s : State) (r : Request) (p : Part) : Bool :=
  r.kind == .load && !(mkAccess .load r.space r.mods 0 .discard none []).pastL1 p
    && ((s.me.l1Find (p.tag r.space) p.pa p.size)).isSome

/-- The register that holds the handle of an SA instruction or a slice queue (R101, R156). -/
def handleOf : Instr → Option R5
  | .saadd _ _ h _ _ _ => some h
  | .sanrm _ _ _ _ h _ _ => some h
  | .saclr _ h _ => some h
  | .safence _ _ _ h _ => some h
  | .saevict _ _ h _ => some h
  | .saload _ h _ => some h
  | .sagain _ h _ _ => some h
  | .sasq _ _ h _ => some h
  | .qenq _ a _ _ _ => some a
  | .qdeq _ a _ _ _ => some a
  | _ => none

/-- Whether an instruction names a register by R112's code: a scalar register, or row r of tile t at 128 + 16 t + r. -/
noncomputable def namesReg (i : Instr) (reg : Nat) : Bool :=
  if reg < 32 then i.regs.any (fun r => r.toNat == reg)
  else match i with
    | .saadd r .. => 128 + r.toNat == reg
    | i => i.mapRows (fun r => if 128 + r.toNat = reg then r + 1 else r) != i

/-! ## Errors (R25, R62 to R64, R106, R279, R282) -/

/-- Poisons the 128-byte sector of a local store that holds `a` (R63). -/
def Core.poisonSector (k : Core) (a : Nat) : Core :=
  { k with lsPois := (List.range 4).foldl (fun m i => Map.set false m (a / 128 * 4 + i) true) k.lsPois }

/-- Whether an error stops the core, so that older loads perform first (R270). -/
def Upset.stops : Upset → Bool
  | .residue _ _ _ _ persists => persists
  | .register _ _ fixed => !fixed
  | .layerBus _ => true
  | _ => false

/-- The units that check a word (R278, R280, R333, R399): a vector lane, an array row and an SA element are named, and a
scalar unit has lane 0. -/
def unitFits (maj unit lane : Nat) : Bool :=
  let named (us : List Nat) : Bool := us.contains unit && lane == 0
  let of (u : Nat) : Bool := unit == u && decide (lane < 64)
  if maj = 0x04 ∨ maj = 0x0A ∨ maj = 0x0B then named [1]
  else if maj = 0x0C then named [2]
  else if 0x02 ≤ maj ∧ maj ≤ 0x0D then named [0]
  else if 0x10 ≤ maj ∧ maj ≤ 0x18 then named [0, 1]
  else if maj = 0x24 then of 7 || named [1]
  else if maj = 0x28 then named [1, 6, 8]
  else if maj = 0x3E then named [5]
  else if maj = 0x3C ∨ maj = 0x3D then of 4
  else if 0x30 ≤ maj ∧ maj ≤ 0x3B then of 3
  else if 0x1A ≤ maj ∧ maj ≤ 0x2F then named [1, 8]
  else false

/-- An error that a check finds at an instruction which, without it, leads from `s` to `t`. Where the instruction does
not touch the place, the error meets nothing. DESIGN CHOICE (notes/assumptions/60.md): a bus transfer that exhausts its
retries is logged with SRC 0, a load's too (R63, R64). -/
noncomputable def State.meet (s t : State) (u : Upset) (f : Fetched) : Res :=
  let c := s.cur
  let i := f.instr
  let r := (s.prefixed f).requestOf i
  let onLocal (a : Nat) : Option Kind := r.bind (fun r => r.atLocal a)
  let go (s : State) : State := match s.performAhead f with | .next t => t | _ => s
  let onParts : Res := .next (match r with
    | none => t
    | some r => s.meets c r.space ((s.partsOf r).map (fun p => (p, r.kind == .store))) (s.readsL1 r) go)
  let named (g : Nat → Res) : Res := match handleOf i with | some h => g (s.me.x h).toNat | none => .next t
  match u with
  | .residue unit lane e o persists =>
    let log (s : State) : State := s.logError 6 persists 2 0 (c * 2 ^ 24 + unit * 2 ^ 8 + lane)
    .next (if !unitFits (majorOf f.word) unit lane || !isMismatch e o then t
      else if persists then (log s).machineCheck c 1 0 unit lane e o 2 else log t)
  | .register reg syn fixed =>
    let log (s : State) : State := s.logError 0 (!fixed) 0 syn.toNat (c * 2 ^ 24 + reg)
    .next (if !namesReg i reg then t else if fixed then log t else (log s).machineCheck c 2 0 10 0 0 0 0)
  | .layerBus a =>
    let log (s : State) : State := s.logError 1 true 0 0 (c * 2 ^ 24 + a)
    let poison (s : State) : State := s.modCore c (fun k => k.poisonSector a)
    let check (s : State) : State := (log s).machineCheck c 3 (c * 2 ^ 24 + a) 11 0 0 0 0
    .next (match onLocal a with
      | none => t
      | some .store => poison (log t)
      | some .atomic => check (poison s)
      | some _ => check s)
  | .localWord a syn fixed => if (onLocal a).isNone then .next t else (s.localError c a 0 syn.toNat fixed).performAhead f
  | .l1Parity .. | .sliceWord .. | .granule .. => onParts
  | .saWord w syn fixed =>
    if majorOf f.word ≠ 0x24 then .next t
    else named (fun h => (s.vectorError (saSlice h) (saIndex h) w 0 syn.toNat fixed).performAhead f)
  | .queueStore => named (fun h =>
      if i.isQenq && ((t.slice (h / 256)).qdesc (h % 256)).tail != ((s.slice (h / 256)).qdesc (h % 256)).tail then
        (s.queueParity (h / 256) (h % 256) true).performAhead f
      else .next t)
  | .queueEntry => named (fun h =>
      if i.isQdeq && ((t.slice (h / 256)).qdesc (h % 256)).head != ((s.slice (h / 256)).qdesc (h % 256)).head then
        (s.queueParity (h / 256) (h % 256) false).performAhead f
      else .next t)
  | .taintParity reg =>
    let used := if reg < 32 then namesReg i reg
      else if reg < 40 then (List.range 16).any (fun r => namesReg i (128 + 16 * (reg - 32) + r))
      else pops f.word i == some (reg - 40)
    if used then (s.modMe (fun k => k.saturate reg)).performAhead f else .next t

/-- Words that no later load performs before: system and solver words, synchronisation, LMFENCE and LAUNCH. FENCE, ACQ
and acquire accesses discard early loads where they take effect. -/
def barsLoads (f : Fetched) : Bool :=
  [0x01, 0x27, 0x3E].contains (majorOf f.word) || f.instr == .lmfence ||
    match f.instr with | .launch .. => true | _ => false

/-- The early loads that stand once the current core has issued an instruction: none past one that orders later loads,
none whose address register a TMRG has tainted, none of local-store bytes that it has read or written (R123). -/
def State.orderEarly (s t : State) (f : Fetched) : State :=
  if t.me.early.isEmpty then t
  else
    let r := (s.prefixed f).requestOf f.instr
    let stays (e : Early) : Bool := !barsLoads f
      && (match f.instr with | .tmrg d _ 0 => !e.regs.contains d.toNat | _ => true)
      && (match r with
        | some r => r.space != 1 || e.acc.space != 1
            || !e.acc.parts.any (fun p => r.spans.any (fun x => meetsSpan p.pa p.size (x.1 % 2 ^ 21) x.2))
        | none => true)
      && (e.acc.space != 0 || !(majorOf f.word == 0x3C || f.instr.isMfst || f.instr.isCpyfi))
    t.modMe (fun k => { k with early := k.early.filter stays })

/-- What a turn from `s` leaves once it has issued its instruction and led to `t`: the early loads that stand, and a
control word's outcome out of its queue (R226). -/
noncomputable def State.afterIssue (s t : State) (f : Fetched) : State :=
  if !s.issuedIn t then t
  else if isControl f.word then (s.orderEarly t f).freeGrant (outcomeReserve s.cur)
  else s.orderEarly t f

/-- Issues an instruction: it waits for the array's checks (R436) and for its registers, executes, and meets the error
that `errors` has for it. While the array's checks are outstanding a MEPI alone issues, and traps only after them. -/
noncomputable def State.issueOne (s : State) (f : Fetched) : Res :=
  let checks := (s.square (squareOf s.cur)).gang.isSome
  if checks && !f.instr.isMepi then .next s.idle
  else if s.me.hazard f.instr then .next s.idle
  else
    let s := s.withWord f.word
    let used (us : List (Option Upset)) (r : Res) : Res := match r with
      | .next t => .next { t with errors := us }
      | r => r
    match s.performAhead f, s.errors with
    | .next t, us =>
      if t.stalled && !s.issuedIn t then .next t
      else if checks && !s.issuedIn t then .next s.idle
      else
        let issued := s.issuedIn t
        let t := s.afterIssue t f
        match us with
        | some u :: us =>
          if !issued then used us (.next t)
          else if u.stops && (checks || s.gangLoads (squareOf s.cur)) then .next s.idle
          else used us (s.meet t u f)
        | none :: us => used us (.next t)
        | [] => .next t
    | r, _ => r

/-! ## Early loads (R38, R124, R139) -/

/-- The address registers of a load that may perform early. -/
def earlyRegs : Instr → Option (List R5)
  | .ldl _ a _ _ => some [a]
  | .ld _ a _ _ => some [a]
  | .lqr a _ _ => some [a]
  | .lqg a b _ _ _ => some [a, b]
  | .ldloc _ a _ => some [a]
  | .ldvir _ a b _ _ => some [a, b]
  | .ldphy _ a _ => some [a]
  | _ => none

/-- An early load as an access: its parts, where every check passes. -/
def State.earlyParts (s : State) (r : Request) : List Part :=
  let w := s.whoOf s.cur 0
  let w := match r.ctx with | some c => { w with ctx := c } | none => w
  if r.space = 1 then
    if r.spans.all (fun e => e.2 != 0 && match s.me.checkLocal e.1 e.2 with | .ok _ => true | _ => false) then
      localParts 32 r.spans
    else []
  else
    let cs := r.spans.mapIdx (fun i e => s.checkSpace w r.space .load r.mods.cache e.1 e.2 (i * e.2))
    if cs.all (fun c => match c with | .ok _ => true | _ => false) then
      cs.flatMap (fun c => match c with | .ok ps => ps | _ => [])
    else []

/-- A load that begins early performs: a bank and a home slice serve it at once or not at all; a request to another
device or the host leaves, and its answer may come later. -/
def State.beginEarly (s : State) (regs : List Nat) (x : Access) : State :=
  if x.parts.isEmpty ∨ !s.mayPerform s.cur x then s
  else
    let keep (s : State) (x : Access) : State := s.modMe (fun k => { k with
      serial := k.serial + 1, early := k.early ++ [{ regs := regs, acc := x }] })
    if x.space = 1 then
      keep s { x with parts := x.parts.map (fun p =>
        let bs := s.me.lsBytes p.pa p.size
        { p with isDone := true, data := bs.map (·.1), pois := bs.any (·.2) }) }
    else
      let (t, x) := s.performAll s.cur x x.parts
      if x.parts.all (·.isDone) then keep t x
      else if memoryOf x.space = 2 then s
      else (keep t { x with sent := true }).sendOut x.requests

/-- While the current core waits, the load `n` words from its program counter, in either direction, performs (R38, R124,
R138, R139): plain or relaxed, its address ready and untainted, no acquire before it in flight, and a slot free for it
(R134). Branches order nothing. What an instruction that executes before it orders or changes discards it
(`State.orderEarly`). -/
noncomputable def State.loadEarly (s : State) (n : Nat) : State :=
  let k := s.me
  let pc := k.arch.pc + BitVec.ofNat 64 (4 * n)
  let idle := k.inflight.any (fun b => b.acquires) || k.early.any (fun e => e.acc.pc == pc) || k.freeSlotNo.isNone
  match if idle then .hold else s.fetchWord pc with
  | .ok (w, false) => match s.readAt pc w with
    | .ok f =>
      (match f.instr, earlyRegs f.instr, (s.prefixed f).requestOf f.instr with
      | .mfst f l _, _, _ =>
        if l = 0 then
          match (s.square (squareOf s.cur)).gang with
          | some g =>
            let pops := g.op.fifoA == f.toNat || g.op.fifoB == f.toNat
            let v := s.fifoState (squareOf s.cur) f.toNat + if pops then 2 ^ 23 else 0
            let x := { s.issued (mkAccess .load 0 privMods 8 .discard none
              [{ mkPart 0 0 8 0 0 with isDone := true, data := natBytes 8 v }]) with pc := pc }
            s.modMe (fun k => { k with serial := k.serial + 1, early := k.early ++ [{ regs := [], acc := x }] })
          | none => s
        else s
      | _, some rs, some r =>
        let m := r.mods
        let privileged := decide (0x2A ≤ majorOf f.word)
        let ns := rs.map BitVec.toNat
        if 2 ≤ m.ord ∨ (privileged ∧ k.level = 0) ∨ ns.any (fun a => a != 0 && Map.has k.pend a) ∨ rs.any k.sideOf ∨ k.tainted ns then s
        else
          let a := mkAccess .load r.space m 0 .discard none (s.earlyParts r)
          s.beginEarly ns { s.issued { a with ctx := r.ctx.getD a.ctx } with pc := pc }
      | _, _, _ => s)
    | _ => s
  | _ => s

/-- What `peeks` says of a core that waits. -/
noncomputable def State.peek (s : State) : State :=
  match s.peeks with
  | [] => s
  | n :: ns => ({ s with peeks := ns } : State).loadEarly n

end Sys2Proof.Machine
end

