-- ==== Sys2Proof/Machine/Turn.lean ====
section
/-! DEFINITION. Turns: forwarding in a phalanx (R187 to R189), shadows (R210), which agent moves next, and the placing of
one instruction. -/

namespace Sys2Proof.Machine

/-! ## Phalanxes (R187 to R189) -/

/-- LAG of a core's launch. -/
def State.lagOf (s : State) (c : Nat) : Nat := match s.launchOf c with
  | some (_, _, l) => l.lag
  | none => 0

/-- Whether a leader's instruction, executed from `s` to `t`, goes to its followers: issued at level 0. -/
def forwards (s t : State) : Bool := s.me.level == 0 && s.issuedIn t

/-- Whether a QPITER has run an iteration and not ended (R453): neither the program counter nor the loops have moved. -/
def unfinished (s t : State) (f : Fetched) : Bool :=
  f.instr.isQpiter && (t.core s.cur).arch.pc == s.me.arch.pc && (t.core s.cur).arch.seq0 == s.me.arch.seq0

/-- Sends an instruction to the followers of the core that issued it: QPITER once, when it ends, since each follower
counts the iterations of its own block. -/
def State.sendForward (s t : State) (f : Fetched) : State :=
  let k := t.core s.cur
  let w : Forward := { pc := s.me.arch.pc, words := f.words, nextPc := k.arch.pc, seq := k.arch.seq0, arrived := false }
  if !forwards s t || unfinished s t f then t
  else (s.followersOf s.cur).foldl (fun t c => t.modCore c (fun k => { k with inbox := k.inbox ++ [w] })) t

/-- A leader's or a lone core's turn. -/
noncomputable def State.leadTurn (s : State) : Res :=
  if (s.followersOf s.cur).any (fun c => decide (s.lagOf s.cur ≤ (s.core c).inbox.length)) then .next s.idle
  else match s.fetch with
    | .inr t => .next t
    | .inl f => match s.issueOne f with
      | .next t => .next (s.sendForward t f)
      | r => r

/-- A forwarded instruction as the follower decodes it. -/
noncomputable def State.readForward (s : State) (w : Forward) : Checked Fetched :=
  match w.words with
  | [w1] => match readWord w1 with
    | some i =>
      let i := match s.me.seq.rpt with
        | some r => i.stagger (r.pass * r.stagger)
        | none => i
      .ok { words := [w1], instr := i, pre := none }
    | none => .fault (illegalAt w1 w.pc)
  | [w1, w2] => match readWord w1, readWord w2 with
    | some p, some i => .ok { words := [w1, w2], instr := i, pre := some p }
    | _, _ => .fault (illegalAt w1 w.pc)
  | _ => .hold

/-- A follower's turn: it executes the oldest instruction that has arrived against its own state, and traps PHALANX
where its branch, jump or pass count differs from the leader's (R189, R358). -/
noncomputable def State.followTurn (s : State) : Res :=
  match s.me.inbox with
  | [] => .next s.idle
  | w :: _ =>
    if !w.arrived then .next s.idle
    else match s.readForward w with
      | .hold => .next s.idle
      | .fault t => .next ((s.withWord (w.words.headD 0)).trap t)
      | .ok f => match s.issueOne f with
        | .next t =>
          let k := t.core s.cur
          let done := !t.stalled || t.parked s.cur
          if !k.following ∨ !done ∨ unfinished s t f then .next t
          else if isControl f.word ∧ s.issuedIn t ∧ (k.arch.pc ≠ w.nextPc ∨ k.arch.seq0 ≠ w.seq) then
            .next ((s.withWord f.word).trap { code := Cause.phalanx })
          else .next (t.modCore s.cur (fun k => { k with inbox := k.inbox.drop 1 }))
        | r => r

/-! ## Whose turn it is -/

/-- The turn of the current core: a stop that is due, else its instruction. While a stop waits for older loads, nothing
younger issues (R270). -/
noncomputable def State.turn (s : State) : Res :=
  match s.pendingStop s.cur with
  | some r => if s.dueStop s.cur = some r then .next (s.takeStop s.cur r) else .next s.idle
  | none =>
    if s.me.task.isNone || s.me.stopped.isSome || s.parked s.cur then .next s.idle
    else if s.me.following then s.followTurn
    else s.leadTurn

/-- The placement that the placement engine gives when the agenda gives none: the lowest free squares, and for each
shadow the lowest that is two hops from its primary (R210). -/
def State.firstFit (s : State) (l : Launch) : List Nat :=
  let owned := s.ownedSquares
  let free := (List.range Config.squares).filter (fun q => !(s.square q).withheld && !owned.contains q)
  let own := free.take l.squares
  if !l.dbl then own
  else own.foldl (fun place p =>
    match free.find? (fun q => !place.contains q && decide (2 ≤ hopsBetween p q)) with
    | some q => place ++ [q]
    | none => place) own

/-- Internal events of a core. -/
noncomputable def Core.events (c : Nat) (k : Core) : List Instr :=
  k.inflight.flatMap (fun a => [.homeSliceRequest c a.id 0, .refusalRetry c { no := a.id, hint := 1 }])
    ++ k.cmds.map (fun x => .engineCommandPerform c { no := x.id, hint := 1 })
    ++ (if k.saWait.isSome then [.saSliceApply c] else [])
    ++ (if k.inbox.any (fun w => !w.arrived) then [.instructionForward c] else [])
    ++ (if k.stopReq.isEmpty then [] else [.coreStop c])
    ++ (if k.layerA.busy then [.layerPowerDown c false, .layerTransitionDone c false] else [])
    ++ (if k.layerB.busy then [.layerPowerDown c true, .layerTransitionDone c true] else [])
    ++ (k.buses.filter (fun b => b.2.repairing)).map (fun b => .busRetrainDone c b.1 true)
    ++ (k.banks.filter (fun b => b.2.waiting)).map (fun b => .bankPromotionStart c b.1)

/-- Internal events of a square. -/
noncomputable def State.squareEvents (s : State) (q : Nat) (k : Square) : List Instr :=
  let bound := (coresOf q).any (fun c => (s.core c).task.isSome)
  (if k.xbuf.isEmpty then [] else (List.range 4).map (fun i => .exchangeEntryPerform q { no := 4 * q + i, hint := 1 }))
    ++ (if (coresOf q).any (fun c => (s.core c).gangWait.isSome) then [.gangStart q] else [])
    ++ (if k.gang.isSome then [.gangResidueCheck q 0 0 0 0] else [])
    ++ (if bound || !k.slotMsgs.isEmpty then [.slotStart q] else [])

/-- Internal events of a launch. -/
noncomputable def State.launchEvents (s : State) (id : Nat) (l : Launch) : List Instr :=
  if l.isOver then []
  else if l.saved then [.restore id (s.firstFit l)]
  else
    l.barrLevels.flatMap (fun lv =>
      if l.spansDevices lv then []
      else (((List.range l.count).map (l.instOf lv)).eraseDups).map (fun i => .barrierComplete id lv i))
      ++ (List.range l.count).filterMap (fun t =>
          if (l.task t).begun ∨ (l.task t).ended then none else some (.taskBind id t))
      ++ (if l.preempting then [.save id] else [])

/-- The hashes that shadows have sent reach their primaries' routers (R211). -/
noncomputable def State.hashEvents (s : State) : List Instr :=
  s.cores.filterMap (fun e => match e.2.hashWait, s.shadowCore e.1 with
    | some _, some q => (s.core q).hashWait.map (fun h => .doubledHashCompare e.1 h)
    | _, _ => none)
    ++ s.squares.flatMap (fun e => e.2.slotMsgs.filterMap (fun m => m.hashes.map (fun h => .doubledHashCompare m.core h.2)))

/-- The device's internal events, in the order in which the model lets them happen (notes/assumptions/5.md). -/
noncomputable def State.internals (s : State) : List Instr :=
  s.cores.flatMap (fun e => Core.events e.1 e.2)
    ++ s.squares.flatMap (fun e => s.squareEvents e.1 e.2)
    ++ (s.cores.filter (fun e => e.2.gangWait.isSome)).map (fun e => .gangStart (squareOf e.1))
    ++ s.msgs.flatMap (fun e => [.routerForward e.1, .messageDelivery e.1, .slotReturn e.1])
    ++ s.reds.flatMap (fun e => match s.redTree e.2 with
        | some (l, tr, ms, root) => (l.treeSquares tr ms root).flatMap (fun n =>
            [.reductionCombine e.1 n] ++ if e.2.flushing then [.flushArrive e.1 n] else [])
        | none => [])
    ++ s.launches.flatMap (fun e => s.launchEvents e.1 e.2)
    ++ (s.lines.filter (fun e => e.2.filling != 0)).map (fun e => .sliceFillDone e.1 ⟨0, []⟩)
    ++ (s.lines.filter (fun e => e.2.writing != 0)).map (fun e => .writeBackDone ⟨e.1, ⟨0, []⟩⟩)
    ++ (s.slices.filter (fun e => !(s.owed e.1).isEmpty || !e.2.leaving.isEmpty)).map (fun e => .saEvictionRetry e.1)
    ++ s.delivered.map (fun e => .remoteAccess e.dev e.what.key e.what.ofs e.what.kind e.what.size e.what.data)
    ++ s.invals.flatMap (fun e =>
        e.2.toReach.map (fun u => if e.2.revoke then .revocationRequest e.1 u else .invalidationRequest e.1 u)
          ++ e.2.toAck.map (fun u => .invalidationAck e.1 u))
    ++ (List.range 16).flatMap (fun q =>
        if (s.lqueue q).active then [.leaseWalk q, .schedulerSelect (s.firstFit (s.headLaunch q))] else [])
    ++ (s.cores.filter (fun e => !e.2.uops.isEmpty)).map (fun e => .laneGroupArbitration (squareOf e.1))
    ++ s.hashEvents

/-- The state that an event leads to. -/
def State.after (s : State) (e : Instr) : State :=
  match exec e s with
  | .next t => { t with stalled := false }
  | _ => s

/-- The next core that can run, after `cur` in core order. -/
def State.nextCore (s : State) : Nat :=
  let runs := (s.cores.filter (fun e => e.2.task.isSome && e.2.stopped.isNone)).map (·.1)
  ((runs.filter (fun c => decide (s.cur < c))).head?.or runs.head?).getD s.cur

/-- The internal event that happens while the current core waits: the first that changes anything. -/
noncomputable def State.choice (s : State) : Option Instr := List.find? (fun e => decide (s.after e ≠ s)) s.internals

/-- What happens while the current core waits: an internal event; with none, a nanosecond passes and the next core has its
turn. -/
noncomputable def State.background (s : State) : Res :=
  match s.choice with
  | some e => .next (s.after e)
  | none => .next { s.accrue with cur := s.nextCore }

/-- The state in which the core whose turn it is has it. -/
def State.ready (s : State) : State :=
  match s.turns with
  | c :: cs => { s with cur := c, turns := cs, stalled := false }
  | [] => { s with stalled := false }

/-- The current core waits, and what `peeks` says of it has happened. -/
noncomputable def State.waiting (s : State) : State := ({ s with stalled := false } : State).peek

/-- The step with an empty agenda: the core whose turn it is, and the device while that core waits. -/
noncomputable def State.onTurn (s : State) : Res :=
  match s.ready.turn with
  | .next t => if t.stalled then t.waiting.background else .next t
  | r => r

/-! ## Doubled execution (R210 to R212, R215) -/

/-- The launches under way that are doubled, by number. -/
def State.doubled (s : State) : Map Launch := s.launches.filter (fun e => e.2.dbl && !e.2.isOver && !e.2.saved)

/-- A shadow core in its primary's place: its own registers, control state, local store and snapshot, with the work that
stands at the primary. -/
def Core.twinOf (own primary : Core) : Core :=
  { own with
    taint := primary.taint, loads := primary.loads, loadSeq := primary.loadSeq, pend := primary.pend,
    inflight := primary.inflight, serial := primary.serial, pendMod := primary.pendMod, l1 := primary.l1,
    l1Errors := primary.l1Errors, l1Off := primary.l1Off, tlb := primary.tlb, armed := primary.armed,
    gangWait := primary.gangWait, sleep := primary.sleep, cmds := primary.cmds, early := primary.early,
    uops := primary.uops, deficit := primary.deficit, saWait := primary.saWait, task := primary.task,
    lastCtx := primary.lastCtx, stopReq := primary.stopReq, stopped := primary.stopped, following := primary.following,
    inbox := primary.inbox, hashPass := primary.hashPass, ended := primary.ended, redWait := primary.redWait }

/-- The state with the shadows of doubled tasks in their primaries' places, and the errors that they meet. -/
def State.twin (s : State) : State :=
  s.doubled.foldl (fun u e => e.2.pairs.foldl (fun u (p, q) =>
    ((List.range 4).foldl (fun u j => u.setCore (4 * p + j) ((s.core (4 * q + j)).twinOf (s.core (4 * p + j)))) u).modSquare p
      (fun k => { k with fifos := (s.square q).fifos })) u) { s with errors := s.shadowErrors }

/-- The value of a load outside the local store is the primary's in both copies (R210): `t` is what the primary's
instruction leaves, `v` its shadow's. -/
noncomputable def State.forwardLoad (s t v : State) : State :=
  match s.upNext with
  | none => v
  | some f =>
    let far := match (s.prefixed f).requestOf f.instr with
      | some r => r.space != 1 && r.kind != .store
      | none => f.instr.isQdeq
    if far && s.issuedIn t && s.issuedIn v then
      v.modMe (fun k => f.instr.writes.foldl (fun k r => k.setX r (t.me.x r) (t.me.sideOf r) (k.taintOf r.toNat)) k)
    else v

/-- What the shadows make of the step that the primaries take: the same event, or the same core's turn, in which copies go
in step unless one has fallen behind, and the event that happens while the primary waits. -/
noncomputable def State.twinned (s : State) : Res :=
  let u := s.twin
  match s.agenda with
  | e :: es => if e.isEvent then exec e { u with agenda := es } else .next u
  | [] => match s.ready.turn, u.ready.turn with
    | .next t, .next v =>
      let ahead := t.stalled && !v.stalled && u.ready.me.arch.pc == s.ready.me.arch.pc
      let v := if ahead then u.ready
        else if s.ready.me.arch.pc = u.ready.me.arch.pc then s.ready.forwardLoad t v else v
      let v := { v with stalled := false }
      .next (match if t.stalled then t.waiting.choice else none with
        | some e => v.after e
        | none => v)
    | _, r => r

/-- How often a launch has been taken back or lost a task. -/
def State.setbacks (s : State) (e : Nat × Launch) : Nat :=
  ((s.launch? e.1).map (fun l => l.ends.length)).getD 0
    + e.2.pairs.foldl (fun a (p, _) => a + (s.square p).superstep * 3 + (s.square p).takeBacks) 0

/-- The shadows take over what their primaries hold. -/
def State.mirror (s : State) (e : Nat × Launch) : State :=
  e.2.pairs.foldl (fun s (p, q) =>
    ((List.range 4).foldl (fun s j => s.modCore (4 * q + j) (fun own => own.shadowOf (s.core (4 * p + j)) e.2.ctx)) s).modSquare q
      (fun k => { k with fifos := (s.square p).fifos })) s

/-- The shadows of a launch after a step from `s` to `t`, of which they have made `u`: an event that changes a shadow core
itself has it so. -/
def State.adopt (s u t : State) (e : Nat × Launch) : State :=
  e.2.pairs.foldl (fun t (p, q) =>
    ((List.range 4).foldl (fun t j =>
      let c := 4 * q + j
      if t.core c = s.core c then t.modCore c (fun own => (u.core (4 * p + j)).asShadow own e.2.ctx) else t) t).modSquare q
        (fun k => { k with fifos := (u.square p).fifos })) t

/-- What a step from `s` leaves, with the shadows of the launches that were doubled before it (R210, R212): an event that takes
back a superstep or ends a task in one copy does so in both. -/
noncomputable def State.shadowed (s t : State) : State :=
  match s.doubled with
  | [] => t
  | ds => match s.twinned with
    | .next u =>
      let moved := ds.any (fun e => e.2.pairs.any (fun (p, _) =>
        (List.range 4).any (fun j => decide (u.core (4 * p + j) ≠ s.twin.core (4 * p + j)))))
      let left (v : State) : State := { v with shadowErrors := if moved then u.errors else s.shadowErrors }
      if ds.any (fun e => decide (t.setbacks e < u.setbacks e)) then
        left (ds.foldl State.mirror { u with errors := t.errors })
      else if ds.any (fun e => decide (u.setbacks e < t.setbacks e)) then left (ds.foldl State.mirror t)
      else left (ds.foldl (fun v e => s.adopt u v e) t)
    | _ => ds.foldl State.mirror t

/-! ## A step -/

/-- A device whose boot has failed serves another cold reset and the host's reads of BOOTST, and nothing else (R264). -/
def isServed (e : Instr) : Bool := e.isColdReset || e.isHostAccess

/-- What happens next: the agenda's next event, or a turn. -/
noncomputable def State.proceed (s : State) : Res :=
  match s.agenda with
  | e :: es =>
    if s.bootFailed && !isServed e then .fault .bootStopped
    else if e.isEvent then exec e { s with agenda := es }
    else .next { s with agenda := es }
  | [] => if s.bootFailed then .fault .bootStopped else s.onTurn

/-- One step of the package. -/
noncomputable def State.advance (s : State) : Res :=
  match s.proceed with
  | .next t => .next (s.shadowed t)
  | r => r

/-! ## Placing one instruction (notes/assumptions/20.md) -/

/-- The address at which `placeWord` lays the instruction. -/
def placeAt : Nat := 0x10000

/-- A launch record of one square in context 1, with gang and solver, leasing the first GiB. -/
def placeRecord : BitVec 2048 :=
  BitVec.ofNat 2048 (1 + 2 ^ 8 + 2 ^ 17 + 2 ^ 21 + 2 ^ 30 + 2 ^ 34 + placeAt / 4 * 2 ^ 66 + 3 * 2 ^ 536
    + (2 ^ 14 * 2 ^ 64 + 2 ^ 105 + 2 ^ 106) * 2 ^ 1024)

/-- Tables at 0x1000, 0x2000 and 0x3000 that map the first GiB onto itself. -/
def placeTables (s : State) : State :=
  let put (s : State) (a v : Nat) : State := s.wrBytes a (markBytes false (natBytes 8 v))
  put (put (put s 0x1000 0x2001) 0x2000 0x3001) 0x3000 0xF

/-- The state in which a task of a fresh launch runs on the current core with an instruction's words at its program
counter, the word on record as the fetch leaves it. -/
def State.placeWord (s : State) (w : Nat) : State :=
  let sq := squareOf s.cur
  let id := s.launchId
  let t := s.cur % 4
  let l := { (Launch.ofRecord 0 0) with record := placeRecord, place := [sq], tasks := [(t, { Task.reset with bound := true, begun := true })] }
  let s := { s with launches := Map.put s.launches id l, launchId := id + 1, agenda := [], turns := [], stalled := false,
                    bootFailed := false, invals := [], errors := [], peeks := [] }
  let s := s.modContext 1 (fun c => { c with
    inForce := Map.put (Map.put c.inForce 0x43 0x1000) 0x44 1, written := Map.put (Map.put c.written 0x43 0x1000) 0x44 1,
    revoked := [] })
  let s := s.modSquare sq (fun q => { q with gang := none, tlb := [] })
  let s := s.modMe (fun k => { k with
    task := some (id, t), level := 0, tlb := [], stopReq := [], stopped := none, sleep := none, following := false, inbox := [],
    early := [], pend := [], pendMod := none, gangWait := none, saWait := none, word := BitVec.ofNat 32 w
    arch := { k.arch with pc := BitVec.ofNat 64 placeAt, seq0 := SeqCtx.reset } })
  let s := (placeTables s).wrBytes placeAt (markBytes false (natBytes 8 (w % 2 ^ 32)))
  { s with memPois := Map.erase (Map.erase (Map.erase (Map.erase s.memPois (placeAt / 32)) 0x80) 0x100) 0x180 }

end Sys2Proof.Machine
end

