-- ==== Sys2Proof/Machine/Step.lean ====
section
/-! DEFINITION. One step of the package, and a state that runs a given instruction word next. -/

namespace Sys2Proof.Machine

/-- One step (`State.advance`). -/
noncomputable def step (s : State) : Host.Outcome State Fault Refusal := s.advance

/-- `s` with an instruction of the opcode table placed where `step` fetches next, by a launch bound for it: the device
runs programs only in tasks (notes/assumptions/20.md). -/
def State.withFetchWord (s : State) (_nbits w : Nat) : State := s.placeWord w

end Sys2Proof.Machine
end

