-- ==== Sys2Proof/Safety.lean ====
section
/-! DEFINITION. The words the claims use: a step that completes, the memories' canonical form, and what a core's
instruction leaves as it was. -/

namespace Sys2Proof.Machine

/-- A step or an instruction that goes on to a next state. -/
def Completes (r : Host.Outcome State Fault Refusal) : Prop := ∃ t, r = .next t

/-- Device memory is in its one canonical form. -/
abbrev State.memOk (s : State) : Prop := Memory.wf s.lost s.mem = true

/-- Every core's local store is in its one canonical form. -/
abbrev State.localOk (s : State) : Prop := ∀ e ∈ s.cores, Memory.wf none e.2.ls = true

/-- `k'` goes on where `k` goes on when its instruction retires (R353 to R356). -/
structure Core.Flows (k k' : Core) : Prop where
  pc : k'.arch.pc = k.retire.arch.pc
  seq0 : k'.arch.seq0 = k.retire.arch.seq0
  seq1 : k'.seq1 = k.retire.seq1
  seq2 : k'.seq2 = k.retire.seq2
  pendMod : k'.pendMod = none

/-- `k'` is `k` after an instruction that wrote scalar register `d` alone, with value `v`, side bit `p` and taint
`n`, and retired. A write to s0 is discarded (R182). -/
structure Core.Wrote (k k' : Core) (d : R5) (v : Dword) (p : Bool) (n : Taint) : Prop where
  value : ∀ r, k'.x r = if r = d ∧ r ≠ 0 then v else k.x r
  side : ∀ r, k'.sideOf r = if r = d ∧ r ≠ 0 then p else k.sideOf r
  taint : ∀ r : Nat, k'.taintOf r = if r = d.toNat ∧ r ≠ 0 then n else k.taintOf r
  flows : k.Flows k'
  /-- A load that has read its address there early performs again (R138). -/
  early : k'.early = if d = 0 then k.early else k.early.filter (fun e => !e.regs.contains d.toNat)
  /-- Everything else is as it was. -/
  frame : k' = { k with
    arch := { k.arch with pc := k'.arch.pc, regs := k'.arch.regs, side := k'.arch.side, seq0 := k'.arch.seq0 },
    seq1 := k'.seq1, seq2 := k'.seq2, taint := k'.taint, early := k'.early, pendMod := none }

/-- `k'` is `k` after an instruction that changed nothing but where execution goes on. -/
structure Core.Passed (k k' : Core) : Prop where
  flows : k.Flows k'
  frame : k' = { k with
    arch := { k.arch with pc := k'.arch.pc, seq0 := k'.arch.seq0 }, seq1 := k'.seq1, seq2 := k'.seq2, pendMod := none }

/-- `k'` is `k` after a taken branch or a jump to `t`: the top loop entry that does not contain `t`, and every
further one, is popped (R354). -/
structure Core.Jumped (k k' : Core) (t : Dword) : Prop where
  pc : k'.arch.pc = t
  loops : k'.seq.loops = k.seq.loops.dropWhile (fun e => !(decide (e.start.toNat ≤ t.toNat) && decide (t.toNat ≤ e.stop.toNat)))
  rpt : k'.seq.rpt = k.seq.rpt
  frame : k' = { k with
    arch := { k.arch with pc := k'.arch.pc, seq0 := k'.arch.seq0 }, seq1 := k'.seq1, seq2 := k'.seq2, pendMod := none }

/-- No register of `rs` holds poison or waits for a load. -/
def Core.Clear (k : Core) (rs : List R5) : Prop :=
  (∀ r ∈ rs, k.sideOf r = false) ∧ (k.taints (rs.map BitVec.toNat)).isEmpty = true

/-- The current core's task is not one of a doubled launch, whose messages wait for their hashes. -/
def State.Single (s : State) : Prop := ∀ id u l, s.launchOf s.cur = some (id, u, l) → l.dbl = false

/-- The current core's choices are neither recorded nor replayed. -/
def State.Unlogged (s : State) : Prop := ∀ id u l, s.launchOf s.cur = some (id, u, l) → l.scr = 0

/-- `t` is `s` after an instruction of the current core that issued command `w` on timeline `tl`, under the next number
of that timeline, and retired. A slot may have been taken for the command's register. -/
structure State.Issued (s t : State) (w : CmdKind) (tl : BitVec 3) : Prop where
  cur : t.cur = s.cur
  flows : s.me.Flows t.me
  cmds : ∃ x : Cmd, t.me.cmds = s.me.cmds ++ [x] ∧ x.word = w ∧ x.tl = tl.toNat ∧ x.pc = s.me.arch.pc ∧
    x.num = Map.get 0 s.me.arch.tlIssued tl.toNat + 1 ∧ x.number = s.me.arch.sendNo
  number : ∀ j, Map.get 0 t.me.arch.tlIssued j = Map.get 0 s.me.arch.tlIssued j + if j = tl.toNat then 1 else 0
  /-- Its messages take their numbers at issue (R209). -/
  sends : t.me.arch.sendNo = s.me.arch.sendNo + w.messages
  arch : t.me.arch = { s.me.arch with pc := t.me.arch.pc, seq0 := t.me.arch.seq0, tlIssued := t.me.arch.tlIssued
                                      sendNo := t.me.arch.sendNo }
  /-- Everything else of the core is as it was. -/
  frame : t.me = { s.me with
    arch := t.me.arch, seq1 := t.me.seq1, seq2 := t.me.seq2, cmds := t.me.cmds, serial := s.me.serial + 1, pendMod := none,
    taint := t.me.taint, pend := t.me.pend, loads := t.me.loads, loadSeq := t.me.loadSeq }
  memory : t.mem = s.mem ∧ t.memPois = s.memPois

/-- `k'` is `k` after engine command `x` has performed (R145, R306): it has left, its flags are in RMODE, and its
timeline's counter has moved over the complete prefix of the numbers performed. Its effect on the local store, the L1
and the take-back store is said apart. -/
structure Core.CmdDone (k k' : Core) (x : Cmd) : Prop where
  cmds : k'.cmds = k.cmds.filter (fun y => y.id != x.id)
  flags : k'.arch.rmode = k.arch.rmode ||| x.flags
  counter : let key (n : Nat) := 2 ^ 64 * x.tl + n
    let done := k.arch.tlAhead ++ [key x.num]
    let n := Map.get 0 k'.arch.tlCount x.tl
    Map.get 0 k.arch.tlCount x.tl ≤ n ∧ (∀ i, Map.get 0 k.arch.tlCount x.tl < i → i ≤ n → key i ∈ done) ∧ key (n + 1) ∉ done
  others : ∀ j, j ≠ x.tl → Map.get 0 k'.arch.tlCount j = Map.get 0 k.arch.tlCount j
  arch : k'.arch = { k.arch with rmode := k'.arch.rmode, tlCount := k'.arch.tlCount, tlAhead := k'.arch.tlAhead }
  frame : k' = { k with arch := k'.arch, cmds := k'.cmds, ls := k'.ls, lsPois := k'.lsPois, l1 := k'.l1,
                        snapshot := k'.snapshot, journal := k'.journal, ended := k'.ended }

/-! ## Vector results (R396 to R402) -/

/-- A row operand: its bits, side bit and taint. -/
abbrev Operand := Row × Bool × Taint

/-- Row designator `r` as an operand. -/
def Core.rowOperand (k : Core) (r : R7) : Operand := (k.row r.toNat, k.rowSideOf r.toNat, k.taintOf (tileTaint r.toNat))

/-- A scalar register as an operand: its low word in every lane. -/
def Core.splatOperand (k : Core) (r : R5) : Operand :=
  (rowSplat ((k.x r).toNat % 2 ^ 32), k.sideOf r, k.taintOf r.toNat)

/-- The q operand of a queue-sourced form (R397): a scalar, or the filled head of a load queue, which a q below 4 pops.
`base` is the core after the pop. -/
def Core.QOperand (k : Core) (q : R5) (o : Operand) (base : Core) : Prop :=
  if 8 ≤ q.toNat then o = k.splatOperand q ∧ base = k
  else ∃ (e : QEntry) (es : List QEntry), k.queue (q.toNat % 4) = e :: es ∧ e.filled = true ∧
    o = (e.data, e.pois, e.taint) ∧ base = if q.toNat < 4 then k.setQueue q.toNat es else k

/-- `k'` is `k` after a vector instruction that wrote row `d` alone, with side bit `p`, from sources of taints `ts`,
set the flags `fl` in RMODE, pushed its micro-operation and retired. -/
structure Core.WroteRow (k k' : Core) (d : R7) (v : Row) (p : Bool) (fl : Dword) (ts : List Taint) : Prop where
  value : ∀ r, k'.row r = if r = d.toNat then v else k.row r
  side : ∀ r, k'.rowSideOf r = if r = d.toNat then p else k.rowSideOf r
  taint : ∀ q, k'.taintOf q = if q = tileTaint d.toNat then
    (k.taintOf q).union k.loads (ts.foldl (fun t u => t.union k.loads u) Taint.clean) else k.taintOf q
  flags : k'.arch.rmode = k.arch.rmode ||| fl
  uop : ∃ u, k'.uops = k.uops ++ [u]
  flows : k.Flows k'
  /-- Everything else is as it was. -/
  frame : k' = { k with
    arch := { k.arch with pc := k'.arch.pc, seq0 := k'.arch.seq0, rows := k'.arch.rows, rowSide := k'.arch.rowSide,
                          rmode := k'.arch.rmode },
    seq1 := k'.seq1, seq2 := k'.seq2, taint := k'.taint, uops := k'.uops, pendMod := none }

/-- Lane `i` of a floating-point operand is poison (R400). -/
def Operand.bad (o : Operand) (i : Nat) : Bool := o.2.1 || lane o.1 i == Fmt.f32.poison

/-- The instruction writes row `d` lane by lane from floating-point operands: a lane with a poison source is poison and
raises no flag, and a poison lane sets the side bit (R400). -/
def State.GivesFp (s : State) (base : Core) (i : Instr) (d : R7) (os : List Operand) (g : List Nat → Rounded) : Prop :=
  ∃ (k' : Core) (v : Row), exec i s = .next (s.setMe k') ∧
    base.WroteRow k' d v ((List.range 64).any (fun j => os.any (fun o => o.bad j)))
      ((List.range 64).foldl (fun f j =>
        if os.any (fun o => o.bad j) then f else f ||| (g (os.map (fun o => lane o.1 j))).flags) 0)
      (os.map (fun o => o.2.2)) ∧
    ∀ j < 64, lane v j = if os.any (fun o => o.bad j) then Fmt.f32.poison else (g (os.map (fun o => lane o.1 j))).bits

/-- The instruction writes row `d` lane by lane from integer or raw operands: a poisoned source sets the side bit. -/
def State.GivesInt (s : State) (base : Core) (i : Instr) (d : R7) (os : List Operand) (g : List (BitVec 32) → BitVec 32) :
    Prop :=
  ∃ (k' : Core) (v : Row), exec i s = .next (s.setMe k') ∧
    base.WroteRow k' d v (os.any (fun o => o.2.1)) 0 (os.map (fun o => o.2.2)) ∧
    ∀ j < 64, v.extractLsb' (32 * j) 32 = g (os.map (fun o => o.1.extractLsb' (32 * j) 32))

/-! ## Gang operations (R420 to R431) -/

/-- The four cores of a square have issued gang operation `g`, whose records are `a` and `b`, and it may start: its
checks pass, its FIFOs hold its operands, and its column's tempo is its own. -/
structure State.GangReady (s : State) (sq : Nat) (g : GangIssue) (a b : ShapeRec) (nfa nfb : Option Narrow) : Prop where
  launch : ∃ id u l, s.launchOf (4 * sq) = some (id, u, l) ∧
    ∀ t < l.count, squareOf (l.pcore t) = sq → (l.task t).ended = false
  first : (s.core (4 * sq)).gangWait = some g
  issued : ∀ c < 4, ∃ gc, (s.core (4 * sq + c)).gangWait = some gc ∧ gc.armed = true ∧
    (s.core (4 * sq + c)).gangKey gc = (s.core (4 * sq)).gangKey g
  level : ∀ c < 4, (s.core (4 * sq + c)).level = 0
  idle : (s.square sq).gang = none
  recA : a = ShapeRec.of ((s.core (4 * sq)).gangRecs g).1 ∧ nfa = (s.core (4 * sq)).recFmt a
  recB : b = ShapeRec.of ((s.core (4 * sq)).gangRecs g).2 ∧ nfb = (s.core (4 * sq)).recFmt b
  formats : ∀ n ∈ namedFmts a b, (Narrow.ofReg (Map.get 0 (s.core (4 * sq)).arch.fmts n)).valid = true ∧
    (Narrow.ofReg (Map.get 0 (s.core (4 * sq)).arch.fmts n)).split = false
  suits : formSuits g.form a b nfa nfb = true
  inner : a.cols = b.rows
  metas : g.form = formMmas → ∀ c < 4, Map.has (s.core (4 * sq + c)).arch.metas g.sel = true
  bytes : ∀ e ∈ gangNeeds g (streamBytes g.form true a nfa) (streamBytes g.form false b nfb),
    e.2 ≤ Config.fifoBytes ∧ e.2 ≤ ((s.square sq).fifo e.1).bytes.length
  turn : (((if (s.square sq).tempoAsked then s.tempoQueue else s.tempoQueue ++ [sq]).filter (fun q =>
    columnOf q == columnOf sq && decide ((s.gangIssued q).length = 4))).head?) = some sq
  tempo : 1000 * gangTokens g a.rows b.cols a.cols ≤ (s.column (columnOf sq)).milli

/-- The operand bytes of a gang operation: A's, then B's, which follow A's in a FIFO that they share (R425). -/
def State.gangBytes (s : State) (sq : Nat) (g : GangIssue) (na nb : Nat) : PBytes × PBytes :=
  let fa := (s.square sq).fifo g.fifoA
  let fb := if g.fifoB = g.fifoA then fa.pop false na else (s.square sq).fifo g.fifoB
  (fa.head na, fb.head nb)

/-- `t` is `s` after gang operation `g` has run on square `sq`. -/
structure State.GangRan (s t : State) (sq : Nat) (g : GangIssue) (a b : ShapeRec) (nfa nfb : Option Narrow) : Prop where
  /-- Every element of the result (R430); the others of its rows, and rows beyond M, are as they were. -/
  cells : ∀ c < 4, ∀ r < 16, ∀ j < 64,
    let k := s.core (4 * sq + c)
    let na := streamBytes g.form true a nfa
    let nb := streamBytes g.form false b nfb
    let pair := g.form = formMma64 ∨ g.form = formMmac
    let line := (operandLines g.form true a nfa (s.gangBytes sq g na nb).1).getD (16 * c + r) []
    let line := if g.form = formMmas then denseLine ((Map.get [] k.arch.metas g.sel).getD r 0) a.cols line else line
    let col := (operandLines g.form false b nfb (s.gangBytes sq g na nb).2).getD j []
    let hi := if pair then g.acc + 1 else g.acc
    let cell := gangCell g.form (if nfa.isSome || nfb.isSome then 8 else 4)
      (if g.zero then 0 else lane (k.acc g.acc r) j) (if g.zero then 0 else lane (k.acc hi r) j) line col
    let k' := t.core (4 * sq + c)
    (16 * c + r < a.rows → j < b.cols → lane (k'.acc g.acc r) j = cell.1 ∧ (pair → lane (k'.acc hi r) j = cell.2.1)) ∧
    ((a.rows ≤ 16 * c + r ∨ b.cols ≤ j) → lane (k'.acc g.acc r) j = lane (k.acc g.acc r) j ∧
      lane (k'.acc hi r) j = lane (k.acc hi r) j)
  accs : ∀ c < 4, ∀ m < 4, m ∉ g.accs → ∀ r < 16, (t.core (4 * sq + c)).acc m r = (s.core (4 * sq + c)).acc m r
  flows : ∀ c < 4, (s.core (4 * sq + c)).Flows (t.core (4 * sq + c))
  /-- Nothing else of the four cores changes. -/
  frame : ∀ c < 4, let k := s.core (4 * sq + c); let k' := t.core (4 * sq + c)
    k' = { k with arch := { k.arch with pc := k'.arch.pc, seq0 := k'.arch.seq0, accs := k'.arch.accs },
                  seq1 := k'.seq1, seq2 := k'.seq2, gangWait := none, pendMod := none }
  others : ∀ c, squareOf c ≠ sq → t.core c = s.core c
  fifos : ∀ i, ((t.square sq).fifo i).bytes = ((s.square sq).fifo i).bytes.drop
    ((if i = g.fifoA then streamBytes g.form true a nfa else 0) + (if i = g.fifoB then streamBytes g.form false b nfb else 0))
  /-- Its checks trail (R434). -/
  trails : ∃ x, (t.square sq).gang = some x ∧ x.op = g ∧ x.replays = 0 ∧ x.epilogue = false
  tempo : (t.column (columnOf sq)).milli = (s.column (columnOf sq)).milli - 1000 * gangTokens g a.rows b.cols a.cols
  memory : t.mem = s.mem

/-! ## Stream-accumulator operations (R163 to R177, R438, R475) -/

/-- Core `c`'s request `r` passes its slice's checks, and the slice can serve it: `s1` is the state once the vector is
resident, or once an eviction has written it back. -/
structure State.SaReady (s : State) (c : Nat) (r : SaReq) (s1 : State) : Prop where
  handle : r.handle.toNat < 2 ^ 16
  vector : let v := s.vec (saSlice r.hnd) (saIndex r.hnd); v.valid = true ∧ v.ctx = s.ctxOf c ∧ r.off < 64 * v.nr
  offset : r.off % 64 = 0
  slice : (s.square (saSlice r.hnd)).withheld = false
  ways : s.ways (s.ctxOf c) ≠ 0
  captured : r.op = saOpNrm → (if r.slot = 0 then (s.vec (saSlice r.hnd) (saIndex r.hnd)).sv0
    else (s.vec (saSlice r.hnd) (saIndex r.hnd)).sv1) = true
  gain : r.op = saOpGain → r.addr.toNat % 64 = 0
  row : r.op = saOpNrm → ∃ at', r.gain = some at' ∧ (s1.saGain c at').isSome = true
  ready : let sl := saSlice r.hnd; let i := saIndex r.hnd
    if r.op = saOpClr then s1 = s ∧ ((s.square (squareOf c)).revocable = false ∨ (s.vec sl i).st < 2)
    else if r.op = saOpEvict then
      if (s.vec sl i).st = 1 then s.hasUndo sl i = false ∧ s.saBusy c sl i true = false ∧
        s.evictVec sl i (if r.fmt = 2 then (s.vec sl i).compact else r.fmt == 1) = .ok s1
      else s1 = s
    else s.saResident c sl i = (s1, .ok ())

/-- Core `c`'s request `r` has been applied, `s1` being the state with the vector at hand: the instruction has
retired, and the vector and the core hold what the operation gives them. -/
structure State.SaApplied (s s1 t : State) (c : Nat) (r : SaReq) : Prop where
  flows : (s.core c).Flows (t.core c)
  answered : (t.core c).saWait = none
  /-- SAADD (R163, R164): each element takes its addend, rounded once into W40, and S the difference of the squares, each rounded
once into FP64, in ascending order; poison stays, and every 4,096th add recomputes S. -/
  add : r.op = saOpAdd → let u := s1.vec (saSlice r.hnd) (saIndex r.hnd); let v := t.vec (saSlice r.hnd) (saIndex r.hnd)
    (∀ j, v.elem j = if r.off ≤ j ∧ j < r.off + 64 then
        let d := saSource (r.fmt == 1) r.row r.pois (j - r.off)
        if d = w40Poison ∨ u.elem j = w40Poison then w40Poison
        else BitVec.ofNat 40 (Fmt.w40.round .rne (FVal.sum .rne [Fmt.w40.val (u.elem j).toNat, Fmt.w40.val d.toNat])).bits
      else u.elem j) ∧
    let poisoned := (List.range 64).any (fun j => v.elem (r.off + j) == w40Poison)
    let sum := (List.range 64).foldl (fun (s : Dword) j =>
      let xn := Fmt.w40.val (v.elem (r.off + j)).toNat
      let xo := Fmt.w40.val (u.elem (r.off + j)).toNat
      let c := (Fmt.f64.round .rne ((FVal.sum .rne [xn, xo.negate]).mul (FVal.sum .rne [xn, xo]))).bits
      if s = f64Poison ∨ poisoned = true then f64Poison
      else BitVec.ofNat 64 (Fmt.f64.round .rne (FVal.sum .rne [Fmt.f64.val s.toNat, Fmt.f64.val c])).bits) u.sumSq
    v.cnt = (u.cnt + 1) % 2 ^ 32 ∧ v.sumSq = (if v.cnt % 4096 = 0 then ({ u with elems := v.elems } : SaVec).resquare.sumSq else sum) ∧
    v = { u with elems := v.elems, cnt := v.cnt, sumSq := v.sumSq }
  /-- SACLR (R173). -/
  clear : r.op = saOpClr → let u := s1.vec (saSlice r.hnd) (saIndex r.hnd); let v := t.vec (saSlice r.hnd) (saIndex r.hnd)
    (∀ j, v.elem j = 0) ∧ v.sumSq = 0 ∧ v.cnt = 0 ∧ v.sv0 = false ∧ v.sv1 = false ∧ v.lossy = false ∧
    v.gen = (u.gen + 1) % 2 ^ 24 ∧ v.valid = u.valid ∧ v.nr = u.nr ∧ v.ctx = u.ctx ∧ v.back = u.back ∧ v.gaddr = u.gaddr
  /-- SAFENCE (R171): the sum of squares, as it stands or recomputed, is captured in its slot. -/
  fence : r.op = saOpFence → let u := s1.vec (saSlice r.hnd) (saIndex r.hnd)
    let u := if r.fmt = 1 then u.resquare else u
    t.vec (saSlice r.hnd) (saIndex r.hnd) = (if r.slot = 0 then { u with slot0 := u.sumSq, sv0 := true }
      else { u with slot1 := u.sumSq, sv1 := true }) ∧
    (r.scope ≠ 0 → (t.core c).l1 = [])
  /-- SAEVICT, SALOAD, SANRM and SASQ leave the vector as `s1` has it; SAGAIN writes its gain address alone. -/
  other : (r.op = saOpEvict ∨ r.op = saOpLoad ∨ r.op = saOpNrm ∨ r.op = saOpSq) →
    t.vec (saSlice r.hnd) (saIndex r.hnd) = s1.vec (saSlice r.hnd) (saIndex r.hnd)
  sagain : r.op = saOpGain → t.vec (saSlice r.hnd) (saIndex r.hnd) =
    { s1.vec (saSlice r.hnd) (saIndex r.hnd) with gaddr := r.addr.toNat / 64 }
  /-- SANRM pushes its row (R167, R168); SASQ writes the sum of squares (R170). -/
  queues : ∀ q, (t.core c).queue q = (s.core c).queue q ++ (if r.op = saOpNrm ∧ q = r.dest then
    [{ serial := (s.core c).serial, data := (match s1.saGain c (r.gain.getD []) with
        | some g => saNormalise (s1.vec (saSlice r.hnd) (saIndex r.hnd)) r.off r.slot (r.fmt == 1) r.eps g
        | none => 0), pois := false, taint := Taint.clean, filled := true }] else [])
  regs : ∀ x, (t.core c).x x = if r.op = saOpSq ∧ x = BitVec.ofNat 5 r.dest ∧ x ≠ 0 then
    (s1.vec (saSlice r.hnd) (saIndex r.hnd)).sumSq else (s.core c).x x
  /-- No other vector, no byte of memory and no byte of the local store changes after `s1`. -/
  vectors : ∀ sl i, (sl, i) ≠ (saSlice r.hnd, saIndex r.hnd) → t.vec sl i = s1.vec sl i
  memory : t.mem = s1.mem ∧ (t.core c).ls = (s.core c).ls

/-- Every task of domain instance `i` that has not ended takes PHASE, in `t`, where it stands in `s` (R476). -/
def State.PhaseTraps (s t : State) (l : Launch) (d i : Nat) : Prop :=
  ∀ v ∈ l.instTasks d i, (l.task v).ended = false →
    let c := l.pcore v
    (t.core c).level = 1 ∧ (t.core c).arch.pc = s.tvec c ∧ (t.core c).epc = (s.core c).arch.pc ∧
    ((t.core c).ecause.extractLsb' 0 8).toNat = Cause.phase

/-- `t` is `s` after the barrier of level `lv` has completed for the tasks `ts` of launch `id` (R153, R202, R205): each
that has not ended computes again, past its BAR. -/
structure State.BarrierDone (s t : State) (id lv : Nat) (l : Launch) (ts : List Nat) : Prop where
  launch : ∃ l', t.launch? id = some l' ∧ l'.record = l.record ∧ l'.pending = l.pending ∧ ∀ u, l'.task u =
    if u ∈ ts ∧ (l.task u).ended = false then { l.task u with phase := .compute } else l.task u
  cores : ∀ u ∈ ts, (l.task u).ended = false → let c := l.pcore u
    (s.core c).Flows (t.core c) ∧ (t.core c).l1 = (if l.lscope lv = 0 then (s.core c).l1 else []) ∧
    (t.core c).ls = (s.core c).ls ∧ (∀ r, (t.core c).x r = (s.core c).x r) ∧ (∀ r, (t.core c).row r = (s.core c).row r)
  /-- A core whose task has ended invalidates its L1 too (R153). -/
  ended : ∀ u ∈ ts, (l.task u).ended = true → let c := l.pcore u
    (t.core c).l1 = if l.lscope lv = 0 then (s.core c).l1 else []
  /-- A global barrier begins the next superstep, revocable with TB = 1. -/
  superstep : ∀ u ∈ ts, let q := squareOf (l.pcore u)
    (l.globalLevel = some lv → (t.square q).superstep = (s.square q).superstep + 1 ∧
      (l.tb = true → (t.square q).revocable = true ∧ (t.square q).takeBacks = 0)) ∧
    (l.globalLevel ≠ some lv → t.square q = s.square q)
  memory : t.mem = s.mem

end Sys2Proof.Machine
end

