-- ==== Sys2Proof/Certificates/Slice0/Obligations.lean ====
section
/-! DEFINITION. The statements for the provers. -/

open Sys2Proof Sys2Proof.Machine

/-- Worked words of the spec decode to their instructions. Words that the spec works out bit by bit, one or more of
every class of majors, decode to the instruction they stand for. (R311, R312, R314, R335, R349, R362, R376, R390.) -/
def Obligations.SpecWordsDecode : Prop :=
  decode 0x04531F00 = .ok (.add 0 5 6 7 3) ∧ decode 0x855A5304 = .ok (.xor 1 21 20 20 3) ∧
  decode 0x14512345 = .ok (.lim 0 5 0x12345) ∧ decode 0x18531F80 = .ok (.fadd 0 5 6 7 7 0) ∧
  decode 0x22507FFA = .ok (.bne 0 5 0 0x7FFA) ∧ decode 0x30280600 = .ok (.loop 0 5 3) ∧
  decode 0x31018007 = .ok (.rpt 0 1 7) ∧ decode 0xB2980000 = .ok (.mod 2 3 0 0 0) ∧
  decode 0xB5484008 = .ok (.ldl 20 16 2 8) ∧ decode 0xC2000018 = .ok (.fence 3) ∧
  decode 0xC6080000 = .ok (.chsend 16 0) ∧ decode 0xCA429801 = .ok (.lmcopy 4 5 6 0) ∧
  decode 0xDB4A8300 = .ok (.ldphy 20 21 3) ∧ decode 0x60D4AA53 = .ok (.vfma 0x35 0x15 0x25) ∧
  decode 0x6E160003 = .ok (.vext 5 0x40 0) ∧ decode 0x7A205A10 = .ok (.mepi 0 2 20 1)

/-- Decoding the word of any well-formed encoded instruction gives it back. For every well-formed instruction that has
an encoding, decoding its word gives the instruction with every operand at its value: no bit of any encoding is
dropped. (R310, R311, R312, R314.) -/
def Obligations.EncodeThenDecode : Prop :=
  ∀ (i : Instr) (w : Word), i.wellFormed = true → encode i = some w → decode w = .ok i

/-- A word that decodes is the word of its instruction. Every word that the decoder accepts is the one word that the
encoder gives its instruction, so no two words stand for one instruction and every bit of an accepted word is read
or checked. (R311, R315.) -/
def Obligations.DecodeThenEncode : Prop :=
  ∀ (w : Word) (i : Instr), decode w = .ok i → encode i = some w

/-- Reserved majors and markers that a major does not permit are no instruction. A word whose bits 30 to 25 are 0x00,
0x0E, 0x0F or 0x3F is refused as a reserved major, whatever its other bits. A word of the memory class, majors 0x19
to 0x23, 0x25 to 0x29 and 0x2A to 0x2F, with marker 0, and a word of a vector, matrix, solver or stream-accumulator
major, 0x24 and 0x30 to 0x3E, with marker 1, is refused. (R314, R315.) -/
def Obligations.WordsThatDecodeToNothing : Prop :=
  ∀ w : Word,
    let m := (w.extractLsb' 25 6).toNat
    ((m = 0x00 ∨ m = 0x0E ∨ m = 0x0F ∨ m = 0x3F) → decode w = .error .reservedMajor) ∧
    (((w.getLsbD 31 = false ∧ 0x19 ≤ m ∧ m ≤ 0x2F ∧ m ≠ 0x24) ∨ (w.getLsbD 31 = true ∧ (m = 0x24 ∨ (0x30 ≤ m ∧ m ≤ 0x3E)))) →
      ∃ e, decode w = .error e)

/-- Every instruction answers a next state, and a step takes the next event first. exec answers a next state for every
instruction in every state. step answers a next state whenever boot has not failed; after a failed boot it is a
fault unless the next event of the agenda is a cold reset or an access by the host, which is taken. When the head of
the agenda is an event and boot has not failed, step is exec of that event in the state without it, which the
shadows of doubled launches take too; an entry that is no event is dropped. (R264, R1.) The agenda is the model's
own input (notes/assumptions/5.md). -/
def Obligations.StepAnswers : Prop :=
  (
  (∀ (i : Instr) (st : State), ∃ t, exec i st = .next t) ∧
  (∀ st : State, st.bootFailed = false → ∃ t, step st = .next t) ∧
  (∀ st : State, st.bootFailed = true → (∀ e es, st.agenda = e :: es → isServed e = false) →
    step st = .fault .bootStopped) ∧
  (∀ (st : State) (e : Instr) (es : List Instr), st.agenda = e :: es → isServed e = true → ∃ t, step st = .next t))
  ∧ (
  ∀ (st : State) (e : Instr) (es : List Instr), st.agenda = e :: es → st.bootFailed = false →
    (e.isEvent = true → ∃ t, exec e { st with agenda := es } = .next t ∧ step st = .next (st.shadowed t)) ∧
    (e.isEvent = false → step st = .next (st.shadowed { st with agenda := es })))

/-- A step runs the instruction decoded from the bytes at the program counter. With nothing on the agenda, in the turn
of a core that runs a task, leads no followers, stands in no frame and has no stop pending, in a package that runs
no doubled launch, with no error to meet: when the four unpoisoned bytes that its fetch translation leads to decode
to a well-formed instruction other than MOD and RPT, whose registers await no load, step puts the word on record and
is exec of the instruction, after which the early loads that it orders or changes are gone and a control word's
outcome has left its queue; where that leaves the core waiting, the device has its turn instead. (R22, R183, R310,
R318.) -/
def Obligations.StepRunsDecoded : Prop :=
  ∀ (st t : State) (ps : List Part) (b0 b1 b2 b3 : Byte) (i : Instr),
    st.agenda = [] → st.turns = [] → st.stalled = false → st.bootFailed = false → st.doubled = [] →
    st.me.task.isSome = true → st.me.stopped = none → st.pendingStop st.cur = none → st.parked st.cur = false → st.me.following = false → st.followersOf st.cur = [] →
    st.me.seq.rpt = none → st.errors = [] → (st.square (squareOf st.cur)).gang = none →
    st.check2 (st.whoOf st.cur 1) .fetch 0 st.me.arch.pc.toNat 4 0 = .ok ps →
    ps.flatMap (fun p => st.rdBytes p.pa p.size) = [(b0, false), (b1, false), (b2, false), (b3, false)] →
    decodeBytes [b0, b1, b2, b3] = .ok (i, []) → i.wellFormed = true → i.isMod = false → i.frame? = none →
    st.me.hazard i = false → (∀ q, i.pushes = some q → (st.me.queue q).length < 8) →
    let u := st.withWord (wordOfBytes b0 b1 b2 b3)
    exec i u = .next t →
    let t' := if t.stalled ∧ u.issuedIn t = false then t else u.afterIssue t { words := [wordOfBytes b0 b1 b2 b3], instr := i, pre := none }
    step st = if t'.stalled then t'.waiting.background else .next t'

/-- A MOD and the word after it run as one instruction in one step. Under the conditions of StepRunsDecoded, when the
word at the program counter is a MOD outside the end of a loop body and the next word is a prefixable well-formed
instruction that accepts its fields, step executes both: the prefix, which keeps its fields for the pair, and then
the instruction, with the early loads and the outcome queue as for one word. (R317, R318.) -/
def Obligations.StepRunsPair : Prop :=
  ∀ (st t u : State) (w1 w2 : Word) (o sc p : BitVec 3) (c : BitVec 2) (n : BitVec 1) (i : Instr),
    st.agenda = [] → st.turns = [] → st.stalled = false → st.bootFailed = false → st.doubled = [] →
    st.me.task.isSome = true → st.me.stopped = none → st.pendingStop st.cur = none → st.parked st.cur = false → st.me.following = false → st.followersOf st.cur = [] →
    st.me.seq.rpt = none → st.errors = [] → (st.square (squareOf st.cur)).gang = none →
    st.me.endsLoop st.me.arch.pc = false →
    st.fetchWord st.me.arch.pc = .ok (w1, false) → st.fetchWord (st.me.arch.pc + 4) = .ok (w2, false) →
    readWord w1 = some (.mod o sc p c n) → prefixable w2 = true → readWord w2 = some i → i.acceptsMod o p n = true →
    st.me.hazard i = false → (∀ q, i.pushes = some q → (st.me.queue q).length < 8) →
    let v := st.withWord w2
    exec (.mod o sc p c n) v = .next t → exec i t = .next u →
    let u' := if u.stalled ∧ v.issuedIn u = false then u else v.afterIssue u { words := [w1, w2], instr := i, pre := some (.mod o sc p c n) }
    t.me.pendMod = some { ord := o.toNat, space := p.toNat, scope := sc.toNat, cache := c.toNat, nt := n == 1 } ∧
    step st = if u'.stalled then u'.waiting.background else .next u'

/-- What cold reset leaves. After reset no core runs a task, every context is empty of values beyond its registers'
reset values, device memory and every local store read zero and hold no poison, every launch queue is disabled with
HEAD, TAIL and COUNT 0, every port is dark with EN = 0, PREDL is 240,000, SAEPS is 0x358637BD, MDEF is device scope
and device virtual, and both memories are in canonical form. (R266, R166, R273, R216.) -/
def Obligations.ResetState : Prop :=
  let s := State.reset
  (∀ c, (s.core c).task = none ∧ (s.core c).level = 0) ∧ (∀ a, s.rd a = 0 ∧ s.rdPois a = false) ∧
  (∀ c a, (s.core c).lsRd a = 0 ∧ (s.core c).lsRdPois a = false) ∧
  (∀ q, (s.lqueue q).enabled = false ∧ (s.lqueue q).head = 0 ∧ (s.lqueue q).tail = 0 ∧ (s.lqueue q).count = 0) ∧
  (∀ n, (s.context n).cr 0x49 = 240000 ∧ (s.context n).cr 0x0B = 0x358637BD ∧ (s.context n).cr 0x48 = 0) ∧
  (∀ p, (s.port p).cfg.getLsbD 0 = false ∧ (s.port p).lit = false) ∧ (∀ c, (s.core c).arch.mdef = 0xC0) ∧
  s.launches = [] ∧ s.memOk ∧ s.localOk

/-- Every step keeps device memory in its one canonical form. From every state whose device memory lists its bytes in
strictly rising order, none equal to what an unlisted byte reads as, a step gives a state whose memory has that
form. (R14, R263, R266.) -/
def Obligations.StepKeepsMemory : Prop :=
  ∀ s t : State, s.memOk → step s = .next t → t.memOk

/-- Trap entry saves, records, raises the level and goes to the handler; ERET undoes it. A trap of a handled cause, on a
core below level 2 whose older loads have performed and whose context has a handler: at level 1 EPC, ECAUSE, FADDR
and FSTART are copied to the X registers; the new record is written, EPC naming the instruction or, for a cause that
says so, the next one; the level rises by one; the program counter is TVEC; taint is empty; all else of the core,
the other cores, memory and the device is as the stop left it. ERET at level 2 brings the four registers back from
the X copies and goes on at level 1, at level 1 it goes on at level 0, each at EPC, and on reaching level 0 the
core's timed messages that missed two slots may go; at level 0 it traps PRIV. (R272, R248.) FADDR and FSTART 0 of
the PRIV trap are the model's choice, and so is STR of a stop (notes/assumptions/10.md). The model's choice or
reading, no rule's: where the tests of a loop's or frame's last word are made (notes/assumptions/9.md). -/
def Obligations.TrapEntryAndReturn : Prop :=
  (∀ (st : State) (t : TrapInfo), st.me.loadsOut = false → t.forGang = false → st.tvec st.cur ≠ 0 → st.me.level ≠ 2 →
    (t.code = Cause.lease → st.me.level ≠ 0) →
    let k := st.me
    ∃ k', st.trap t = st.setMe k' ∧ k'.level.val = k.level.val + 1 ∧ k'.arch.pc = st.tvec st.cur ∧
      k'.epc = (if t.next then k.retire.arch.pc else k.arch.pc) ∧ k'.ecause = k.causeWord t (st.stopWord st.cur t) ∧ k'.faddr = t.faddr ∧
      k'.fstart = t.fstart ∧ (∀ r, k'.taintOf r = Taint.clean) ∧ k'.seq = SeqCtx.reset ∧
      (k.level = 1 → k'.xepc = k.epc ∧ k'.xcause = k.ecause ∧ k'.xfaddr = k.faddr ∧ k'.xfstart = k.fstart) ∧
      (k.level = 0 → k'.xepc = k.xepc ∧ k'.xcause = k.xcause ∧ k'.xfaddr = k.xfaddr ∧ k'.xfstart = k.xfstart) ∧
      k' = { k with
        arch := { k.arch with pc := k'.arch.pc, seq0 := k'.arch.seq0 }, seq1 := k'.seq1, seq2 := k'.seq2,
        level := k'.level, epc := k'.epc, ecause := k'.ecause, faddr := k'.faddr, fstart := k'.fstart, xepc := k'.xepc,
        xcause := k'.xcause, xfaddr := k'.xfaddr, xfstart := k'.xfstart, taint := [], pendMod := none,
        following := false, inbox := [], early := [], redWait := none }) ∧
  (∀ (st : State) (m : BitVec 1), let k := st.me
    (k.level = 0 → exec (.eret m) st = .next (st.trapWith Cause.priv 0 0)) ∧
    (k.level ≠ 0 → ∃ k', exec (.eret m) st = .next (if k.level = 1 ∧ (st.square (squareOf st.cur)).slotMsgs ≠ []
        then (st.setMe k').slotsAgain st.cur else st.setMe k') ∧ k'.arch.pc = k.epc ∧ k'.level.val + 1 = k.level.val ∧
      (k.level = 2 → k'.epc = k.xepc ∧ k'.ecause = k.xcause ∧ k'.faddr = k.xfaddr ∧ k'.fstart = k.xfstart) ∧
      (k.level = 1 → k'.epc = k.epc ∧ k'.ecause = k.ecause ∧ k'.faddr = k.faddr ∧ k'.fstart = k.fstart) ∧
      k' = { k with
        arch := { k.arch with pc := k'.arch.pc, seq0 := k'.arch.seq0 }, seq1 := k'.seq1, seq2 := k'.seq2,
        level := k'.level, epc := k'.epc, ecause := k'.ecause, faddr := k'.faddr, fstart := k'.fstart, pendMod := none }))

/-- The cause register of a trap, and the traps that end the task. For a cause code and a sub-code below 256: bits 7:0
are the code, bits 9:8 the level at which the trap was taken, bit 10 is zero, bit 11 the stream of the stop point's
word, bits 12 to 15 the engine, deferred, walk and wrap flags, bits 23:16 the sub-code, and bits 63:24 are zero.
Where the context has no handler, the core stands at level 2, or the cause is LEASE at level 0, a trap whose older
loads have performed ends the task: it is over with the trap's cause, the launch records the cause last, the core is
free, and the launch's other tasks are as they were. (R273, R271, R274, R275.) The model's choice or reading, no
rule's: FADDR or FSTART 0 where no rule states a value, and STR of a stop (notes/assumptions/10.md). -/
def Obligations.CauseRegisterAndTaskEnd : Prop :=
  (
  ∀ (k : Core) (t : TrapInfo) (w : Word), t.code < 256 → t.sub < 256 →
    let v := k.causeWord t w
    (v.extractLsb' 0 8).toNat = t.code ∧ (v.extractLsb' 8 2).toNat = k.level.val ∧ v.getLsbD 10 = false ∧
    v.getLsbD 11 = w.getLsbD 31 ∧ v.getLsbD 12 = t.engine ∧ v.getLsbD 13 = t.deferred ∧ v.getLsbD 14 = t.walk ∧
    v.getLsbD 15 = t.wrap ∧ (v.extractLsb' 16 8).toNat = t.sub ∧ v.extractLsb' 24 40 = 0)
  ∧ (
  ∀ (st : State) (t : TrapInfo) (id n : Nat) (l : Launch), st.me.loadsOut = false → t.forGang = false →
    (st.tvec st.cur = 0 ∨ st.me.level = 2 ∨ (t.code = Cause.lease ∧ st.me.level = 0)) →
    st.launchOf st.cur = some (id, n, l) → st.me.sleep = none →
    ((st.trap t).core st.cur).task = none ∧
    ∃ l', (st.trap t).launch? id = some l' ∧ (l'.task n).ended = true ∧ (l'.task n).cause = BitVec.ofNat 8 t.code ∧
      l'.ends = l.ends ++ [(n, BitVec.ofNat 8 t.code)] ∧ (∀ m, m ≠ n → l'.task m = l.task m))

/-- Integer register-register operations write the sign-extended result of their width. Each of the eighteen operations
of major 0x02 completes in every state: it writes d with its result on the low w bits of a and b, sign-extended from
w bits (the comparisons write 1 or 0), the side bit is set when a source's is, the taint is the union of the
sources', a write to s0 is discarded, and nothing else of the package changes but where execution goes on. (R335.) -/
def Obligations.IntegerResults : Prop :=
  ∀ (st : State) (m : BitVec 1) (d a b : R5) (z : BitVec 2),
    let w := 8 * 2 ^ z.toNat
    let x := (st.me.x a).setWidth w
    let y := (st.me.x b).setWidth w
    let n := y.toNat % w
    let gives (i : Instr) (v : Dword) : Prop := ∃ k', exec i st = .next (st.setMe k') ∧
      st.me.Wrote k' d v (st.me.sideOf a || st.me.sideOf b) (st.me.taints [a.toNat, b.toNat])
    gives (.add m d a b z) ((x + y).signExtend 64) ∧ gives (.sub m d a b z) ((x - y).signExtend 64) ∧
    gives (.and m d a b z) ((x &&& y).signExtend 64) ∧ gives (.or m d a b z) ((x ||| y).signExtend 64) ∧
    gives (.xor m d a b z) ((x ^^^ y).signExtend 64) ∧ gives (.andn m d a b z) ((x &&& ~~~y).signExtend 64) ∧
    gives (.sll m d a b z) ((x <<< n).signExtend 64) ∧ gives (.srl m d a b z) ((x >>> n).signExtend 64) ∧
    gives (.sra m d a b z) ((x.sshiftRight n).signExtend 64) ∧ gives (.rol m d a b z) ((x.rotateLeft n).signExtend 64) ∧
    gives (.ror m d a b z) ((x.rotateRight n).signExtend 64) ∧
    gives (.slt m d a b z) (if x.toInt < y.toInt then 1 else 0) ∧ gives (.sltu m d a b z) (if x.toNat < y.toNat then 1 else 0) ∧
    gives (.seq m d a b z) (if x = y then 1 else 0) ∧
    gives (.min m d a b z) ((if x.toInt ≤ y.toInt then x else y).signExtend 64) ∧
    gives (.max m d a b z) ((if y.toInt ≤ x.toInt then x else y).signExtend 64) ∧
    gives (.minu m d a b z) ((if x.toNat ≤ y.toNat then x else y).signExtend 64) ∧
    gives (.maxu m d a b z) ((if y.toNat ≤ x.toNat then x else y).signExtend 64)

/-- Multiply, divide and bit-count operations write their results and never trap. Each of the thirteen operations of
major 0x03 completes in every state with the result of its table row, sign-extended from w bits; division by zero
gives all ones and a remainder equal to the dividend; MADD reads d as well. Side bit, taint and frame are as in
IntegerResults. (R336, R309.) -/
def Obligations.MultiplyDivideCountResults : Prop :=
  ∀ (st : State) (m : BitVec 1) (d a b : R5) (z : BitVec 2),
    let w := 8 * 2 ^ z.toNat
    let x := (st.me.x a).setWidth w
    let y := (st.me.x b).setWidth w
    let gives (i : Instr) (rs : List R5) (v : BitVec w) : Prop := ∃ k', exec i st = .next (st.setMe k') ∧
      st.me.Wrote k' d (v.signExtend 64) (rs.any st.me.sideOf) (st.me.taints (rs.map BitVec.toNat))
    gives (.mul m d a b z) [a, b] (x * y) ∧ gives (.mulh m d a b z) [a, b] (BitVec.ofInt w (x.toInt * y.toInt / 2 ^ w)) ∧
    gives (.mulhu m d a b z) [a, b] (BitVec.ofNat w (x.toNat * y.toNat / 2 ^ w)) ∧
    gives (.madd m d a b z) [a, b, d] ((st.me.x d).setWidth w + x * y) ∧
    gives (.div m d a b z) [a, b] (if y = 0 then BitVec.allOnes w else x.sdiv y) ∧
    gives (.divu m d a b z) [a, b] (if y = 0 then BitVec.allOnes w else x / y) ∧
    gives (.rem m d a b z) [a, b] (if y = 0 then x else x.srem y) ∧
    gives (.remu m d a b z) [a, b] (if y = 0 then x else x % y) ∧
    (∃ n ≤ w, (∀ i < n, x.getLsbD (w - 1 - i) = false) ∧ (n < w → x.getLsbD (w - 1 - n) = true) ∧
      gives (.clz m d a z) [a] (BitVec.ofNat w n)) ∧
    (∃ n ≤ w, (∀ i < n, x.getLsbD i = false) ∧ (n < w → x.getLsbD n = true) ∧ gives (.ctz m d a z) [a] (BitVec.ofNat w n)) ∧
    gives (.popc m d a z) [a] (BitVec.ofNat w ((List.range w).countP (fun i => x.getLsbD i))) ∧
    (∃ v : BitVec w, (∀ i < w, v.getLsbD i = x.getLsbD (w - 1 - i)) ∧ gives (.brev m d a z) [a] v) ∧
    (∃ v : BitVec w, (∀ i < w / 8, ∀ j < 8, v.getLsbD (8 * i + j) = x.getLsbD (8 * (w / 8 - 1 - i) + j)) ∧
      gives (.bswap m d a z) [a] v)

/-- Immediate, constant, compare, select and bit-field instructions. ADDI, ANDI, ORI and XORI act on 64 bits with the
sign-extended imm15; the shift immediates act as SLL, SRL, SRA and ROL with SH; SLTI and SLTIU compare with the
sign-extended imm14, signed and unsigned; LIM writes imm20 times 4,096 and ADDPC adds that to its own address, both
with an empty taint and a clear side bit. Each completes in every state, and nothing else changes but where
execution goes on. CLMUL and CLMULH write the low and high halves of the carry-less product; EXTR writes LEN bits of
a from POS, zero- or sign-extended; INS writes LEN bits of a at POS of d; SEL writes the source that sC selects,
with that source's side bit and the union of the three taints, and traps POISON where sC is poisoned. Nothing else
changes but where execution goes on. (R337, R338, R339, R340, R348.) The model's choice or reading, no rule's: FADDR
or FSTART 0 where no rule states a value, and STR of a stop (notes/assumptions/10.md). -/
def Obligations.ImmediateAndBitFieldResults : Prop :=
  (
  ∀ (st : State) (m : BitVec 1) (d a : R5),
    let x := st.me.x a
    let gives (i : Instr) (v : Dword) : Prop := ∃ k', exec i st = .next (st.setMe k') ∧
      st.me.Wrote k' d v (st.me.sideOf a) (st.me.taints [a.toNat])
    let fixed (i : Instr) (v : Dword) : Prop := ∃ k', exec i st = .next (st.setMe k') ∧ st.me.Wrote k' d v false Taint.clean
    (∀ i : BitVec 15, gives (.addi m d a i) (x + i.signExtend 64) ∧ gives (.andi m d a i) (x &&& i.signExtend 64) ∧
      gives (.ori m d a i) (x ||| i.signExtend 64) ∧ gives (.xori m d a i) (x ^^^ i.signExtend 64)) ∧
    (∀ (z : BitVec 2) (h : BitVec 6), h.toNat < 8 * 2 ^ z.toNat →
      let v := x.setWidth (8 * 2 ^ z.toNat)
      gives (.slli m d a z h) ((v <<< h.toNat).signExtend 64) ∧ gives (.srli m d a z h) ((v >>> h.toNat).signExtend 64) ∧
      gives (.srai m d a z h) ((v.sshiftRight h.toNat).signExtend 64) ∧
      gives (.roli m d a z h) ((v.rotateLeft h.toNat).signExtend 64)) ∧
    (∀ i : BitVec 14, gives (.slti m d a i) (if x.toInt < (i.signExtend 64).toInt then 1 else 0) ∧
      gives (.sltiu m d a i) (if x.toNat < (i.signExtend 64).toNat then 1 else 0)) ∧
    (∀ i : BitVec 20, fixed (.lim m d i) (i.signExtend 64 * 4096) ∧
      fixed (.addpc m d i) (st.me.arch.pc + i.signExtend 64 * 4096)))
  ∧ (
  ∀ (st : State) (m : BitVec 1) (d a b : R5),
    let x := st.me.x a
    let y := st.me.x b
    let gives (i : Instr) (rs : List R5) (v : Dword) : Prop := ∃ k', exec i st = .next (st.setMe k') ∧
      st.me.Wrote k' d v (rs.any st.me.sideOf) (st.me.taints (rs.map BitVec.toNat))
    let bit (j : Nat) : Bool := (List.range (j + 1)).foldl (fun p i => p ^^ (x.getLsbD i && y.getLsbD (j - i))) false
    let pos := (y.extractLsb' 0 6).toNat
    let len := (y.extractLsb' 8 6).toNat + 1
    (∃ v : Dword, (∀ j < 64, v.getLsbD j = bit j) ∧ gives (.clmul m d a b) [a, b] v) ∧
    (∃ v : Dword, (∀ j < 64, v.getLsbD j = bit (j + 64)) ∧ gives (.clmulh m d a b) [a, b] v) ∧
    (∀ s : BitVec 1, ∃ v : Dword, (∀ j < 64, v.getLsbD j =
        if j < len then x.getLsbD (pos + j) else (s == 1 && x.getLsbD (pos + len - 1))) ∧ gives (.extr m d a b s) [a, b] v) ∧
    (∃ v : Dword, (∀ j < 64, v.getLsbD j =
        if pos ≤ j ∧ j < pos + len then x.getLsbD (j - pos) else (st.me.x d).getLsbD j) ∧ gives (.ins m d a b) [a, b, d] v) ∧
    (∀ c : R5, (st.me.sideOf c = true → exec (.sel m d a b c) st = .next (st.trapWith Cause.poison c.toNat 0)) ∧
      (st.me.sideOf c = false → ∃ k', exec (.sel m d a b c) st = .next (st.setMe k') ∧
        st.me.Wrote k' d (if st.me.x c = 0 then y else x) (st.me.sideOf (if st.me.x c = 0 then b else a))
          (st.me.taints [a.toNat, b.toNat, c.toNat]))))

/-- Branches and jumps go to their target and leave the loops outside it. Each of the six branches compares the 64-bit
registers a and b. Where its condition holds, execution goes on at the branch's address + 4 x off15 and the loop
entries that do not contain the target are popped; where it does not, the branch falls through. A poisoned a or b
traps POISON, naming the first. Nothing else changes. JAL writes its address + 4 into d with an empty taint and a
clear side bit and goes on at its address + 4 x imm20. JALR goes on at a + imm15 and writes its address + 4 into d
with the taint of a, read before d is written; a poisoned a traps POISON, a target that is no multiple of 4 traps
ALIGN with the target in FADDR and FSTART. The loop entries that do not contain the target are popped, a link to s0
is discarded, and nothing else changes. (R349, R354, R312, R351, R352.) The model's choice or reading, no rule's:
where the tests of a loop's or frame's last word are made (notes/assumptions/9.md); FADDR or FSTART 0 where no rule
states a value, and STR of a stop (notes/assumptions/10.md). -/
def Obligations.BranchesAndJumps : Prop :=
  (
  ∀ (st : State) (m : BitVec 1) (a b : R5) (o : BitVec 15),
    let x := st.me.x a
    let y := st.me.x b
    let acts (i : Instr) (taken : Prop) : Prop :=
      (st.me.sideOf a = true → exec i st = .next (st.trapWith Cause.poison a.toNat 0)) ∧
      (st.me.sideOf a = false → st.me.sideOf b = true → exec i st = .next (st.trapWith Cause.poison b.toNat 0)) ∧
      (st.me.sideOf a = false → st.me.sideOf b = false → ∃ k', exec i st = .next (st.setMe k') ∧
        (taken → st.me.Jumped k' (st.me.arch.pc + 4 * o.signExtend 64)) ∧ (¬taken → st.me.Passed k'))
    acts (.beq m a b o) (x = y) ∧ acts (.bne m a b o) (x ≠ y) ∧ acts (.blt m a b o) (x.toInt < y.toInt) ∧
    acts (.bge m a b o) (y.toInt ≤ x.toInt) ∧ acts (.bltu m a b o) (x.toNat < y.toNat) ∧ acts (.bgeu m a b o) (y.toNat ≤ x.toNat))
  ∧ (
  ∀ (st : State) (m : BitVec 1) (d a : R5),
    let k := st.me
    let links (i : Instr) (t : Dword) (n : Taint) : Prop := ∃ k', exec i st = .next (st.setMe k') ∧ k'.arch.pc = t ∧
      (∀ r, k'.x r = if r = d ∧ r ≠ 0 then k.arch.pc + 4 else k.x r) ∧
      (∀ r, k'.sideOf r = if r = d ∧ r ≠ 0 then false else k.sideOf r) ∧
      (∀ r : Nat, k'.taintOf r = if r = d.toNat ∧ r ≠ 0 then n else k.taintOf r) ∧
      k'.seq.loops = k.seq.loops.dropWhile (fun e => !(decide (e.start.toNat ≤ t.toNat) && decide (t.toNat ≤ e.stop.toNat))) ∧
      k' = { k with
        arch := { k.arch with pc := t, regs := k'.arch.regs, side := k'.arch.side, seq0 := k'.arch.seq0 },
        seq1 := k'.seq1, seq2 := k'.seq2, taint := k'.taint, pendMod := none }
    (∀ i : BitVec 20, links (.jal m d i) (k.arch.pc + 4 * i.signExtend 64) Taint.clean) ∧
    (∀ i : BitVec 15,
      let t := k.x a + i.signExtend 64
      (k.sideOf a = true → exec (.jalr m d a i) st = .next (st.trapWith Cause.poison a.toNat 0)) ∧
      (k.sideOf a = false → t.toNat % 4 ≠ 0 → exec (.jalr m d a i) st = .next (st.trapWith Cause.align t.toNat t.toNat)) ∧
      (k.sideOf a = false → t.toNat % 4 = 0 → links (.jalr m d a i) t (k.taintOf a.toNat))))

/-- Loops, repeat frames and the MOD prefix begin. LOOP with a poisoned count traps POISON. With count 0 it acts as
though the body's last word had retired and fallen through. Otherwise it traps ILLEGAL, with its word and address in
FADDR and FSTART, where the level's stack holds four entries or its body ends beyond the top entry's; else it pushes
an entry with its first and last words and its count, and goes on at the next word. Nothing else changes. RPT with
an immediate count begins CNT + 1 passes of NM1 + 1 words at the next word with its stagger; with a register count
it traps POISON on a poisoned one, goes on after the frame when it is 0, and begins that many passes otherwise. MOD
keeps its five fields for the second word of the pair. Nothing else changes. (R353, R316, R355, R317, R318.) The
model's choice or reading, no rule's: where the tests of a loop's or frame's last word are made
(notes/assumptions/9.md); FADDR or FSTART 0 where no rule states a value, and STR of a stop
(notes/assumptions/10.md). -/
def Obligations.LoopsFramesAndPrefixes : Prop :=
  (
  ∀ (st : State) (m : BitVec 1) (c : R5) (l : BitVec 10),
    let k := st.me
    let x := k.arch.pc
    let last : Dword := x + 4 * l.setWidth 64
    (k.sideOf c = true → exec (.loop m c l) st = .next (st.trapWith Cause.poison c.toNat 0)) ∧
    (k.sideOf c = false → k.x c = 0 → k.seq.rpt = none →
      exec (.loop m c l) st = .next (st.setMe ({ k with arch := { k.arch with pc := last }, pendMod := none } : Core).retire)) ∧
    (k.sideOf c = false → k.x c ≠ 0 → (4 ≤ k.seq.loops.length ∨ ∃ e, k.seq.loops.head? = some e ∧ e.stop.toNat < last.toNat) →
      exec (.loop m c l) st = .next (st.trapWith Cause.illegal k.word.toNat k.lastWord.toNat)) ∧
    (k.sideOf c = false → k.x c ≠ 0 → k.seq.loops.length < 4 → (∀ e, k.seq.loops.head? = some e → last.toNat ≤ e.stop.toNat) →
      ∃ k', exec (.loop m c l) st = .next (st.setMe k') ∧ k'.arch.pc = x + 4 ∧ k'.seq.rpt = k.seq.rpt ∧
        k'.seq.loops = { start := x + 4, stop := last, left := (k.x c).toNat } :: k.seq.loops ∧
        k' = { k with arch := { k.arch with pc := x + 4, seq0 := k'.arch.seq0 }, seq1 := k'.seq1, seq2 := k'.seq2, pendMod := none }))
  ∧ (
  ∀ (st : State) (n g : BitVec 4),
    let k := st.me
    let begins (i : Instr) (count : Nat) : Prop := ∃ k', exec i st = .next (st.setMe k') ∧ k'.arch.pc = k.arch.pc + 4 ∧
      k'.seq = { k.seq with rpt := some { addr := k.arch.pc, count := count, pass := 0, word := 0, len := n.toNat + 1,
                                          stagger := g.toNat } } ∧
      k' = { k with arch := { k.arch with pc := k.arch.pc + 4, seq0 := k'.arch.seq0 }, seq1 := k'.seq1, seq2 := k'.seq2,
                    pendMod := none }
    (∀ c : BitVec 10, begins (.rpt n g c) (c.toNat + 1)) ∧
    (∀ c : R5, (k.sideOf c = true → exec (.rptRegisterCount n g c) st = .next (st.trapWith Cause.poison c.toNat 0)) ∧
      (k.sideOf c = false → k.x c ≠ 0 → begins (.rptRegisterCount n g c) (k.x c).toNat) ∧
      (k.sideOf c = false → k.x c = 0 → exec (.rptRegisterCount n g c) st =
        .next (st.setMe { k with arch := { k.arch with pc := k.arch.pc + 4 * (n.setWidth 64 + 2) }, pendMod := none }))) ∧
    (∀ (o s p : BitVec 3) (c : BitVec 2) (t : BitVec 1), exec (.mod o s p c t) st =
      .next (st.setMe { k with pendMod := some { ord := o.toNat, space := p.toNat, scope := s.toNat, cache := c.toNat, nt := t == 1 } })))

/-- Where execution goes on when a word retires and is fallen through. Outside a frame: with no loop entry that ends at
the word, at the next word; where the top entry ends at it and passes remain, at the entry's start with one pass
less; where its last pass ends, the entry is popped and the test is made again for the next one. Inside a frame: at
the next frame word, at the frame's first word for the next pass, and after the last pass as a word outside a frame.
(R354, R355.) The model's choice or reading, no rule's: where the tests of a loop's or frame's last word are made
(notes/assumptions/9.md). -/
def Obligations.RetirementFlow : Prop :=
  ∀ (k : Core) (es : List LoopEntry),
    let w := k.lastWord
    (k.seq.rpt = none → (∀ e ∈ k.seq.loops.head?, e.stop ≠ w) → k.retire.arch.pc = w + 4 ∧ k.retire.seq = k.seq) ∧
    (∀ e, k.seq.rpt = none → k.seq.loops = e :: es → e.stop = w → 1 < e.left →
      k.retire.arch.pc = e.start ∧ k.retire.seq = { loops := { e with left := e.left - 1 } :: es, rpt := none }) ∧
    (∀ e, k.seq.rpt = none → k.seq.loops = e :: es → e.stop = w → e.left ≤ 1 →
      k.retire = (k.setSeq { loops := es, rpt := none }).retire) ∧
    (∀ r, k.seq.rpt = some r → r.word + 1 < r.len →
      k.retire.arch.pc = w + 4 ∧ k.retire.seq = { k.seq with rpt := some { r with word := r.word + 1 } }) ∧
    (∀ r, k.seq.rpt = some r → r.len ≤ r.word + 1 → r.pass + 1 < r.count →
      k.retire.arch.pc = r.addr + 4 ∧ k.retire.seq = { k.seq with rpt := some { r with word := 0, pass := r.pass + 1 } }) ∧
    (∀ r, k.seq.rpt = some r → r.len ≤ r.word + 1 → r.count ≤ r.pass + 1 →
      k.retire = (k.setSeq { k.seq with rpt := none }).retire)

/-- Scalar floating-point arithmetic rounds once under its mode, or passes poison. FADD to FMAX complete under the mode
that RM names or, for dyn, RMODE holds: with a poisoned source (side bit or poison pattern) they write the format's
poison pattern with the side bit set and raise no flag; otherwise they write the exact result rounded into FMT,
zeros above it, with a clear side bit, and set its flags in RMODE. Taint is the union of the sources', and nothing
else changes but where execution goes on. A sampled mode of 6 or 7 faults FORMAT with FADDR the value. (R341, R343,
R295, R304, R333.) The model's choice or reading, no rule's: FADDR or FSTART 0 where no rule states a value, and STR
of a stop (notes/assumptions/10.md). -/
def Obligations.FloatArithmeticResults : Prop :=
  ∀ (st : State) (m : BitVec 1) (d a b : R5) (r : BitVec 3) (f : BitVec 2) (mode : RMode),
    let t := Fmt.ofField f
    let low (q : R5) := (st.me.x q).toNat % 2 ^ t.width
    let pois (q : R5) : Bool := st.me.sideOf q || low q == t.poison
    let v (q : R5) := t.val (low q)
    let gives (i : Instr) (rs : List R5) (res : Rounded) : Prop :=
      (rs.any pois = true → ∃ k', exec i st = .next (st.setMe k') ∧
        st.me.Wrote k' d (BitVec.ofNat 64 t.poison) true (st.me.taints (rs.map BitVec.toNat))) ∧
      (rs.any pois = false → ∃ k', exec i st = .next (st.setMe k') ∧
        (st.me.orFlags res.flags).Wrote k' d (BitVec.ofNat 64 res.bits) false (st.me.taints (rs.map BitVec.toNat)))
    (roundMode (if r = 7 then (st.me.arch.rmode.extractLsb' 0 3).toNat else r.toNat) = some mode →
      gives (.fadd m d a b r f) [a, b] (t.round mode (FVal.sum mode [v a, v b])) ∧
      gives (.fsub m d a b r f) [a, b] (t.round mode (FVal.sum mode [v a, (v b).negate])) ∧
      gives (.fmul m d a b r f) [a, b] (t.round mode ((v a).mul (v b))) ∧
      gives (.fma m d a b r f) [a, b, d] (t.round mode (FVal.fma mode (v a) (v b) (v d))) ∧
      gives (.fdiv m d a b r f) [a, b] (t.div mode (v a) (v b)) ∧
      gives (.fsqrt m d a r f) [a] (t.sqrt mode (v a))) ∧
    gives (.fmin m d a b f) [a, b] (t.minMax false (low a) (low b)) ∧
    gives (.fmax m d a b f) [a, b] (t.minMax true (low a) (low b)) ∧
    (6 ≤ (st.me.arch.rmode.extractLsb' 0 3).toNat →
      ∀ i ∈ [Instr.fadd m d a b 7 f, .fsub m d a b 7 f, .fmul m d a b 7 f, .fma m d a b 7 f, .fdiv m d a b 7 f, .fsqrt m d a 7 f],
        exec i st = .next (st.trapWith Cause.format (st.me.arch.rmode.extractLsb' 0 3).toNat 0))

/-- Rounding keeps a representable value, and invalid operations give the default NaN. For each of the four scalar
formats, every pattern that is no NaN, and every mode, rounding the pattern's value into the format gives that
pattern back and sets no flag; a NaN gives the canonical quiet NaN, with NV exactly when it signals. In each scalar
format and mode: opposite infinities added, infinity times zero, zero over zero, infinity over infinity and the
square root of a number below zero give the canonical quiet NaN and set NV; a finite nonzero dividend over zero
gives an infinity of the quotient's sign and sets DZ; the square root of a zero is that zero; two NaNs under FMIN
and FMAX give the canonical NaN, and one gives the other operand. (R294, R295, R305, R343.) -/
def Obligations.RoundingAndInvalidOperations : Prop :=
  (
  ∀ (f : BitVec 2) (mode : RMode) (p : Nat),
    let t := Fmt.ofField f
    p < 2 ^ t.width →
      ((t.val p).isNan = false → t.round mode (t.val p) = { bits := p, flags := 0 }) ∧
      ((t.val p).isNan = true → t.round mode (t.val p) =
        { bits := t.nan, flags := if (t.val p).signals then Flag.nv else 0 }))
  ∧ (
  ∀ (f : BitVec 2) (mode : RMode) (n n' : Bool) (q q' : Nat) (e e' : Int),
    let t := Fmt.ofField f
    let bad : Rounded := { bits := t.nan, flags := Flag.nv }
    t.round mode (FVal.sum mode [.inf n, .inf (!n)]) = bad ∧ t.round mode ((FVal.inf n).mul (.fin n' 0 e)) = bad ∧
    t.round mode ((FVal.fin n 0 e).mul (.inf n')) = bad ∧ t.div mode (.fin n 0 e) (.fin n' 0 e') = bad ∧
    t.div mode (.inf n) (.inf n') = bad ∧ t.sqrt mode (.inf true) = bad ∧ (q ≠ 0 → t.sqrt mode (.fin true q e) = bad) ∧
    (q ≠ 0 → t.div mode (.fin n q e) (.fin n' 0 e') = { bits := t.infinity (n != n'), flags := Flag.dz }) ∧
    t.sqrt mode (.fin n 0 e) = { bits := t.signBit n, flags := 0 } ∧
    (∀ big : Bool, ((t.val q).isNan = true → (t.val q').isNan = true → (t.minMax big q q').bits = t.nan) ∧
      ((t.val q).isNan = true → (t.val q').isNan = false → (t.minMax big q q').bits = q') ∧
      ((t.val q).isNan = false → (t.val q').isNan = true → (t.minMax big q q').bits = q)))

/-- FCMP, FCVT, FCLASS and FMV write their results. FCMP completes in every state and writes 1 or 0 for its condition,
with NV as its row says and the side bit set for a poisoned source. FCVT between formats, from an integer and to an
integer rounds under its mode, and each completes; poison crosses as the poison pattern, or as integer 0 with the
side bit. FCLASS completes with the mask whose one bit is its operand's class, 0x400 with the side bit for poison.
FMV completes with the low w bits and the side bit. A sampled mode of 6 or 7 faults FORMAT. Taint is the source's,
and nothing else changes but where execution goes on. (R344, R345, R346, R304.) The model's choice or reading, no
rule's: FADDR or FSTART 0 where no rule states a value, and STR of a stop (notes/assumptions/10.md). -/
def Obligations.FloatCompareConvertClassify : Prop :=
  ∀ (st : State) (m : BitVec 1) (d a b : R5) (f : BitVec 2),
    let t := Fmt.ofField f
    let bits (t : Fmt) (q : R5) := (st.me.x q).toNat % 2 ^ t.width
    let pois (t : Fmt) (q : R5) : Bool := st.me.sideOf q || bits t q == t.poison
    let gives (i : Instr) (rs : List R5) (fl v : Dword) (p : Bool) : Prop := ∃ k', exec i st = .next (st.setMe k') ∧
      (st.me.orFlags fl).Wrote k' d v p (st.me.taints (rs.map BitVec.toNat))
    let x := t.val (bits t a)
    let y := t.val (bits t b)
    let p2 := pois t a || pois t b
    let some' (q : Bool) : Dword := if q then Flag.nv else 0
    (gives (.fcmp m d a b 0 f) [a, b] (some' (x.signals || y.signals)) (if FVal.cmp x y = some .eq then 1 else 0) p2 ∧
      gives (.fcmp m d a b 1 f) [a, b] (some' (x.isNan || y.isNan)) (if FVal.cmp x y = some .lt then 1 else 0) p2 ∧
      gives (.fcmp m d a b 2 f) [a, b] (some' (x.isNan || y.isNan))
        (if FVal.cmp x y = some .lt ∨ FVal.cmp x y = some .eq then 1 else 0) p2 ∧
      gives (.fcmp m d a b 3 f) [a, b] (some' (x.signals || y.signals)) (if x.isNan = true ∨ y.isNan = true then 1 else 0) p2) ∧
    (∀ (r : BitVec 3) (mode : RMode),
      roundMode (if r = 7 then (st.me.arch.rmode.extractLsb' 0 3).toNat else r.toNat) = some mode →
      (∀ u : BitVec 2, let from' := Fmt.ofField u
        let z := t.round mode (from'.val (bits from' a))
        (pois from' a = true → gives (.fcvt m d a 0 (u.setWidth 4) r f) [a] 0 (BitVec.ofNat 64 t.poison) true) ∧
        (pois from' a = false → gives (.fcvt m d a 0 (u.setWidth 4) r f) [a] z.flags (BitVec.ofNat 64 z.bits) false)) ∧
      (∀ c : BitVec 4, 4 ≤ c.toNat → c.toNat < 8 →
        let n : Int := if c = 4 then (st.me.x a).toInt else if c = 5 then (st.me.x a).toNat
          else if c = 6 then ((st.me.x a).setWidth 32).toInt else ((st.me.x a).setWidth 32).toNat
        let z := t.round mode (.fin (decide (n < 0)) n.natAbs 0)
        (st.me.sideOf a = true → gives (.fcvt m d a 0 c r f) [a] 0 (BitVec.ofNat 64 t.poison) true) ∧
        (st.me.sideOf a = false → gives (.fcvt m d a 0 c r f) [a] z.flags (BitVec.ofNat 64 z.bits) false)) ∧
      (∀ c : BitVec 4, 4 ≤ c.toNat → c.toNat < 8 →
        let lo : Int := if c = 4 then -2 ^ 63 else if c = 6 then -2 ^ 31 else 0
        let hi : Int := if c = 4 then 2 ^ 63 - 1 else if c = 5 then 2 ^ 64 - 1 else if c = 6 then 2 ^ 31 - 1 else 2 ^ 32 - 1
        (pois t a = true → gives (.fcvt m d a 1 c r f) [a] 0 0 true) ∧
        (pois t a = false → gives (.fcvt m d a 1 c r f) [a] (x.toRange mode lo hi).2 (BitVec.ofInt 64 (x.toRange mode lo hi).1) false ∧
          lo ≤ (x.toRange mode lo hi).1 ∧ (x.toRange mode lo hi).1 ≤ hi))) ∧
    (pois t a = true → gives (.fclass m d a f) [a] 0 0x400 true) ∧
    (let bit (n : Nat) : Prop := gives (.fclass m d a f) [a] 0 (BitVec.ofNat 64 (2 ^ n)) false;
      pois t a = false → match x with
        | .inf n => bit (if n then 0 else 7)
        | .fin n q _ => bit (if q = 0 then (if n then 3 else 4) else if q < 2 ^ t.fbits then (if n then 2 else 5) else if n then 1 else 6)
        | .nan s => bit (if s then 8 else 9)) ∧
    (6 ≤ (st.me.arch.rmode.extractLsb' 0 3).toNat → ∀ (x : BitVec 1) (c : BitVec 4),
      exec (.fcvt m d a x c 7 f) st = .next (st.trapWith Cause.format (st.me.arch.rmode.extractLsb' 0 3).toNat 0)) ∧
    gives (.fmv m d a f) [a] 0 (BitVec.ofNat 64 (bits t a)) (st.me.sideOf a)

/-- LDL and LDLOC read the local store little-endian into d. With an unpoisoned, untainted address that passes the
local-store checks, a free load slot, no older access that holds it back or touches its bytes, and no load performed
early at this address, LDL (and LDLOC above level 0) writes d with the n bytes at the address, the least significant
first and zeros above, poisoned when a granule they touch is, with the address register's taint; an acquire wider
than core scope drops the L1, and any acquire the loads that have performed early. No other register, no byte of any
memory and nothing else changes, but where execution goes on and one load sequence number. Where it crosses a bank
row and performs in its two parts, it stands last in flight with them. LDLOC at level 0 traps PRIV. (R362, R361, R6,
R393, R394, R283.) The model's choice or reading, no rule's: FADDR or FSTART 0 where no rule states a value, and STR
of a stop (notes/assumptions/10.md); which load slot is taken (notes/assumptions/43.md). -/
def Obligations.LocalLoads : Prop :=
  ∀ (st : State) (d a : R5) (z : BitVec 2),
    let k := st.me
    let n := 2 ^ z.toNat
    let loads (i : Instr) (m : ModFields) (va : Nat) : Prop :=
      k.sideOf a = false → (k.taints [a.toNat]).isEmpty = true → va / 2 ^ 21 % 8 = 0 → k.checkLocal va n = .ok () →
      st.orderly .load m = true → k.localClear [(va, n)] = true → (∀ e ∈ k.early, e.acc.pc ≠ k.arch.pc) → ∀ slot, k.freeSlotNo = some slot →
      (st.splits va n = true → ∃ (t : State) (acc : Access), exec i st = .next t ∧ k.Flows t.me ∧ t.me.inflight = k.inflight ++ [acc] ∧
        acc.kind = .load ∧ acc.space = 1 ∧ acc.parts = rowParts va n ∧ acc.slot = some slot ∧
        acc.dest = (if d = 0 then .discard else .reg d.toNat)) ∧
      (st.splits va n = false → ∃ (k' : Core) (v : Dword), exec i st = .next (st.setMe k') ∧ v.toNat < 256 ^ n ∧
        (∀ j < n, v.extractLsb' (8 * j) 8 = k.lsRd (va % 2 ^ 21 + j)) ∧
        ({ k with loadSeq := k.loadSeq + 1, early := if m.ord = 2 ∨ m.ord = 4 ∨ m.ord = 5 then [] else k.early,
                  l1 := if (m.ord = 2 ∨ m.ord = 4 ∨ m.ord = 5) ∧ m.scope ≠ 0 then [] else k.l1 } : Core).Wrote k' d v
          ((List.range n).any (fun j => k.lsRdPois (va % 2 ^ 21 + j))) (k.taints [a.toNat]))
    (∀ i : BitVec 13, loads (.ldl d a z i) (k.mods .load false) (k.x a + i.signExtend 64).toNat) ∧
    (k.level ≠ 0 → loads (.ldloc d a z) privMods (k.x a).toNat) ∧
    (k.level = 0 → exec (.ldloc d a z) st = .next (st.trapWith Cause.priv 0 0))

/-- STL and STLOC write the low bytes of d into the local store and nothing else. With an unpoisoned, untainted address
and untainted data, an address that passes the local-store checks and no older access that holds it back or touches
its bytes, STL (and STLOC above level 0) writes the low n bytes of d at the address, the least significant first;
every other byte of the local store, every byte of device memory and every register keep their values; a poisoned d
poisons the granules it touches and an unpoisoned one changes no granule's poison. Where it crosses a bank row and
performs in its two parts, it stands last in flight with them and its bytes. STLOC at level 0 traps PRIV. (R362,
R361, R6, R393, R394, R283.) The model's choice or reading, no rule's: FADDR or FSTART 0 where no rule states a
value, and STR of a stop (notes/assumptions/10.md). -/
def Obligations.LocalStores : Prop :=
  ∀ (st : State) (d a : R5) (z : BitVec 2),
    let k := st.me
    let n := 2 ^ z.toNat
    let stores (i : Instr) (m : ModFields) (va : Nat) : Prop :=
      k.sideOf a = false → (k.taints [a.toNat, d.toNat]).isEmpty = true → va / 2 ^ 21 % 8 = 0 → k.checkLocal va n = .ok () →
      st.orderly .store m = true → k.localClear [(va, n)] = true →
      let o := va % 2 ^ 21
      (st.splits va n = true → ∃ (t : State) (acc : Access), exec i st = .next t ∧ k.Flows t.me ∧ t.me.inflight = k.inflight ++ [acc] ∧
        acc.kind = .store ∧ acc.space = 1 ∧ acc.parts = rowParts va n ∧ acc.pois = k.sideOf d ∧
        acc.data = (List.range n).map (fun j => (k.x d).extractLsb' (8 * j) 8) ∧ t.me.ls = k.ls) ∧
      (st.splits va n = false → ∃ t, exec i st = .next t ∧ t.cur = st.cur ∧ k.Flows t.me ∧
        (∀ j, t.me.lsRd j = if o ≤ j ∧ j < o + n then (k.x d).extractLsb' (8 * (j - o)) 8 else k.lsRd j) ∧
        (∀ j, t.me.lsRdPois j = (k.lsRdPois j || (k.sideOf d && decide (o / 32 ≤ j / 32) && decide (j / 32 ≤ (o + n - 1) / 32)))) ∧
        t.me.arch = { k.arch with pc := t.me.arch.pc, seq0 := t.me.arch.seq0 } ∧ t.me.taint = k.taint ∧
        (∀ x, t.rd x = st.rd x ∧ t.rdPois x = st.rdPois x) ∧
        (∀ c, c ≠ st.cur → (t.core c).arch = (st.core c).arch ∧ (t.core c).ls = (st.core c).ls))
    (∀ i : BitVec 13, stores (.stl d a z i) (k.mods .store false) (k.x a + i.signExtend 64).toNat) ∧
    (k.level ≠ 0 → stores (.stloc d a z) privMods (k.x a).toNat) ∧
    (k.level = 0 → exec (.stloc d a z) st = .next (st.trapWith Cause.priv 0 0))

/-- LD, LDVIR, LDPHY, LDREM and LDHST issue a load that binds d when it performs. With unpoisoned, untainted address
operands, checks that pass and a free slot, each completes: no register but d changes, and no byte of memory but a
scoresheet. With no load performed early: where it performs later than it issues, it stands last among the core's
accesses in flight with its parts, and d awaits its slot and is tainted by it (not under notaint). Where it performs
at issue, alone, past the L1, as one part in device memory that its home slice does not refuse, d holds the bytes at
the part's physical address. Space 1 traps ILLEGAL for LD, the privileged forms trap PRIV at level 0, and an operand
b out of range traps BOUNDS. (R362, R393, R394, R118, R134, R136.) FADDR and FSTART of the BOUNDS traps on b are the
model's reading (notes/assumptions/10.md). The model's choice or reading, no rule's: when an access performs is an
input (notes/assumptions/6.md); which younger loads perform early, and what undoes one (notes/assumptions/19.md);
which operands are consumed, and the order of checks (notes/assumptions/28.md); which load slot is taken
(notes/assumptions/43.md). -/
def Obligations.FarLoads : Prop :=
  ∀ (st : State) (d a b : R5) (z : BitVec 2),
    let k := st.me
    let n := 2 ^ z.toNat
    let va := (k.x a).toNat
    let w := st.whoOf st.cur 0
    let issues (i : Instr) (srcs : List R5) (nt : Bool) (sp : Nat) (chk : Checked (List Part)) : Prop :=
      ∀ (ps : List Part) (slot : Nat), (∀ r ∈ srcs, k.sideOf r = false) → (k.taints (srcs.map BitVec.toNat)).isEmpty = true →
        chk = .ok ps → k.freeSlotNo = some slot →
        ∃ t, exec i st = .next t ∧ t.cur = st.cur ∧ k.Flows t.me ∧ (st.Unlogged → ∀ x, t.rd x = st.rd x ∧ t.rdPois x = st.rdPois x) ∧
          (∀ r, r ≠ d → t.me.x r = k.x r ∧ t.me.sideOf r = k.sideOf r) ∧
          (∀ ds, k.early = [] → st.delays = true :: ds → t.delays = ds ∧ t.me.x d = k.x d ∧
            ∃ acc : Access, t.me.inflight = k.inflight ++ [acc] ∧ acc.kind = .load ∧ acc.space = sp ∧ acc.parts = ps ∧
              acc.width = n ∧ acc.slot = some slot ∧ acc.dest = (if d = 0 then .discard else .reg d.toNat) ∧
              (d ≠ 0 → Map.get 32 t.me.pend d.toNat = slot ∧
                t.me.taintOf d.toNat = if nt then Taint.clean else { refs := [slot], mark := none })) ∧
          (∀ p, k.early = [] → st.Unlogged → st.delays = [] → k.inflight = [] → ps = [p] → p.isDone = false → (sp = 5 ∨ (sp = 2 ∧ 2 ≤ p.ca)) →
            st.refuses st.cur k.serial p.pa = false → (∀ e ∈ (st.square (squareOf st.cur)).xbuf, e.core ≠ st.cur) →
            t.me.x d = if d = 0 then 0 else BitVec.ofNat 64 (bytesNat ((st.rdBytes p.pa p.size).map (·.1))))
    (∀ i : BitVec 13, let m := k.mods .load false
      (m.space = 1 → exec (.ld d a z i) st = .next st.illegal) ∧
      (m.space ≠ 1 → issues (.ld d a z i) [a] m.nt (spaceOf m.space)
        (st.checkSpace w (spaceOf m.space) .load m.cache (k.x a + i.signExtend 64).toNat n 0))) ∧
    (k.level = 0 → ∀ i ∈ [Instr.ldvir d a b z 0, .ldvir d a b z 1, .ldphy d a z, .ldrem d a b z, .ldhst d a z],
      exec i st = .next (st.trapWith Cause.priv 0 0)) ∧
    (k.level ≠ 0 →
      issues (.ldvir d a b z 1) [a, b] false 2 (st.check2 w .load 2 va n 0) ∧
      ((k.x b).toNat ≤ 63 → issues (.ldvir d a b z 0) [a, b] false 2
        (st.check2 { w with ctx := (k.x b).toNat } .load 2 va n 0)) ∧
      issues (.ldphy d a z) [a] false 5 (check5 va n 0) ∧
      ((k.x b).toNat < 2 ^ 18 → issues (.ldrem d a b z) [a, b] false 3 (.ok (rawParts va n (k.x b).toNat))) ∧
      issues (.ldhst d a z) [a] false 4 (.ok (rawParts va n 0)) ∧
      (k.sideOf a = false → k.sideOf b = false → (k.taints [a.toNat, b.toNat]).isEmpty = true →
        (63 < (k.x b).toNat → exec (.ldvir d a b z 0) st = .next (st.trapWith Cause.bounds (k.x b).toNat 0)) ∧
        (2 ^ 18 ≤ (k.x b).toNat → exec (.ldrem d a b z) st = .next (st.trapWith Cause.bounds (k.x b).toNat 0))))

/-- ST, STVIR, STPHY, STREM and STHST issue a store of the low bytes of d. With unpoisoned address operands, untainted
operands and checks that pass, on a core that is not doubled: each completes, every register keeps its value, and
with no scoresheet every byte of device memory outside its parts keeps its value. Where it performs later it stands
last among the accesses in flight with the data, and memory is as it was. Where it performs at issue, alone, after
no store of its own in the exchange buffer, as one part in device memory that its home slice does not refuse, the
part's bytes are the low bytes of d, the least significant first. In a compute phase an ST to space 2 takes its
place in the exchange buffer instead and no memory changes. Poisoned data for another device or the host traps
POISON. (R362, R393, R394, R118, R203, R284.) The model's choice or reading, no rule's: when an access performs is
an input (notes/assumptions/6.md); FADDR or FSTART 0 where no rule states a value, and STR of a stop
(notes/assumptions/10.md); which operands are consumed, and the order of checks (notes/assumptions/28.md). -/
def Obligations.FarStores : Prop :=
  ∀ (st : State) (d a b : R5) (z : BitVec 2),
    let k := st.me
    let n := 2 ^ z.toNat
    let va := (k.x a).toNat
    let w := st.whoOf st.cur 0
    let issues (i : Instr) (addrs : List R5) (sp : Nat) (chk : Checked (List Part)) (buffered : Bool) : Prop :=
      ∀ ps : List Part, (∀ r ∈ addrs, k.sideOf r = false) → (k.taints ((addrs ++ [d]).map BitVec.toNat)).isEmpty = true →
        st.Single →
        (k.sideOf d = true → (sp = 3 ∨ sp = 4) → exec i st = .next (st.trapWith Cause.poison d.toNat 0)) ∧
        ((k.sideOf d = false ∨ sp = 2 ∨ sp = 5) → chk = .ok ps → (buffered = true → sp = 2 → st.inCompute st.cur = false) →
          ∃ t, exec i st = .next t ∧ t.cur = st.cur ∧ k.Flows t.me ∧
            (∀ r, t.me.x r = k.x r ∧ t.me.sideOf r = k.sideOf r) ∧
            (st.Unlogged → ∀ x, (∀ p ∈ ps, ¬(p.pa ≤ x ∧ x < p.pa + p.size)) → t.rd x = st.rd x) ∧
            (∀ ds, st.delays = true :: ds → t.delays = ds ∧ (∀ x, t.rd x = st.rd x) ∧
              ∃ acc : Access, t.me.inflight = k.inflight ++ [acc] ∧ acc.kind = .store ∧ acc.space = sp ∧ acc.parts = ps ∧
                acc.data = (List.range n).map (fun j => (k.x d).extractLsb' (8 * j) 8) ∧ acc.pois = k.sideOf d) ∧
            (∀ p, st.Unlogged → st.delays = [] → k.inflight = [] → ps = [p] → p.isDone = false → p.idx = 0 → p.size = n →
              (sp = 5 ∨ sp = 2) → (∀ e ∈ (st.square (squareOf st.cur)).xbuf, e.core ≠ st.cur) → st.refuses st.cur k.serial p.pa = false → ∀ j < n, t.rd (p.pa + j) = (k.x d).extractLsb' (8 * j) 8))
    (∀ i : BitVec 13, let m := k.mods .store false
      (m.space = 1 → exec (.st d a z i) st = .next st.illegal) ∧
      (m.space ≠ 1 → issues (.st d a z i) [a] (spaceOf m.space)
        (st.checkSpace w (spaceOf m.space) .store m.cache (k.x a + i.signExtend 64).toNat n 0) true) ∧
      (∀ (p : Part) (id q : Nat) (l : Launch), m.space = 0 → k.sideOf a = false → (k.taints [a.toNat, d.toNat]).isEmpty = true →
        st.check2 w .store m.cache (k.x a + i.signExtend 64).toNat n 0 = .ok [p] → st.launchOf st.cur = some (id, q, l) →
        l.dbl = false → st.inCompute st.cur = true → k.inflight = [] → l.pendFits q p.size = true →
        (st.square (squareOf st.cur)).xbuf.length < Config.exchangeEntries →
        ∃ (t : State) (e : XEntry), exec (.st d a z i) st = .next t ∧ k.Flows t.me ∧ (∀ x, t.rd x = st.rd x) ∧
          (t.square (squareOf st.cur)).xbuf = (st.square (squareOf st.cur)).xbuf ++ [e] ∧ e.core = st.cur ∧ e.launch = id ∧
          e.task = q ∧ e.va = p.va ∧ e.pa = p.pa ∧ e.cache = m.cache ∧ e.size = p.size ∧
          e.kind = .store 2 (((List.range n).map (fun j => (k.x d).extractLsb' (8 * j) 8)).drop p.idx |>.take p.size) (k.sideOf d))) ∧
    (k.level = 0 → ∀ i ∈ [Instr.stvir d a b z 0, .stvir d a b z 1, .stphy d a z, .strem d a b z, .sthst d a z],
      exec i st = .next (st.trapWith Cause.priv 0 0)) ∧
    (k.level ≠ 0 →
      issues (.stvir d a b z 1) [a, b] 2 (st.check2 w .store 2 va n 0) false ∧
      ((k.x b).toNat ≤ 63 → issues (.stvir d a b z 0) [a, b] 2 (st.check2 { w with ctx := (k.x b).toNat } .store 2 va n 0) false) ∧
      issues (.stphy d a z) [a] 5 (check5 va n 0) false ∧
      ((k.x b).toNat < 2 ^ 18 → issues (.strem d a b z) [a, b] 3 (.ok (rawParts va n (k.x b).toNat)) false) ∧
      issues (.sthst d a z) [a] 4 (.ok (rawParts va n 0)) false)

/-- LQR and LQG push one row from the local store or reserve its entry. With unpoisoned, untainted operands and room in
LQK: from the local store, with checks that pass, a free slot, no older access that holds it back or touches its
bytes and no load performed early at this address, LQR pushes the 256 bytes at a raw address, or the row that the
window's valid format decodes, and LQG pushes the 256 / n elements at a + i x b in place; a raw entry is poisoned
when a granule read is. From another space, with checks that pass and a free slot, each completes with one more
entry; where it performs later, the entry is reserved unfilled and the load stands last in flight for it. No scalar
register, no byte of any memory but a scoresheet and no other queue changes. A raw row in two parts stands in flight
too. An invalid format traps FORMAT, and so does an LQG element with WIN not 0 below which none faults; a full queue
makes the load wait. (R364, R365, R53, R186, R136.) The model's choice or reading, no rule's: when an access
performs is an input (notes/assumptions/6.md); FADDR or FSTART 0 where no rule states a value, and STR of a stop
(notes/assumptions/10.md); which load slot is taken (notes/assumptions/43.md). -/
def Obligations.RowLoads : Prop :=
  ∀ (st : State) (a b : R5) (l : BitVec 1) (q z : BitVec 2),
    let k := st.me
    let m := k.mods .load false
    let sp := if l = 1 then 1 else spaceOf m.space
    let n := 2 ^ z.toNat
    let va := (k.x a).toNat
    let el (i : Nat) : Nat := (k.x a + BitVec.ofNat 64 i * k.x b).toNat
    let pushes (i : Instr) (rs : List R5) (good : QEntry → Prop) : Prop :=
      ∃ (k' : Core) (e : QEntry), exec i st = .next (st.setMe k') ∧ k'.queue q.toNat = k.queue q.toNat ++ [e] ∧ good e ∧
        e.filled = true ∧ e.taint = k.taints (rs.map BitVec.toNat) ∧ (∀ p, p ≠ q.toNat → k'.queue p = k.queue p) ∧ k.Flows k' ∧
        k'.arch = { k.arch with pc := k'.arch.pc, seq0 := k'.arch.seq0, queues := k'.arch.queues } ∧ k'.taint = k.taint ∧
        k'.ls = k.ls ∧ k'.lsPois = k.lsPois
    let reserves (i : Instr) (chk : Checked (List Part)) : Prop :=
      ∀ (ps : List Part) (slot : Nat), chk = .ok ps → k.freeSlotNo = some slot →
        ∃ t, exec i st = .next t ∧ t.cur = st.cur ∧ k.Flows t.me ∧ (st.Unlogged → ∀ x, t.rd x = st.rd x) ∧
          (∀ r, t.me.x r = k.x r) ∧ (t.me.queue q.toNat).length = (k.queue q.toNat).length + 1 ∧
          (∀ p, p ≠ q.toNat → t.me.queue p = k.queue p) ∧
          (∀ ds, k.early = [] → st.delays = true :: ds →
            (∃ e, t.me.queue q.toNat = k.queue q.toNat ++ [e] ∧ e.serial = k.serial ∧ e.filled = false ∧
              e.taint = if m.nt then Taint.clean else { refs := [slot], mark := none }) ∧
            ∃ acc, t.me.inflight = k.inflight ++ [acc] ∧ acc.kind = .load ∧ acc.space = sp ∧ acc.parts = ps ∧
              acc.dest = .queue q.toNat k.serial ∧ acc.slot = some slot)
    (k.sideOf a = false → (k.taints [a.toNat]).isEmpty = true → (k.queue q.toNat).length < 8 →
      (sp = 1 → va / 2 ^ 21 % 8 = 0 → k.checkLocal va 256 = .ok () → st.orderly .load m = true → k.localClear [(va, 256)] = true →
        (st.splits va 256 = true → reserves (.lqr a l q) (.ok (rowParts va 256))) ∧
        ((∀ e ∈ k.early, e.acc.pc ≠ k.arch.pc) → k.freeSlotNo.isSome = true → st.splits va 256 = false → pushes (.lqr a l q) [a] (fun e => (∀ j < 256, e.data.extractLsb' (8 * j) 8 = k.lsRd (va % 2 ^ 21 + j)) ∧
          e.pois = (List.range 256).any (fun j => k.lsRdPois (va % 2 ^ 21 + j))))) ∧
      (sp = 1 → va / 2 ^ 21 % 8 ≠ 0 → ∀ f, k.fmtReg (va / 2 ^ 21 % 8) = some f → k.checkLocal va f.rowBytes = .ok () →
        k.freeSlotNo.isSome = true → st.orderly .load m = true → k.localClear [(va, f.rowBytes)] = true → (∀ e ∈ k.early, e.acc.pc ≠ k.arch.pc) →
        pushes (.lqr a l q) [a] (fun e => e.data = f.rowOf (unpackRow f (k.lsBytes (va % 2 ^ 21) f.rowBytes)) ∧ e.pois = false)) ∧
      (sp = 1 → va / 2 ^ 21 % 8 ≠ 0 → k.fmtReg (va / 2 ^ 21 % 8) = none →
        exec (.lqr a l q) st = .next (st.trapWith Cause.format va va)) ∧
      (sp ≠ 1 → reserves (.lqr a l q) (st.checkSpace (st.whoOf st.cur 0) sp .load m.cache va 256 0)) ∧
      (k.sideOf b = false → (k.taints [a.toNat, b.toNat]).isEmpty = true →
        (sp = 1 → (∀ i < 256 / n, el i / 2 ^ 21 % 8 = 0 ∧ k.checkLocal (el i) n = .ok ()) → k.freeSlotNo.isSome = true →
          st.orderly .load m = true → k.localClear ((List.range (256 / n)).map (fun i => (el i, n))) = true → (∀ e ∈ k.early, e.acc.pc ≠ k.arch.pc) →
          pushes (.lqg a b l q z) [a, b] (fun e =>
            (∀ i < 256 / n, ∀ j < n, e.data.extractLsb' (8 * (i * n + j)) 8 = k.lsRd (el i % 2 ^ 21 + j)) ∧
            e.pois = (List.range (256 / n)).any (fun i => (List.range n).any (fun j => k.lsRdPois (el i % 2 ^ 21 + j))))) ∧
        (sp = 1 → ∀ i < 256 / n, el i / 2 ^ 21 % 8 ≠ 0 →
          (∀ j < 256 / n, el j < el i → el j / 2 ^ 21 % 8 = 0 ∧ ∀ t, k.checkLocal (el j) n ≠ .fault t) →
          exec (.lqg a b l q z) st = .next (st.trapWith Cause.format (el i) va)) ∧
        (sp ≠ 1 → reserves (.lqg a b l q z) (checkElems va
          (fun e => st.checkSpace (st.whoOf st.cur 0) sp .load m.cache e.1 n e.2) (strided (k.x a) (k.x b) n))))) ∧
    (k.Clear [a] → 8 ≤ (k.queue q.toNat).length → st.reserves.contains (lqReserve st.cur q.toNat) = false →
      exec (.lqr a l q) st = .next st.wait ∧ (k.Clear [a, b] → exec (.lqg a b l q z) st = .next st.wait))

/-- SQW and SQS pop one row and write it. With unpoisoned, untainted address operands and an untainted head of SQK: to
the local store, with checks that pass and no older access that holds it back or touches its bytes, SQW writes the
row's 256 bytes at a raw address, or the bytes its window's valid format encodes under the sampled mode, with their
flags, and SQS writes element i at a + i x b in ascending i, so that of two that overlap the higher remains. The
head is popped; no other byte, no scalar register and no other queue changes. To another space, with checks that
pass on a core that is not doubled, each completes; where it performs later, the store stands last in flight with
the row's bytes, and in a compute phase its parts enter the exchange buffer. A raw row in two parts stands in
flight. An SQS element with WIN not 0 below which none faults traps FORMAT. An empty queue traps QUEUE; a poisoned
head for another device or the host traps POISON and is not popped. (R366, R367, R53, R186, R284.) The model's
choice or reading, no rule's: when an access performs is an input (notes/assumptions/6.md); FADDR or FSTART 0 where
no rule states a value, and STR of a stop (notes/assumptions/10.md). -/
def Obligations.RowStores : Prop :=
  ∀ (st : State) (a b : R5) (l q : BitVec 1) (z : BitVec 2) (e : QEntry) (es : List QEntry),
    let k := st.me
    let m := k.mods .store false
    let sp := if l = 1 then 1 else spaceOf m.space
    let n := 2 ^ z.toNat
    let va := (k.x a).toNat
    let el (i : Nat) : Nat := (k.x a + BitVec.ofNat 64 i * k.x b).toNat
    let byte (j : Nat) : Byte := e.data.extractLsb' (8 * j) 8
    let stores (i : Instr) (fl : Dword) (ls : (Nat → Byte) → Prop) : Prop :=
      ∃ t, exec i st = .next t ∧ t.cur = st.cur ∧ k.Flows t.me ∧ t.me.queue (4 + q.toNat) = es ∧
        (∀ p, p ≠ 4 + q.toNat → t.me.queue p = k.queue p) ∧ ls t.me.lsRd ∧ (∀ x, t.rd x = st.rd x) ∧
        t.me.arch = { k.arch with pc := t.me.arch.pc, seq0 := t.me.arch.seq0, queues := t.me.arch.queues,
                                  rmode := k.arch.rmode ||| fl }
    let issues (i : Instr) (chk : Checked (List Part)) : Prop :=
      ∀ ps : List Part, chk = .ok ps → st.Single → (e.pois = false ∨ sp = 2) →
        ((sp = 2 → st.inCompute st.cur = false) →
          ∃ t, exec i st = .next t ∧ t.cur = st.cur ∧ k.Flows t.me ∧ t.me.queue (4 + q.toNat) = es ∧
            (st.Unlogged → ∀ x, (∀ p ∈ ps, ¬(p.pa ≤ x ∧ x < p.pa + p.size)) → t.rd x = st.rd x) ∧ (∀ r, t.me.x r = k.x r) ∧
            (∀ ds, st.delays = true :: ds → (∀ x, t.rd x = st.rd x) ∧
              ∃ acc, t.me.inflight = k.inflight ++ [acc] ∧ acc.kind = .store ∧ acc.space = sp ∧
                acc.parts = ps ∧ acc.data = (List.range 256).map byte ∧ acc.pois = e.pois)) ∧
        (∀ id u j, sp = 2 → st.launchOf st.cur = some (id, u, j) → st.inCompute st.cur = true → k.inflight = [] →
          j.pendFits u (ps.foldl (fun n p => n + p.size) 0) = true →
          (st.square (squareOf st.cur)).xbuf.length + ps.length ≤ Config.exchangeEntries →
          ∃ (t : State) (xs : List XEntry), exec i st = .next t ∧ k.Flows t.me ∧ t.me.queue (4 + q.toNat) = es ∧
            (∀ x, t.rd x = st.rd x) ∧ (t.square (squareOf st.cur)).xbuf = (st.square (squareOf st.cur)).xbuf ++ xs ∧
            xs.map (fun x => (x.va, x.pa, x.size, x.cache)) = ps.map (fun p => (p.va, p.pa, p.size, m.cache)) ∧
            ∀ x ∈ xs, x.core = st.cur ∧ x.launch = id ∧ x.task = u)
    (k.sideOf a = false → (k.taints [a.toNat]).isEmpty = true → k.queue (4 + q.toNat) = e :: es → e.taint.isEmpty = true →
      (sp = 1 → va / 2 ^ 21 % 8 = 0 → k.checkLocal va 256 = .ok () → st.orderly .store m = true → k.localClear [(va, 256)] = true →
        (st.splits va 256 = true → ∃ (t : State) (acc : Access), exec (.sqw a l q) st = .next t ∧ k.Flows t.me ∧
          t.me.queue (4 + q.toNat) = es ∧ t.me.inflight = k.inflight ++ [acc] ∧ acc.kind = .store ∧ acc.space = 1 ∧
          acc.parts = rowParts va 256 ∧ acc.data = (List.range 256).map byte ∧ acc.pois = e.pois ∧ t.me.ls = k.ls) ∧
        (st.splits va 256 = false → stores (.sqw a l q) 0 (fun rd => ∀ x, rd x =
          if va % 2 ^ 21 ≤ x ∧ x < va % 2 ^ 21 + 256 then byte (x - va % 2 ^ 21) else k.lsRd x))) ∧
      (sp = 1 → va / 2 ^ 21 % 8 ≠ 0 → ∀ f mode, k.fmtReg (va / 2 ^ 21 % 8) = some f →
        roundMode (k.arch.rmode.extractLsb' 0 3).toNat = some mode → k.checkLocal va f.rowBytes = .ok () → st.orderly .store m = true → k.localClear [(va, f.rowBytes)] = true →
        let w := packRow f mode e.pois (f.elsOf e.data)
        stores (.sqw a l q) w.2 (fun rd => ∀ x, rd x =
          if va % 2 ^ 21 ≤ x ∧ x < va % 2 ^ 21 + w.1.length then (w.1.map (·.1)).getD (x - va % 2 ^ 21) 0 else k.lsRd x)) ∧
      (sp = 1 → va / 2 ^ 21 % 8 ≠ 0 → k.fmtReg (va / 2 ^ 21 % 8) = none →
        exec (.sqw a l q) st = .next (st.trapWith Cause.format va va)) ∧
      (sp ≠ 1 → issues (.sqw a l q) (st.checkSpace (st.whoOf st.cur 0) sp .store m.cache va 256 0)) ∧
      ((sp = 3 ∨ sp = 4) → e.pois = true → exec (.sqw a l q) st = .next (st.trapWith Cause.poison (260 + q.toNat) 0)) ∧
      (k.sideOf b = false → (k.taints [a.toNat, b.toNat]).isEmpty = true →
        (sp = 1 → (∀ i < 256 / n, el i / 2 ^ 21 % 8 = 0 ∧ k.checkLocal (el i) n = .ok ()) → st.orderly .store m = true →
          k.localClear ((List.range (256 / n)).map (fun i => (el i, n))) = true →
          stores (.sqs a b l q z) 0 (fun rd =>
            (∀ x, (∀ i < 256 / n, ¬(el i % 2 ^ 21 ≤ x ∧ x < el i % 2 ^ 21 + n)) → rd x = k.lsRd x) ∧
            (∀ i < 256 / n, ∀ j < n,
              (∀ i' < 256 / n, i < i' → ¬(el i' % 2 ^ 21 ≤ el i % 2 ^ 21 + j ∧ el i % 2 ^ 21 + j < el i' % 2 ^ 21 + n)) →
              rd (el i % 2 ^ 21 + j) = byte (i * n + j)))) ∧
        (sp = 1 → ∀ i < 256 / n, el i / 2 ^ 21 % 8 ≠ 0 →
          (∀ j < 256 / n, el j < el i → el j / 2 ^ 21 % 8 = 0 ∧ ∀ t, k.checkLocal (el j) n ≠ .fault t) →
          exec (.sqs a b l q z) st = .next (st.trapWith Cause.format (el i) va)) ∧
        ((sp = 3 ∨ sp = 4) → e.pois = true → exec (.sqs a b l q z) st = .next (st.trapWith Cause.poison (260 + q.toNat) 0)) ∧
        (sp ≠ 1 → issues (.sqs a b l q z) (checkElems va
          (fun x => st.checkSpace (st.whoOf st.cur 0) sp .store m.cache x.1 n x.2) (strided (k.x a) (k.x b) n))))) ∧
    (k.Clear [a] → k.queue (4 + q.toNat) = [] →
      exec (.sqw a l q) st = .next (st.trapWith Cause.queue (4 + q.toNat) 0) ∧
      (k.Clear [a, b] → exec (.sqs a b l q z) st = .next (st.trapWith Cause.queue (4 + q.toNat) 0)))

/-- Atomics read and write in one step, and d takes the old value. Each of the eleven atomics, with an unpoisoned,
untainted address and untainted operands. At the local store (aligned, raw, checks that pass, no access in flight to
its bytes) and at issue alone on one part in device memory that its slice does not refuse, after no entry of its own
in the exchange buffer and with no scoresheet: the w bits at the address become R of its row, d takes the old value
zero-extended with its poison (of AMOFADD the poison pattern too), and no other byte of either memory and no other
register changes; AMOFADD with a poisoned operand or location writes the poison pattern. Where it performs later it
stands last in flight with its operands. In a compute phase it is buffered, with its slot, when d is s0 and traps
PHASE otherwise. Outside one, with checks that pass and a free slot on a core that is not doubled, it completes in
every space. In space 4 all but AMOADD, AMOSWP and AMOCAS trap ILLEGAL. (R369, R370, R371, R203, R51.) The model's
choice or reading, no rule's: when an access performs is an input (notes/assumptions/6.md); FADDR or FSTART 0 where
no rule states a value, and STR of a stop (notes/assumptions/10.md); which load slot is taken
(notes/assumptions/43.md). -/
def Obligations.AtomicResults : Prop :=
  ∀ (st : State) (d a b : R5) (s : BitVec 1),
    let k := st.me
    let w := if s = 1 then 64 else 32
    let n := w / 8
    let f := if s = 1 then Fmt.f64 else Fmt.f32
    let m := k.mods .atomic false
    let va := (k.x a).toNat
    let o := va % 2 ^ 21
    let B := (k.x b).setWidth w
    let D := (k.x d).setWidth w
    let acts (i : Instr) (op : Rmw) (r : BitVec w → Bool → BitVec w) : Prop :=
      let srcs := if op = .cas then [a, b, d] else [a, b]
      let side := k.sideOf b || (op == .cas && k.sideOf d)
      k.sideOf a = false → (k.taints (srcs.map BitVec.toNat)).isEmpty = true →
      (spaceOf m.space = 1 → va % n = 0 → va / 2 ^ 21 % 8 = 0 → k.freeSlotNo.isSome = true → k.checkLocal va n = .ok () →
        st.orderly (.atomic op) m = true → k.localClear [(va, n)] = true →
        let M := BitVec.ofNat w (bytesNat ((k.lsBytes o n).map (·.1)))
        let mp := (k.lsBytes o n).any (·.2)
        ∃ t, exec i st = .next t ∧ t.cur = st.cur ∧ k.Flows t.me ∧ (∀ x, t.rd x = st.rd x) ∧
          (∀ x, t.me.lsRd x = if o ≤ x ∧ x < o + n then (r M (mp || side)).extractLsb' (8 * (x - o)) 8 else k.lsRd x) ∧
          (∀ q, t.me.x q = if q = d ∧ q ≠ 0 then M.setWidth 64 else k.x q) ∧
          (∀ q, t.me.sideOf q = if q = d ∧ q ≠ 0 then mp || (op == .fadd && M.toNat == f.poison) else k.sideOf q)) ∧
      (spaceOf m.space = 4 → ¬(op = .add ∨ op = .swp ∨ op = .cas) → exec i st = .next st.illegal) ∧
      (∀ (p : Part) (slot : Nat), spaceOf m.space = 2 → st.check2 (st.whoOf st.cur 0) .atomic m.cache va n 0 = .ok [p] →
        p.isDone = false → p.size = n → k.freeSlotNo = some slot →
        st.Single → k.early = [] →
        let M := BitVec.ofNat w (bytesNat ((st.rdBytes p.pa n).map (·.1)))
        let mp := (st.rdBytes p.pa n).any (·.2)
        (st.inCompute st.cur = true → d ≠ 0 → exec i st = .next (st.trapWith Cause.phase 0 0)) ∧
        (st.inCompute st.cur = false → st.Unlogged → st.delays = [] → k.inflight = [] →
          (∀ e ∈ (st.square (squareOf st.cur)).xbuf, e.core ≠ st.cur) → st.refuses st.cur k.serial p.pa = false →
          ∃ t, exec i st = .next t ∧ t.cur = st.cur ∧ k.Flows t.me ∧
            (∀ x, t.rd x = if p.pa ≤ x ∧ x < p.pa + n then (r M (mp || side)).extractLsb' (8 * (x - p.pa)) 8 else st.rd x) ∧
            (∀ q, t.me.x q = if q = d ∧ q ≠ 0 then M.setWidth 64 else k.x q) ∧
            (∀ q, t.me.sideOf q = if q = d ∧ q ≠ 0 then mp || (op == .fadd && M.toNat == f.poison) else k.sideOf q)) ∧
        (∀ id u l, st.inCompute st.cur = true → d = 0 → st.launchOf st.cur = some (id, u, l) → k.inflight = [] →
          l.pendFits u n = true → (st.square (squareOf st.cur)).xbuf.length < Config.exchangeEntries →
          ∃ (t : State) (e : XEntry), exec i st = .next t ∧ t.cur = st.cur ∧ k.Flows t.me ∧ (∀ x, t.rd x = st.rd x) ∧
            (t.square (squareOf st.cur)).xbuf = (st.square (squareOf st.cur)).xbuf ++ [e] ∧ e.core = st.cur ∧ e.launch = id ∧
            e.task = u ∧ e.va = p.va ∧ e.pa = p.pa ∧ e.cache = m.cache ∧ e.size = n ∧ e.kind = .atomic op n (k.x b) (k.x d) side ∧
            e.slot.map Prod.fst = some slot ∧ Map.has t.me.loads slot = true) ∧
        (∀ ds, st.inCompute st.cur = false → st.delays = true :: ds →
          ∃ (t : State) (acc : Access), exec i st = .next t ∧ t.cur = st.cur ∧ k.Flows t.me ∧ (∀ x, t.rd x = st.rd x) ∧
            (∀ q, t.me.x q = k.x q) ∧ t.me.inflight = k.inflight ++ [acc] ∧ acc.kind = .atomic op ∧ acc.parts = [p] ∧
            acc.opnd = k.x b ∧ acc.comp = k.x d ∧ acc.pois = side ∧ acc.slot = some slot)) ∧
      (∀ ps : List Part, spaceOf m.space ≠ 1 → (spaceOf m.space = 4 → op = .add ∨ op = .swp ∨ op = .cas) →
        (spaceOf m.space = 2 → st.inCompute st.cur = false) → (side = false ∨ spaceOf m.space = 2) → st.Single →
        st.checkSpace (st.whoOf st.cur 0) (spaceOf m.space) .atomic m.cache va n 0 = .ok ps → k.freeSlotNo.isSome = true →
        ∃ t, exec i st = .next t ∧ t.cur = st.cur ∧ k.Flows t.me ∧ ∀ q, q ≠ d → t.me.x q = k.x q)
    acts (.amoadd d a b s) .add (fun M _ => M + B) ∧ acts (.amoand d a b s) .and (fun M _ => M &&& B) ∧
    acts (.amoor d a b s) .or (fun M _ => M ||| B) ∧ acts (.amoxor d a b s) .xor (fun M _ => M ^^^ B) ∧
    acts (.amomin d a b s) .min (fun M _ => if M.toInt ≤ B.toInt then M else B) ∧
    acts (.amomax d a b s) .max (fun M _ => if B.toInt ≤ M.toInt then M else B) ∧
    acts (.amominu d a b s) .minu (fun M _ => if M.toNat ≤ B.toNat then M else B) ∧
    acts (.amomaxu d a b s) .maxu (fun M _ => if B.toNat ≤ M.toNat then M else B) ∧
    acts (.amoswp d a b s) .swp (fun _ _ => B) ∧ acts (.amocas d a b s) .cas (fun M _ => if M = D then B else M) ∧
    acts (.amofadd d a b s) .fadd (fun M p => BitVec.ofNat w (if p = true ∨ M.toNat = f.poison ∨ B.toNat = f.poison then f.poison
      else (f.round .rne (FVal.sum .rne [f.val M.toNat, f.val B.toNat])).bits))

/-- LDCTL reads and STCTL writes slice control space. Above level 0, with unpoisoned, untainted operands, a control
address that passes its checks, a free slot for LDCTL, a core that is not doubled for STCTL, and no older access
that holds it back: LDCTL writes d with a queue descriptor's dword in the layout of its table, or a vector
descriptor's; STCTL installs the descriptor that the slice accepts, and where the slice refuses it traps BOUNDS with
the descriptor as it was. A queue descriptor with V = 1 and LOGD 0, or more than 1,024 rows, or a start not aligned
to its size, is refused. A misaligned control address traps ALIGN, one outside the descriptors BOUNDS; at level 0
both forms trap PRIV. (R99, R100, R394.) The model's choice or reading, no rule's: FADDR or FSTART 0 where no rule
states a value, and STR of a stop (notes/assumptions/10.md); which operands are consumed, and the order of checks
(notes/assumptions/28.md); which load slot is taken (notes/assumptions/43.md). -/
def Obligations.SliceControl : Prop :=
  ∀ (st : State) (d a : R5),
    let k := st.me
    let va := (k.x a).toNat
    (k.level = 0 → exec (.ldctl d a) st = .next (st.trapWith Cause.priv 0 0) ∧
      exec (.stctl d a) st = .next (st.trapWith Cause.priv 0 0)) ∧
    (k.level ≠ 0 → k.sideOf a = false → (k.taints [a.toNat, d.toNat]).isEmpty = true → (k.taints [a.toNat]).isEmpty = true →
      (va % 8 ≠ 0 → exec (.ldctl d a) st = .next (st.trapWith Cause.align va va) ∧
        exec (.stctl d a) st = .next (st.trapWith Cause.align va va)) ∧
      (va % 8 = 0 → (2 ^ 27 ≤ va ∨ va % 65536 < 0x1000 ∨ 0x4000 ≤ va % 65536) →
        exec (.ldctl d a) st = .next (st.trapWith Cause.bounds va va) ∧
        exec (.stctl d a) st = .next (st.trapWith Cause.bounds va va)) ∧
      (va % 8 = 0 → va < 2 ^ 27 → 0x1000 ≤ va % 65536 → va % 65536 < 0x2000 →
        let sl := va / 65536
        let q := (va % 65536 - 0x1000) / 16
        let high := va % 16 = 8
        let e := (st.slice sl).qdesc q
        (k.freeSlotNo.isSome = true → st.orderly .load privMods = true → e.zeros = 0 → e.head < 2 ^ 16 → e.tail < 2 ^ 16 →
          e.ctx < 64 → e.base < 2 ^ 15 → e.logd < 16 →
          ∃ (k' : Core) (v : Dword), exec (.ldctl d a) st = .next (st.setMe k') ∧
            ({ k with loadSeq := k.loadSeq + 1 } : Core).Wrote k' d v false (k.taints [a.toNat]) ∧
            (high → (v.extractLsb' 0 16).toNat = e.head ∧ (v.extractLsb' 16 16).toNat = e.tail ∧
              (v.extractLsb' 32 6).toNat = e.ctx ∧ v.extractLsb' 38 26 = 0) ∧
            (¬high → (v.extractLsb' 0 15).toNat = e.base ∧ v.getLsbD 15 = false ∧ v.getLsbD 16 = e.valid ∧
              v.getLsbD 17 = e.rows ∧ (v.extractLsb' 18 4).toNat = e.logd ∧ v.extractLsb' 22 42 = 0)) ∧
        (st.orderly .store privMods = true → st.Single →
          (∀ e', (st.slice sl).writeQueue q (decide high) (k.x d).toNat = some e' →
            ∃ k', exec (.stctl d a) st = .next ((st.modSlice sl (fun x => { x with queues := Map.set QDesc.reset x.queues q e' })).setMe k') ∧
              k.Passed k') ∧
          ((st.slice sl).writeQueue q (decide high) (k.x d).toNat = none →
            exec (.stctl d a) st = .next (st.trapWith Cause.bounds va va)) ∧
          (¬high → (k.x d).getLsbD 16 = true →
            ((k.x d).extractLsb' 18 4 = 0 ∨ ((k.x d).getLsbD 17 = true ∧ 10 < ((k.x d).extractLsb' 18 4).toNat) ∨
              8 * ((k.x d).extractLsb' 0 15).toNat %
                (2 ^ ((k.x d).extractLsb' 18 4).toNat * if (k.x d).getLsbD 17 then 256 else 8) ≠ 0) →
            exec (.stctl d a) st = .next (st.trapWith Cause.bounds va va)))) ∧
      (va % 8 = 0 → va < 2 ^ 27 → 0x2000 ≤ va % 65536 → va % 65536 < 0x4000 →
        let sl := va / 65536
        let i := (va % 65536 - 0x2000) / 256
        let dw := va % 256 / 8
        (k.freeSlotNo.isSome = true → st.orderly .load privMods = true →
          ∃ k', exec (.ldctl d a) st = .next (st.setMe k') ∧
            ({ k with loadSeq := k.loadSeq + 1 } : Core).Wrote k' d ((st.vec sl i).dword dw) false (k.taints [a.toNat])) ∧
        (st.orderly .store privMods = true → st.Single →
          (∀ v', st.writeVec sl i dw (k.x d).toNat = some v' →
            ∃ k', exec (.stctl d a) st = .next ((st.setVec sl i v').setMe k') ∧ k.Passed k') ∧
          (st.writeVec sl i dw (k.x d).toNat = none → exec (.stctl d a) st = .next (st.trapWith Cause.bounds va va)))))

/-- FENCE and ACQ wait for older accesses, REL makes later ones wait; TCLR, TMRG and TQRY act on taint alone. With
nothing in flight FENCE retires, with no load outstanding ACQ does; both drop the loads that have performed early
and, wider than core scope, the L1, and nothing else changes; else they wait. REL retires in every state: with
accesses in flight it leaves a marker behind them, which holds back every later store and atomic. TCLR empties the
taint of a register or tile, TMRG unites it with a's, TQRY writes d with the set's encoding and an empty taint; no
value, side bit or other taint changes, and TCLR and TMRG wait while the place's youngest writer has not performed.
(R129, R141, R142, R372, R374.) The model's choice or reading, no rule's: which younger loads perform early, and
what undoes one (notes/assumptions/19.md). -/
def Obligations.OrderingAndTaint : Prop :=
  ∀ (st : State) (d a : R5) (s : BitVec 3) (t : BitVec 1),
    let k := st.me
    let wider : Core := { k with l1 := if s = 0 then k.l1 else [], early := [] }
    let p (r : R5) : Nat := if t = 1 then 32 + r.toNat % 8 else r.toNat
    let sets (i : Instr) (v : Taint) : Prop :=
      (Map.has k.pend (p d) = true → exec i st = .next st.wait) ∧
      (Map.has k.pend (p d) = false → ∃ k', exec i st = .next (st.setMe k') ∧
        (∀ q, k'.taintOf q = if q = p d ∧ q ≠ 0 then v else k.taintOf q) ∧ ({ k with taint := k'.taint } : Core).Passed k')
    (k.inflight = [] → (∃ k', exec (.fence s) st = .next (st.setMe k') ∧ wider.Passed k') ∧
      ∃ k', exec (.rel s) st = .next (st.setMe k') ∧ k.Passed k') ∧
    (k.inflight ≠ [] → exec (.fence s) st = .next st.wait ∧
      ∃ (k' : Core) (b : Access), exec (.rel s) st = .next (st.setMe k') ∧ b.kind = .rel ∧ b.parts = [] ∧ b.id = k.serial ∧
        ({ k with inflight := k.inflight ++ [b], serial := k.serial + 1 } : Core).Passed k' ∧
        ∀ a : Access, a.kind.stores = true → holdsBack b a = true) ∧
    (k.inflight.any (fun x => x.kind.reads) = false → ∃ k', exec (.acq s) st = .next (st.setMe k') ∧ wider.Passed k') ∧
    (k.inflight.any (fun x => x.kind.reads) = true → exec (.acq s) st = .next st.wait) ∧
    sets (.tclr d t) Taint.clean ∧ sets (.tmrg d a t) ((k.taintOf (p d)).union k.loads (k.taintOf a.toNat)) ∧
    (∃ k', exec (.tqry d a t) st = .next (st.setMe k') ∧ k.Wrote k' d (k.taintOf (p a)).encode false Taint.clean)

/-- Slice queues enqueue, dequeue and report in one step at their slice. With an unpoisoned, untainted handle that names
a usable queue of the instruction's entry size, no older access that holds it back, and no scoresheet: QENQ of a
queue with room stores its entry at TAIL, raises TAIL and answers 0, and of a full queue changes nothing at the
slice and answers 1; QDEQ of a queue that is not empty delivers the entry at HEAD, raises HEAD and answers 0, and of
an empty one answers 1 and leaves b; where d and b are one register it holds one of the two. QSTAT writes the
descriptor's counts; QINIT sets HEAD and TAIL to 0; QWAIT of a queue that is not empty returns. The row forms pop
their SQ and push their LQ. No byte of memory and no other register changes. A handle that names no usable queue
traps QUEUE. (R376, R377, R378, R379, R101, R102.) The model's choice or reading, no rule's: a value that the spec
leaves open is free (notes/assumptions/3.md); FADDR or FSTART 0 where no rule states a value, and STR of a stop
(notes/assumptions/10.md); a slice-queue operation as one step of its slice (notes/assumptions/35.md); which load
slot is taken (notes/assumptions/43.md). -/
def Obligations.SliceQueueOperations : Prop :=
  ∀ (st : State) (d a b : R5) (q : BitVec 2),
    let k := st.me
    let h := (k.x a).toNat
    let loads := (k.mods .load true).strong
    let stores := (k.mods .store true).strong
    k.sideOf a = false → (k.taints [a.toNat]).isEmpty = true → (k.taints [a.toNat, b.toNat]).isEmpty = true →
    (∀ id u l, st.launchOf st.cur = some (id, u, l) → l.dbl = false ∧ l.scr = 0) →
    (st.queueOf h = none → ∀ i ∈ [Instr.qenq d a b 0 0, .qdeq d a b 0 0, .qstat d a, .qinit a],
      exec i st = .next (st.trapWith Cause.queue 0 0)) ∧
    (∀ sl i e, st.queueOf h = some (sl, i, e) →
      (st.orderly .store stores = true → e.rows = false →
        ∃ t, exec (.qenq d a b 0 0) st = .next t ∧ t.cur = st.cur ∧ k.Flows t.me ∧ (∀ x, t.rd x = st.rd x) ∧
          (∀ r, t.me.x r = if r = d ∧ r ≠ 0 then (if e.count < 2 ^ e.logd then 0 else 1) else k.x r) ∧
          (e.count < 2 ^ e.logd → (t.slice sl).qdesc i = { e with tail := (e.tail + 1) % 65536 } ∧
            (t.slice sl).getEntry e e.tail = ((k.x b).toNat, k.sideOf b) ∧
            ∀ j, j % 2 ^ e.logd ≠ e.tail % 2 ^ e.logd → (t.slice sl).getEntry e j = (st.slice sl).getEntry e j) ∧
          (2 ^ e.logd ≤ e.count → t.slice sl = st.slice sl)) ∧
      (∀ (x : QEntry) (xs : List QEntry), st.orderly .store stores = true → e.rows = true → q.toNat < 2 →
        k.queue (4 + q.toNat) = x :: xs → x.taint.isEmpty = true →
        ∃ t, exec (.qenq d a 0 (q.setWidth 1) 1) st = .next t ∧ t.cur = st.cur ∧ k.Flows t.me ∧ t.me.queue (4 + q.toNat) = xs ∧
          (∀ r, t.me.x r = if r = d ∧ r ≠ 0 then (if e.count < 2 ^ e.logd then 0 else 1) else k.x r) ∧
          (e.count < 2 ^ e.logd → (t.slice sl).getEntry e e.tail = (x.data.toNat, x.pois)) ∧
          (2 ^ e.logd ≤ e.count → t.slice sl = st.slice sl)) ∧
      (st.orderly .load loads = true → k.freeSlotNo.isSome = true → e.rows = false →
        ∃ t, exec (.qdeq d a b 0 0) st = .next t ∧ t.cur = st.cur ∧ k.Flows t.me ∧ (∀ x, t.rd x = st.rd x) ∧
          (∀ r, r ≠ d → r ≠ b → t.me.x r = k.x r) ∧
          (e.count = 0 → t.me.x d = (if d = 0 then 0 else 1) ∧ (b ≠ d → t.me.x b = k.x b) ∧ t.slice sl = st.slice sl) ∧
          (e.count ≠ 0 → (t.slice sl).qdesc i = { e with head := (e.head + 1) % 65536 } ∧
            let v : Dword := BitVec.ofNat 64 ((st.slice sl).getEntry e e.head).1
            (b ≠ d → t.me.x d = 0 ∧ (b ≠ 0 → t.me.x b = v)) ∧ (b = d → t.me.x d = 0 ∨ t.me.x d = v))) ∧
      (st.orderly .load loads = true → k.freeSlotNo.isSome = true → e.rows = true → (k.queue q.toNat).length < 8 →
        ∃ (t : State) (x : QEntry), exec (.qdeq d a 0 q 1) st = .next t ∧ t.cur = st.cur ∧ k.Flows t.me ∧
          t.me.queue q.toNat = k.queue q.toNat ++ [x] ∧ x.filled = true ∧
          (e.count = 0 → x.data = 0 ∧ x.pois = false) ∧
          (e.count ≠ 0 → x.data.toNat = ((st.slice sl).getEntry e e.head).1 % 2 ^ 2048 ∧
            x.pois = ((st.slice sl).getEntry e e.head).2 ∧ (t.slice sl).qdesc i = { e with head := (e.head + 1) % 65536 }) ∧
          (∀ r, t.me.x r = if r = d ∧ r ≠ 0 then (if e.count = 0 then 1 else 0) else k.x r)) ∧
      (st.orderly .load loads = true → k.freeSlotNo.isSome = true → e.head < 2 ^ 16 → e.tail < 2 ^ 16 → e.logd < 16 →
        ∃ (t : State) (v : Dword), exec (.qstat d a) st = .next t ∧ t.cur = st.cur ∧ k.Flows t.me ∧
          (∀ r, t.me.x r = if r = d ∧ r ≠ 0 then v else k.x r) ∧ (v.extractLsb' 0 16).toNat = e.head ∧
          (v.extractLsb' 16 16).toNat = e.tail ∧ v.getLsbD 32 = true ∧ v.getLsbD 33 = e.rows ∧
          (v.extractLsb' 34 4).toNat = e.logd ∧ v.extractLsb' 38 26 = 0 ∧ (∀ x, t.rd x = st.rd x) ∧ t.slices = st.slices) ∧
      (st.orderly .store stores = true →
        ∃ (t : State), exec (.qinit a) st = .next t ∧ t.cur = st.cur ∧ k.Passed t.me ∧ (∀ x, t.rd x = st.rd x) ∧
          (t.slice sl).qdesc i = { e with head := 0, tail := 0 }) ∧
      (st.orderly .load loads = true → e.count ≠ 0 → k.sleep = none →
        ∃ t, exec (.qwait a) st = .next t ∧ t.cur = st.cur ∧ k.Flows t.me ∧ (∀ r, t.me.x r = k.x r) ∧ t.slices = st.slices ∧
          t.me.sleep = none))

/-- CHSEND, CHRECV, CHPOLL and XRECV on declared channels. For a task's declared channel of the right direction: CHSEND
with a free slot, room in the counters and no access in flight to its bytes takes one slot and puts the message's
bytes in flight to its peer; with none it waits. CHRECV, where it has no slot to return or is not doubled, frees the
slot of the last one, which sends a slot return, and with a message waiting it takes the next slot and writes its
address to d. CHPOLL writes the free slots of a sender or the messages waiting at a receiver. XRECV writes the bytes
of its exchange class that have arrived. No byte of memory and no other register or channel changes. An undeclared
channel, a wrong direction, or a class without a slot traps CHANNEL, a misaligned address BOUNDS. (R240, R380, R381,
R382, R383, R392.) The model's choice or reading, no rule's: FADDR or FSTART 0 where no rule states a value, and STR
of a stop (notes/assumptions/10.md); how a doubled task's copies run and what their hashes cover
(notes/assumptions/36.md); which load slot is taken (notes/assumptions/43.md). -/
def Obligations.ChannelTransfers : Prop :=
  ∀ (st : State) (d a : R5) (c : BitVec 4) (id n : Nat) (l : Launch), st.launchOf st.cur = some (id, n, l) →
    let k := st.me
    let loads := k.mods .load true
    let stores := k.mods .store true
    let e := st.chEntry l st.cur n c.toNat
    let ch := k.chan c.toNat
    let va := (k.x a).toNat
    let dq := squareOf (l.pcore e.peer)
    let reads (i : Instr) (v : Dword) : Prop := ∃ k', exec i st = .next (st.setMe k') ∧
      ({ k with loadSeq := k.loadSeq + 1, early := if loads.ord = 2 ∨ loads.ord = 4 ∨ loads.ord = 5 then [] else k.early,
                l1 := if (loads.ord = 2 ∨ loads.ord = 4 ∨ loads.ord = 5) ∧ loads.scope ≠ 0 then [] else k.l1 } : Core).Wrote k' d v false Taint.clean
    (e.v = false → exec (.chrecv d c) st = .next (st.trapWith Cause.channel 0 0) ∧
      exec (.chpoll d c) st = .next (st.trapWith Cause.channel 0 0)) ∧
    (e.receives = false → exec (.chrecv d c) st = .next (st.trapWith Cause.channel 0 0)) ∧
    (k.Clear [a] → (e.v = false ∨ e.receives = true) → exec (.chsend a c) st = .next (st.trapWith Cause.channel 0 0)) ∧
    (k.Clear [a] → e.v = true → e.receives = false →
      (va % 256 ≠ 0 → exec (.chsend a c) st = .next (st.trapWith Cause.bounds va va)) ∧
      (va % 256 = 0 → va / 2 ^ 21 % 8 = 0 → k.checkLocal va e.size = .ok () → st.orderly .store stores = true → k.localClear [(va, e.size)] = true →
        (ch.count = 0 → exec (.chsend a c) st = .next st.wait) ∧
        (ch.count ≠ 0 → l.pendFits n e.size = true → l.dbl = false →
          ∃ (t : State) (x : Msg), exec (.chsend a c) st = .next t ∧ t.cur = st.cur ∧ k.Flows t.me ∧
            t.me.chan c.toNat = { ch with count := ch.count - 1 } ∧ (∀ j, j ≠ c.toNat → t.me.chan j = k.chan j) ∧
            t.msgs = Map.put st.msgs st.msgId x ∧ x.cls = 4 ∧ x.launch = id ∧ x.task = n ∧ x.number = k.arch.sendNo ∧
            x.src = squareOf st.cur ∧ x.dst = dq ∧
            x.body = .chan id e.peer e.pch ((List.range e.size).map (fun j => k.lsRd (va % 2 ^ 21 + j)))
              (PBytes.granules (k.lsBytes (va % 2 ^ 21) e.size)) ∧
            t.launch? id = some (l.pendAdd n e.size) ∧ (∀ r, t.me.x r = k.x r) ∧ t.me.ls = k.ls ∧ t.mem = st.mem))) ∧
    (e.v = true → e.receives = true → st.orderly .load loads = true →
      (ch.waiting = 0 → ch.held = none → exec (.chrecv d c) st = .next st.wait) ∧
      (ch.waiting ≠ 0 → (l.dbl = false ∨ ch.held = none) → k.freeSlotNo.isSome = true →
        ∃ t, exec (.chrecv d c) st = .next t ∧ t.cur = st.cur ∧ k.Flows t.me ∧
          t.me.chan c.toNat = { count := (ch.count + 1) % e.slots, waiting := ch.waiting - 1, held := some ch.count } ∧
          (∀ j, j ≠ c.toNat → t.me.chan j = k.chan j) ∧
          (∀ r, t.me.x r = if r = d ∧ r ≠ 0 then BitVec.ofNat 64 (e.base + ch.count * e.size) else k.x r) ∧
          (∀ r, t.me.sideOf r = if r = d ∧ r ≠ 0 then false else k.sideOf r) ∧ t.me.ls = k.ls ∧ t.mem = st.mem ∧
          (ch.held = none → t.msgs = st.msgs) ∧
          (ch.held ≠ none → ∃ x : Msg, t.msgs = Map.put st.msgs st.msgId x ∧ x.dst = dq ∧
            x.body = .slotReturn id e.peer e.pch))) ∧
    (e.v = true → st.orderly .load loads = true → k.freeSlotNo.isSome = true →
      reads (.chpoll d c) (BitVec.ofNat 64 (if e.receives then ch.waiting else ch.count))) ∧
    (l.sxc = true → c.toNat < (st.schedule l st.cur).2.2.1 → st.orderly .load loads = true → k.freeSlotNo.isSome = true →
      reads (.xrecv d c) (BitVec.ofNat 64 (Map.get 0 k.xbytes c.toNat))) ∧
    ((l.sxc = false ∨ (st.schedule l st.cur).2.2.1 ≤ c.toNat) →
      exec (.xrecv d c) st = .next (st.trapWith Cause.channel 0 0))

/-- LMZERO, LMCOPY and LMCMP issue within one layer; LMFENCE waits for them. With operands that hold no poison and await
no load, a length that is a nonzero multiple of 256 up to 1 MiB, and aligned raw ranges that lie in one powered
layer, in no layer that changes state, each of the three issues its command under the next number of its timeline
and retires; while a layer changes state they wait; LMCMP takes a load slot, and c waits for it. A length that is no
multiple of 256, or 0, or more than 1 MiB, and a range that is misaligned, leaves its layer or lies in another layer
than the first, traps BOUNDS at the range's address. LMFENCE retires once no in-layer operation and no access to the
local store is outstanding and changes nothing else; else it waits. (R68, R70, R384, R385, R145.) The model's choice
or reading, no rule's: the order in which commands perform, and what waits for the scoreboard's room
(notes/assumptions/18.md); which load slot is taken (notes/assumptions/43.md); FADDR and FSTART of the length check
(notes/assumptions/52.md). -/
def Obligations.InLayerCommandsIssue : Prop :=
  ∀ (st : State) (a b c : R5) (t : BitVec 3),
    let k := st.me
    let va (r : R5) : Nat := (k.x r).toNat
    let len := (k.x c).toNat
    let inside (r : R5) : Prop := va r % 256 = 0 ∧ va r < 2 ^ 21 ∧ va r / 2 ^ 20 = (va r + len - 1) / 2 ^ 20 ∧
      va r % 2 ^ 20 + len ≤ (k.layer (decide (2 ^ 20 ≤ va r))).usable ∧ va r / 2 ^ 20 = va a / 2 ^ 20
    let sized : Prop := len % 256 = 0 ∧ 0 < len ∧ len ≤ 2 ^ 20
    let plain (i : Instr) (w : CmdKind) : Prop := ∃ s', exec i st = .next s' ∧ st.Issued s' w t ∧
      s'.me.taint = k.taint ∧ s'.me.pend = k.pend ∧ s'.me.loads = k.loads
    (k.Clear [a, c] → sized → inside a → k.checkLocal (va a) len = .ok () → k.scoreboard + 1 ≤ Config.scoreboardEntries →
      plain (.lmzero a c t) (.lmzero (va a) len)) ∧
    (k.Clear [a, c] → (¬sized ∨ ¬inside a) → exec (.lmzero a c t) st = .next (st.trapWith Cause.bounds (va a) (va a))) ∧
    (k.Clear [a, c] → sized → inside a → k.checkLocal (va a) len = .hold → exec (.lmzero a c t) st = .next st.wait) ∧
    (k.Clear [a, b, c] → sized → inside a → inside b → k.checkLocal (va a) len = .hold →
      exec (.lmcopy a b c t) st = .next st.wait ∧ exec (.lmcmp a b c t) st = .next st.wait) ∧
    (k.Clear [a, b, c] → sized → inside a → inside b → k.checkLocal (va a) len = .ok () →
      k.scoreboard + 2 ≤ Config.scoreboardEntries →
      plain (.lmcopy a b c t) (.lmcopy (va a) (va b) len) ∧
      ∀ slot, k.freeSlotNo = some slot → ∃ s', exec (.lmcmp a b c t) st = .next s' ∧
        st.Issued s' (.lmcmp (va a) (va b) len c.toNat) t ∧ Map.find? s'.me.loads slot = some (k.loadSeq + 1) ∧
        (c ≠ 0 → Map.find? s'.me.pend c.toNat = some slot)) ∧
    (k.Clear [a, b, c] → sized → inside a → ¬inside b →
      exec (.lmcopy a b c t) st = .next (st.trapWith Cause.bounds (va b) (va b)) ∧
      exec (.lmcmp a b c t) st = .next (st.trapWith Cause.bounds (va b) (va b))) ∧
    (k.cmds.any (fun x => x.word.isInLayer) = false → (∀ x ∈ k.inflight, x.space ≠ 1) → ∃ k', exec .lmfence st = .next (st.setMe k') ∧ k.Passed k') ∧
    ((k.cmds.any (fun x => x.word.isInLayer) = true ∨ ∃ x ∈ k.inflight, x.space = 1) → exec .lmfence st = .next st.wait)

/-- MCRD, REDSEND and XSEND issue outside compute phases and enter the pending bytes. In a task that stands in no
compute phase, with operands that hold no poison and await no load, limits and checks that pass, and room in the
counters and on the scoreboard, on a core that is not doubled: MCRD, REDSEND of a member of a declared tree, and
XSEND of a class with a slot each issue their command under the next number of their timeline, raise the counters of
their task's barrier levels by the bytes they send, and retire; REDSEND takes the next ordinal of its tree. In a
compute phase each traps PHASE. An MCRD with an empty mask, a REDSEND of 0 or more than 64 elements, and an XSEND to
a task beyond the launch trap as their rules say. (R204, R386, R388, R389, R391, R145.) The model's choice or
reading, no rule's: FADDR or FSTART 0 where no rule states a value, and STR of a stop (notes/assumptions/10.md); the
order in which commands perform, and what waits for the scoreboard's room (notes/assumptions/18.md); which traffic
is held as packets (notes/assumptions/32.md). -/
def Obligations.FabricCommandsIssue : Prop :=
  ∀ (st : State) (a b c : R5) (t : BitVec 3) (n o : BitVec 2) (q : BitVec 4) (id u : Nat) (l : Launch),
    st.launchOf st.cur = some (id, u, l) →
    let k := st.me
    let m := k.mods .store true
    let va := (k.x a).toNat
    let vb := (k.x b).toNat
    let vc := (k.x c).toNat
    let issues (i : Instr) (s0 : State) (w : CmdKind) (bytes : Nat) : Prop := ∃ s', exec i st = .next s' ∧ s0.Issued s' w t ∧
      s'.me.taint = k.taint ∧ s'.me.pend = k.pend ∧ s'.me.loads = k.loads ∧ s'.launch? id = some (l.pendAdd u bytes)
    let bytes := 256 * ((k.x b).extractLsb' 16 9).toNat + 256
    let copies := bytes * popTo ((k.x b).extractLsb' 0 16).toNat 16
    (st.inCompute st.cur = true →
      (k.Clear [a, b, c] → exec (.mcrd a b c t) st = .next (st.trapWith Cause.phase 0 0) ∧
        exec (.xsend a b c t q) st = .next (st.trapWith Cause.phase 0 0)) ∧
      (k.Clear [a, b] → exec (.redsend a b t n o) st = .next (st.trapWith Cause.phase 0 0))) ∧
    (st.inCompute st.cur = false →
      (k.Clear [a, b, c] → (k.x b).extractLsb' 0 16 = 0 → exec (.mcrd a b c t) st = .next (st.trapWith Cause.bounds 0 0)) ∧
      (k.Clear [a, b, c] → (k.x b).extractLsb' 0 16 ≠ 0 → (k.x b).extractLsb' 25 7 = 0 → vb < 2 ^ 43 → vc % 256 = 0 →
        vc + bytes ≤ 2 ^ 21 → va % 256 = 0 →
        (∀ ps, st.check2 (st.whoOf st.cur 0) .load (k.mods .load false).cache va bytes 0 = .ok ps →
          l.pendFits u copies = true → k.scoreboard ≤ Config.scoreboardEntries → l.dbl = false →
          issues (.mcrd a b c t) st (.mcrd va vc bytes ((k.x b).extractLsb' 0 16).toNat ((k.x b).extractLsb' 32 4).toNat
            ((k.x b).extractLsb' 36 4).toNat ((k.x b).extractLsb' 40 3).toNat (k.mods .load false).cache) copies)) ∧
      (k.Clear [a, b] →
        let tr := st.tree l st.cur n.toNat
        let member := tr.v = true ∧ u ∈ l.members tr (l.instOf tr.lvl u)
        let ordinal := Map.get 0 k.arch.redSent n.toNat
        (¬member → exec (.redsend a b t n o) st = .next (st.trapWith Cause.channel 0 0)) ∧
        (member → (vb = 0 ∨ 64 < vb) → exec (.redsend a b t n o) st = .next (st.trapWith Cause.channel 0 0)) ∧
        (member → 1 ≤ vb → vb ≤ 64 → va % 4 = 0 → va / 2 ^ 21 % 8 = 0 → k.checkLocal va (4 * vb) = .ok () →
          st.orderly .store m = true → l.pendFits u (4 * vb) = true → k.scoreboard + 1 ≤ Config.scoreboardEntries →
          l.dbl = false →
          issues (.redsend a b t n o)
            (st.setMe { k with arch := { k.arch with redSent := Map.put k.arch.redSent n.toNat (ordinal + 1) } })
            (.redsend n.toNat o.toNat va vb ordinal) (4 * vb))) ∧
      (k.Clear [a, b, c] → l.sxc = true → q.toNat < (st.schedule l st.cur).2.2.1 →
        let ofs := ((k.x c).extractLsb' 0 21).toNat
        let peer := ((k.x c).extractLsb' 32 13).toNat
        (l.count ≤ peer → exec (.xsend a b c t q) st = .next (st.trapWith Cause.channel 0 0)) ∧
        (peer < l.count → vb % 256 = 0 → 0 < vb → vb ≤ 65536 → ofs % 256 = 0 → ofs + vb ≤ 2 ^ 21 →
          (k.x c).extractLsb' 21 11 = 0 → vc < 2 ^ 45 → va % 256 = 0 → va / 2 ^ 21 % 8 = 0 → k.checkLocal va vb = .ok () →
          st.orderly .store m = true → l.pendFits u vb = true → k.scoreboard + 1 ≤ Config.scoreboardEntries → l.dbl = false →
          issues (.xsend a b c t q) st (.xsend q.toNat va vb peer ofs) vb)))

/-- Copy commands issue, and LAUNCH appends its record. With operands that hold no poison and await no load, SP = 1 only
above level 0, values within the limits of their fields, a table and ranges that pass their checks, and no compute
phase where the destination is device memory, CPY, CPY2D, CPYGA, CPYSC, CPYFI and CPYCV each issue their command,
with the fields that its registers give, under the next number of their timeline, and retire. SP = 1 at level 0
traps PRIV; a value outside its limits traps BOUNDS with the value, for CPYFI FIFO with the number of the FIFO; a
CPYCV format register that names no valid format traps FORMAT. PREF only retires. With a 256-aligned record address
that passes its checks, a queue below 16, nothing in flight, no slice that refuses and a free slot, on a core that
is not doubled, above level 0 or with a record of the core's own context: where the queue's ring is aligned below
the top of device memory and has room, the record's 256 bytes are stored at its tail, TAIL rises by one and c takes
0; otherwise c takes 1 and nothing else changes. A record of another context traps PRIV at level 0; a misaligned
address or a queue above 15 traps BOUNDS. (R443, R444, R145, R224, R216, R217, R445.) The model's choice or reading,
no rule's: FADDR or FSTART 0 where no rule states a value, and STR of a stop (notes/assumptions/10.md); the order in
which commands perform, and what waits for the scoreboard's room (notes/assumptions/18.md); which operands are
consumed, and the order of checks (notes/assumptions/28.md). -/
def Obligations.CopyAndLaunchCommandsIssue : Prop :=
  (
  ∀ (st : State) (a b c : R5) (h : BitVec 4) (t : BitVec 3) (d p f : BitVec 2) (e : BitVec 1),
    let k := st.me
    let who := st.copyWho st.cur (k.level != 0) k.mdefCache
    let x := k.x c
    let c0 : R5 := h.setWidth 5 <<< 1
    let y := k.x c0
    let z := k.x (c0 + 1)
    let copies (i : Instr) (rs : List R5) (w : CmdKind) : Prop :=
      let cmd := mkCmd w t.toNat (w.localRanges k)
      k.Clear rs → (p = 1 → k.level ≠ 0) → st.tableFault w = none →
      (w.byElement = true → k.conflicts { cmd with id := k.serial, ranges := cmd.ranges.take 1 } = false) →
      st.copyFault who w = none → (st.inCompute st.cur = true → ∀ s r, w.spaces = some (s, r) → r ≠ 2 ∧ r ≠ 5) →
      k.scoreboard + cmd.ranges.length ≤ Config.scoreboardEntries → st.Single →
      ∃ s', exec i st = .next s' ∧ st.Issued s' w t ∧ s'.me.taint = k.taint ∧ s'.me.pend = k.pend ∧ s'.me.loads = k.loads
    let stops (i : Instr) (rs : List R5) (code fa fs : Nat) : Prop :=
      (∀ r ∈ rs, k.sideOf r = false) → (p = 1 → k.level ≠ 0) → exec i st = .next (st.trapWith code fa fs)
    let cpy := Instr.cpy a b c t d p
    let cpy2d := Instr.cpy2d a b h t d p
    let cpyga := Instr.cpyga a b c t p
    let cpysc := Instr.cpysc a b c t p
    let cpyfi := Instr.cpyfi f b c t e p
    let cpycv := Instr.cpycv a b c t e p
    let limit := if d = 2 then 2 ^ 24 else 2 ^ 21
    let n := x.toNat
    let count := (x.extractLsb' 0 16).toNat + 1
    let lg := (x.extractLsb' 16 4).toNat
    let fmt := (x.extractLsb' 16 3).toNat
    let mode := (k.arch.rmode.extractLsb' 0 3).toNat
    (p = 1 → k.level = 0 → (∀ r ∈ [a, b, c, c0, c0 + 1], k.sideOf r = false) →
      ∀ i ∈ [cpy, cpy2d, cpyga, cpysc, cpyfi, cpycv], exec i st = .next (st.trapWith Cause.priv 0 0)) ∧
    (1 ≤ n → n ≤ limit → copies cpy [a, b, c] (.cpy d.toNat p.toNat (k.x a).toNat (k.x b).toNat n)) ∧
    ((n = 0 ∨ limit < n) → stops cpy [a, b, c] Cause.bounds n 0) ∧
    (y.extractLsb' 0 20 ≠ 0 → y.toNat < 2 ^ 36 → copies cpy2d [a, b, c0, c0 + 1]
      (.cpy2d d.toNat p.toNat (k.x a).toNat (k.x b).toNat (y.extractLsb' 0 20).toNat ((y.extractLsb' 20 16).toNat + 1)
        (z.extractLsb' 0 32).toInt (z.extractLsb' 32 32).toInt)) ∧
    ((y.extractLsb' 0 20 = 0 ∨ 2 ^ 36 ≤ y.toNat) → stops cpy2d [a, b, c0, c0 + 1] Cause.bounds y.toNat 0) ∧
    (n < 2 ^ 20 → lg ≤ 8 →
      ((k.x b).toNat % 8 = 0 → copies cpyga [a, b, c] (.cpyga p.toNat (k.x a).toNat (k.x b).toNat count lg)) ∧
      ((k.x a).toNat % 8 = 0 → copies cpysc [a, b, c] (.cpysc p.toNat (k.x a).toNat (k.x b).toNat count lg))) ∧
    ((k.x b).toNat % 8 ≠ 0 → stops cpyga [a, b, c] Cause.bounds (k.x b).toNat 0) ∧
    ((k.x a).toNat % 8 ≠ 0 → stops cpysc [a, b, c] Cause.bounds (k.x a).toNat 0) ∧
    (32 ≤ n → n ≤ Config.fifoBytes → n % 32 = 0 →
      copies cpyfi [b, c] (.cpyfi f.toNat (e == 1) p.toNat (k.x b).toNat n)) ∧
    ((n < 32 ∨ Config.fifoBytes < n ∨ n % 32 ≠ 0) → stops cpyfi [b, c] Cause.fifo f.toNat n) ∧
    (n < 2 ^ 19 → fmt ≠ 0 → (k.fmtReg fmt).isSome = true → (e = 1 ∨ (roundMode mode).isSome = true) →
      copies cpycv [a, b, c] (.cpycv (e == 1) p.toNat (k.x a).toNat (k.x b).toNat count (Map.get 0 k.arch.fmts fmt) mode)) ∧
    ((2 ^ 19 ≤ n ∨ fmt = 0) → stops cpycv [a, b, c] Cause.bounds n 0) ∧
    (n < 2 ^ 19 → fmt ≠ 0 → k.fmtReg fmt = none → stops cpycv [a, b, c] Cause.format fmt 0) ∧
    ∃ k', exec (.pref b c p) st = .next (st.setMe k') ∧ k.Passed k')
  ∧ (
  ∀ (st : State) (a b c : R5) (ps : List Part),
    let k := st.me
    let va := (k.x a).toNat
    let i := (k.x b).toNat
    let q := st.lqueue i
    let bs := (ps.flatMap (fun p => st.overlay st.cur (st.lastLoad st.cur) 0 p.pa (st.rdBytes p.pa p.size))).map (·.1)
    let at' := 256 * (q.base.extractLsb' 8 40).toNat + 256 * (q.tail % 2 ^ q.logd)
    let takes := q.usable = true ∧ q.full = false
    k.Clear [a, b] →
    (va % 256 ≠ 0 → exec (.launch a b c) st = .next (st.trapWith Cause.bounds va 0)) ∧
    (va % 256 = 0 → 15 < i → exec (.launch a b c) st = .next (st.trapWith Cause.bounds i 0)) ∧
    (va % 256 = 0 → i ≤ 15 → k.freeSlotNo.isSome = true → st.check2 (st.whoOf st.cur 0) .load k.mdefCache va 256 0 = .ok ps →
      k.inflight = [] → (∀ p ∈ ps, st.refuses st.cur k.serial p.pa = false) → st.Single →
      (k.level = 0 → bitsOf (bytesNat bs) 34 6 ≠ st.ctxOf st.cur → exec (.launch a b c) st = .next (st.trapWith Cause.priv 0 0)) ∧
      ((k.level ≠ 0 ∨ bitsOf (bytesNat bs) 34 6 = st.ctxOf st.cur) → (takes → st.refuses st.cur k.serial at' = false) →
        ∃ t, exec (.launch a b c) st = .next t ∧ t.cur = st.cur ∧ k.Flows t.me ∧
          (∀ r, t.me.x r = if r = c ∧ r ≠ 0 then (if q.usable = true ∧ q.full = false then 0 else 1) else k.x r) ∧
          (takes → t.lqueue i = { q with tail := (q.tail + 1) % 65536 } ∧
            ∀ x, t.rd x = if at' ≤ x ∧ x < at' + bs.length then bs.getD (x - at') 0 else st.rd x) ∧
          (¬takes → t.lqueue i = q ∧ ∀ x, t.rd x = st.rd x) ∧ (∀ j, j ≠ i → t.lqueue j = st.lqueue j) ∧ t.me.ls = k.ls)))

/-- Floating-point vector instructions compute lane by lane. With room on the micro-operation queue, and for the forms
that round under a sampled mode 0 to 5: VADD to VNEG, VCPS, VDIV, VSQRT, VRSQ, VRCP, VEXP2, VLOG2, VTANH and VSIG
write their row lane by lane in FP32; a lane with a poison source is poison and sets the side bit; the flags of all
lanes are set in RMODE; the tile's taint takes the sources'. No other row, register, queue or byte of memory
changes. A sampled mode of 6 or 7 traps FORMAT with the value. Where the micro-operation queue is full the
instruction waits. (R400, R401, R402, R403, R404.) The elementary functions are the model's own evaluation,
correctly rounded under the bound of notes/assumptions/13.md. The model's choice or reading, no rule's: FADDR or
FSTART 0 where no rule states a value, and STR of a stop (notes/assumptions/10.md); the micro-operation queue beside
the result (notes/assumptions/42.md). -/
def Obligations.VectorFloatResults : Prop :=
  ∀ (st : State) (d a b : R7),
    let k := st.me
    let f := Fmt.f32
    let A := k.rowOperand a
    let B := k.rowOperand b
    let D := k.rowOperand d
    let low := (k.arch.rmode.extractLsb' 0 3).toNat
    let un (i : Instr) (g : Nat → Rounded) : Prop := st.GivesFp k i d [A] (fun xs => g (xs.getD 0 0))
    let bin (i : Instr) (g : Nat → Nat → Rounded) : Prop := st.GivesFp k i d [A, B] (fun xs => g (xs.getD 0 0) (xs.getD 1 0))
    let tern (i : Instr) (g : FVal → FVal → FVal → Rounded) : Prop :=
      st.GivesFp k i d [A, B, D] (fun xs => g (f.val (xs.getD 0 0)) (f.val (xs.getD 1 0)) (f.val (xs.getD 2 0)))
    let rounding := [Instr.vadd d a b, .vsub d a b, .vmul d a b, .vfma d a b, .vfms d a b, .vfnma d a b, .vdiv d a b,
      .vsqrt d a, .vrsq d a, .vrcp d a]
    (k.uops.length < 16 →
      (∀ mode, roundMode low = some mode →
        bin (.vadd d a b) (fun x y => f.round mode (FVal.sum mode [f.val x, f.val y])) ∧
        bin (.vsub d a b) (fun x y => f.round mode (FVal.sum mode [f.val x, (f.val y).negate])) ∧
        bin (.vmul d a b) (fun x y => f.round mode ((f.val x).mul (f.val y))) ∧
        tern (.vfma d a b) (fun x y z => f.round mode (FVal.fma mode x y z)) ∧
        tern (.vfms d a b) (fun x y z => f.round mode (FVal.fma mode x y z.negate)) ∧
        tern (.vfnma d a b) (fun x y z => f.round mode (FVal.fma mode x.negate y z)) ∧
        bin (.vdiv d a b) (fun x y => f.div mode (f.val x) (f.val y)) ∧
        un (.vsqrt d a) (fun x => f.sqrt mode (f.val x)) ∧ un (.vrsq d a) (fun x => f.rsqrt mode (f.val x)) ∧
        un (.vrcp d a) (fun x => f.div mode (.fin false 1 0) (f.val x))) ∧
      bin (.vmin d a b) (fun x y => f.minMax false x y) ∧ bin (.vmax d a b) (fun x y => f.minMax true x y) ∧
      un (.vabs d a) (fun x => { bits := x % 2 ^ 31, flags := 0 }) ∧
      un (.vneg d a) (fun x => { bits := if x < 2 ^ 31 then x + 2 ^ 31 else x - 2 ^ 31, flags := 0 }) ∧
      bin (.vcps d a b) (fun x y => { bits := x % 2 ^ 31 + (if y < 2 ^ 31 then 0 else 2 ^ 31), flags := 0 }) ∧
      un (.vexp2 d a) (fun x => exp2R (f.val x)) ∧ un (.vlog2 d a) (fun x => log2R (f.val x)) ∧
      un (.vtanh d a) (fun x => tanhR (f.val x)) ∧ un (.vsig d a) (fun x => sigR (f.val x))) ∧
    (6 ≤ low → ∀ i ∈ rounding, exec i st = .next (st.trapWith Cause.format low 0)) ∧
    (16 ≤ k.uops.length → st.reserves.contains (uopReserve st.cur) = false →
      ∀ i ∈ [Instr.vmin d a b, .vmax d a b, .vabs d a, .vneg d a, .vcps d a b, .vexp2 d a, .vlog2 d a, .vtanh d a, .vsig d a],
        exec i st = .next st.wait)

/-- Integer and bitwise vector instructions compute lane by lane. With room on the micro-operation queue, VIADD to
VIABS, the bitwise and shift forms and VPOPC write their row lane by lane in 32 bits, and VCLMUL writes the 64-bit
carry-less product of each even lane pair's low lanes; a poisoned source sets the row's side bit, no flag is raised,
and the tile's taint takes the sources'. Nothing else changes but where execution goes on. (R400, R402, R405, R406.)
The model's choice or reading, no rule's: the micro-operation queue beside the result (notes/assumptions/42.md). -/
def Obligations.VectorIntegerResults : Prop :=
  ∀ (st : State) (d a b : R7),
    let k := st.me
    let un (i : Instr) (g : BitVec 32 → BitVec 32) : Prop := st.GivesInt k i d [k.rowOperand a] (fun xs => g (xs.getD 0 0))
    let bin (i : Instr) (g : BitVec 32 → BitVec 32 → BitVec 32) : Prop :=
      st.GivesInt k i d [k.rowOperand a, k.rowOperand b] (fun xs => g (xs.getD 0 0) (xs.getD 1 0))
    k.uops.length < 16 →
      bin (.viadd d a b) (fun x y => x + y) ∧ bin (.visub d a b) (fun x y => x - y) ∧ bin (.vimul d a b) (fun x y => x * y) ∧
      bin (.vimulh d a b 0) (fun x y => BitVec.ofInt 32 (x.toInt * y.toInt / 2 ^ 32)) ∧
      bin (.vimulh d a b 1) (fun x y => BitVec.ofNat 32 (x.toNat * y.toNat / 2 ^ 32)) ∧
      bin (.vimin d a b 0) (fun x y => if x.toInt ≤ y.toInt then x else y) ∧
      bin (.vimin d a b 1) (fun x y => if x.toNat ≤ y.toNat then x else y) ∧
      bin (.vimax d a b 0) (fun x y => if y.toInt ≤ x.toInt then x else y) ∧
      bin (.vimax d a b 1) (fun x y => if y.toNat ≤ x.toNat then x else y) ∧
      un (.viabs d a) (fun x => if x.toInt < 0 then -x else x) ∧
      bin (.vand d a b) (fun x y => x &&& y) ∧ bin (.vor d a b) (fun x y => x ||| y) ∧ bin (.vxor d a b) (fun x y => x ^^^ y) ∧
      bin (.vandn d a b) (fun x y => x &&& ~~~y) ∧ bin (.vshl d a b) (fun x y => x <<< (y.toNat % 32)) ∧
      bin (.vshr d a b) (fun x y => x >>> (y.toNat % 32)) ∧ bin (.vsra d a b) (fun x y => x.sshiftRight (y.toNat % 32)) ∧
      un (.vpopc d a) (fun x => BitVec.ofNat 32 ((List.range 32).countP (fun n => x.getLsbD n))) ∧
      ∃ (k' : Core) (v : Row), exec (.vclmul d a b) st = .next (st.setMe k') ∧
        k.WroteRow k' d v (k.rowSideOf a.toNat || k.rowSideOf b.toNat) 0
          [k.taintOf (tileTaint a.toNat), k.taintOf (tileTaint b.toNat)] ∧
        ∀ j < 32, v.extractLsb' (64 * j) 64 = (List.range 32).foldl (fun p n =>
          if (k.row b.toNat).getLsbD (64 * j + n) then p ^^^ (((k.row a.toNat).extractLsb' (64 * j) 32).setWidth 64 <<< n) else p) 0

/-- Queue-sourced vector forms take q from a load queue or a scalar. With room on the micro-operation queue, each
queue-sourced form computes as its row form does with q in b's place, or with q first where SW is 1: a q of 0 to 3
takes and pops the filled head of LQK, 4 to 7 takes it and leaves it, and 8 to 31 takes the register's low word in
every lane. The entry's poison and taint are those of a row's side bit and taint. No other queue, register, row or
byte of memory changes. A form whose queue is empty traps QUEUE with the queue's number and one whose head has not
been filled waits. (R397, R399, R400, R312, R186.) The model's choice or reading, no rule's: the micro-operation
queue beside the result (notes/assumptions/42.md). -/
def Obligations.QueueSourcedResults : Prop :=
  ∀ (st : State) (d a : R7) (q : R5) (w : BitVec 1) (o : Operand) (base : Core),
    let k := st.me
    let f := Fmt.f32
    let A := k.rowOperand a
    let D := k.rowOperand d
    let low := (k.arch.rmode.extractLsb' 0 3).toNat
    let two := if w = 1 then [o, A] else [A, o]
    let fp (i : Instr) (g : Nat → Nat → Rounded) : Prop := st.GivesFp base i d two (fun xs => g (xs.getD 0 0) (xs.getD 1 0))
    let tern (i : Instr) (g : FVal → FVal → FVal → Rounded) : Prop :=
      st.GivesFp base i d [A, o, D] (fun xs => g (f.val (xs.getD 0 0)) (f.val (xs.getD 1 0)) (f.val (xs.getD 2 0)))
    let int (i : Instr) (g : BitVec 32 → BitVec 32 → BitVec 32) : Prop :=
      st.GivesInt base i d two (fun xs => g (xs.getD 0 0) (xs.getD 1 0))
    let int1 (i : Instr) (g : BitVec 32 → BitVec 32) : Prop := st.GivesInt base i d [o] (fun xs => g (xs.getD 0 0))
    let all := [Instr.vaddQ d a q w, .vsubQ d a q w, .vmulQ d a q w, .vminQ d a q w, .vmaxQ d a q w, .vcpsQ d a q w,
      .vfmaQ d a q, .vfmsQ d a q, .vfnmaQ d a q, .vabsQ d q, .vnegQ d q, .viaddQ d a q w, .visubQ d a q w, .vimulQ d a q w,
      .vimulhQ d a q w 1, .viminQ d a q w 1, .vimaxQ d a q w 1, .viabsQ d q, .vandQ d a q w, .vorQ d a q w, .vxorQ d a q w,
      .vandnQ d a q w, .vshlQ d a q w, .vshrQ d a q w, .vsraQ d a q w, .vpopcQ d q, .vclmulQ d a q w, .vcvtQ d 0 0 q,
      .vqntQ d 0 1 q, .vdqntQ d 0 1 q, .vamaxQ d 0 q]
    (q.toNat < 8 → k.queue (q.toNat % 4) = [] → ∀ i ∈ all, exec i st = .next (st.trapWith Cause.queue (q.toNat % 4) 0)) ∧
    (q.toNat < 8 → (∀ e es, k.queue (q.toNat % 4) = e :: es → e.filled = false) → k.queue (q.toNat % 4) ≠ [] →
      ∀ i ∈ all, exec i st = .next st.wait) ∧
    (k.QOperand q o base → k.uops.length < 16 →
      (∀ mode, roundMode low = some mode →
        fp (.vaddQ d a q w) (fun x y => f.round mode (FVal.sum mode [f.val x, f.val y])) ∧
        fp (.vsubQ d a q w) (fun x y => f.round mode (FVal.sum mode [f.val x, (f.val y).negate])) ∧
        fp (.vmulQ d a q w) (fun x y => f.round mode ((f.val x).mul (f.val y))) ∧
        tern (.vfmaQ d a q) (fun x y z => f.round mode (FVal.fma mode x y z)) ∧
        tern (.vfmsQ d a q) (fun x y z => f.round mode (FVal.fma mode x y z.negate)) ∧
        tern (.vfnmaQ d a q) (fun x y z => f.round mode (FVal.fma mode x.negate y z))) ∧
      fp (.vminQ d a q w) (fun x y => f.minMax false x y) ∧ fp (.vmaxQ d a q w) (fun x y => f.minMax true x y) ∧
      fp (.vcpsQ d a q w) (fun x y => { bits := x % 2 ^ 31 + (if y < 2 ^ 31 then 0 else 2 ^ 31), flags := 0 }) ∧
      st.GivesFp base (.vabsQ d q) d [o] (fun xs => { bits := xs.getD 0 0 % 2 ^ 31, flags := 0 }) ∧
      st.GivesFp base (.vnegQ d q) d [o] (fun xs =>
        { bits := if xs.getD 0 0 < 2 ^ 31 then xs.getD 0 0 + 2 ^ 31 else xs.getD 0 0 - 2 ^ 31, flags := 0 }) ∧
      int (.viaddQ d a q w) (fun x y => x + y) ∧ int (.visubQ d a q w) (fun x y => x - y) ∧
      int (.vimulQ d a q w) (fun x y => x * y) ∧
      int (.vimulhQ d a q w 0) (fun x y => BitVec.ofInt 32 (x.toInt * y.toInt / 2 ^ 32)) ∧
      int (.vimulhQ d a q w 1) (fun x y => BitVec.ofNat 32 (x.toNat * y.toNat / 2 ^ 32)) ∧
      int (.viminQ d a q w 0) (fun x y => if x.toInt ≤ y.toInt then x else y) ∧
      int (.viminQ d a q w 1) (fun x y => if x.toNat ≤ y.toNat then x else y) ∧
      int (.vimaxQ d a q w 0) (fun x y => if y.toInt ≤ x.toInt then x else y) ∧
      int (.vimaxQ d a q w 1) (fun x y => if y.toNat ≤ x.toNat then x else y) ∧
      int1 (.viabsQ d q) (fun x => if x.toInt < 0 then -x else x) ∧
      int (.vandQ d a q w) (fun x y => x &&& y) ∧ int (.vorQ d a q w) (fun x y => x ||| y) ∧
      int (.vxorQ d a q w) (fun x y => x ^^^ y) ∧ int (.vandnQ d a q w) (fun x y => x &&& ~~~y) ∧
      int (.vshlQ d a q w) (fun x y => x <<< (y.toNat % 32)) ∧ int (.vshrQ d a q w) (fun x y => x >>> (y.toNat % 32)) ∧
      int (.vsraQ d a q w) (fun x y => x.sshiftRight (y.toNat % 32)) ∧
      int1 (.vpopcQ d q) (fun x => BitVec.ofNat 32 ((List.range 32).countP (fun n => x.getLsbD n))) ∧
      ∃ (k' : Core) (v : Row), exec (.vclmulQ d a q w) st = .next (st.setMe k') ∧
        base.WroteRow k' d v (two.any (fun x => x.2.1)) 0 (two.map (fun x => x.2.2)) ∧
        ∀ j < 32, v.extractLsb' (64 * j) 64 = (List.range 32).foldl (fun p n =>
          if (two.getD 1 o).1.getLsbD (64 * j + n) then p ^^^ (((two.getD 0 o).1.extractLsb' (64 * j) 32).setWidth 64 <<< n)
          else p) 0)

/-- VCMP, VSEL and VMSK write lane masks and choices. With room on the micro-operation queue: VCMP writes all ones or
zeros for each lane's condition, in FP32 with a poison lane compared as a NaN and NV as the condition says, or as
signed or unsigned integers; a poisoned source, or in FP32 a poison lane, sets the side bit. VSEL takes a's lane
where the mask in d is nonzero and b's elsewhere, with the side bit of a source that it takes a lane of; a poisoned
mask traps POISON with the mask's code. VMSK expands a scalar's bits to lanes or packs the nonzero lanes into a
scalar. Nothing else changes. (R407, R408, R409.) The model's choice or reading, no rule's: the micro-operation
queue beside the result (notes/assumptions/42.md). -/
def Obligations.VectorCompareSelectMask : Prop :=
  ∀ (st : State) (d a b : R7) (r s : R5),
    let k := st.me
    let f := Fmt.f32
    let A := k.rowOperand a
    let B := k.rowOperand b
    let D := k.rowOperand d
    let val (o : Operand) (j : Nat) : FVal := f.val (if o.bad j then f.poison else lane o.1 j)
    let fcmp (i : Instr) (c : FVal → FVal → Bool) (nv : FVal → FVal → Bool) : Prop :=
      ∃ (k' : Core) (v : Row), exec i st = .next (st.setMe k') ∧
        k.WroteRow k' d v ((List.range 64).any (fun j => A.bad j || B.bad j)) (if (List.range 64).any (fun j => nv (val A j) (val B j)) then Flag.nv else 0)
          [A.2.2, B.2.2] ∧
        ∀ j < 64, v.extractLsb' (32 * j) 32 = if c (val A j) (val B j) then BitVec.allOnes 32 else 0
    let icmp (i : Instr) (c : BitVec 32 → BitVec 32 → Bool) : Prop :=
      st.GivesInt k i d [A, B] (fun xs => if c (xs.getD 0 0) (xs.getD 1 0) then BitVec.allOnes 32 else 0)
    let lt (x y : FVal) : Bool := FVal.cmp x y == some .lt
    let eq (x y : FVal) : Bool := FVal.cmp x y == some .eq
    let sig (x y : FVal) : Bool := x.signals || y.signals
    let nan (x y : FVal) : Bool := x.isNan || y.isNan
    (D.2.1 = true → exec (.vsel d a b) st = .next (st.trapWith Cause.poison (128 + d.toNat) 0)) ∧
    (k.uops.length < 16 →
      fcmp (.vcmpF32Eq d a b) eq sig ∧ fcmp (.vcmpF32Lt d a b) lt nan ∧
      fcmp (.vcmpF32Le d a b) (fun x y => lt x y || eq x y) nan ∧ fcmp (.vcmpF32Un d a b) nan sig ∧
      icmp (.vcmpI32Eq d a b) (fun x y => x == y) ∧ icmp (.vcmpI32Lt d a b) (fun x y => x.slt y) ∧
      icmp (.vcmpI32Le d a b) (fun x y => x.sle y) ∧ icmp (.vcmpN32Lt d a b) (fun x y => x.ult y) ∧
      icmp (.vcmpN32Le d a b) (fun x y => x.ule y) ∧
      (D.2.1 = false → ∃ (k' : Core) (v : Row), exec (.vsel d a b) st = .next (st.setMe k') ∧
        k.WroteRow k' d v ((A.2.1 && (List.range 64).any (fun j => lane D.1 j != 0)) ||
          (B.2.1 && (List.range 64).any (fun j => lane D.1 j == 0))) 0 [D.2.2, A.2.2, B.2.2] ∧
        ∀ j < 64, lane v j = if lane D.1 j ≠ 0 then lane A.1 j else lane B.1 j) ∧
      (∃ (k' : Core) (v : Row), exec (.vmskExpand d r) st = .next (st.setMe k') ∧
        k.WroteRow k' d v (k.sideOf r) 0 [k.taintOf r.toNat] ∧
        ∀ j < 64, v.extractLsb' (32 * j) 32 = if (k.x r).getLsbD j then BitVec.allOnes 32 else 0) ∧
      ∃ (k' : Core) (v : Dword), exec (.vmskPack s a) st = .next (st.setMe k') ∧
        ({ k with uops := k'.uops } : Core).Wrote k' s v A.2.1 A.2.2 ∧ ∀ j < 64, v.getLsbD j = (lane A.1 j != 0))

/-- VCPY to VIOTA and VSQ move rows, lanes and scalars. With room on the micro-operation queue: VCPY copies a row with
its side bit, VZERO writes zeros with a clear side bit, VBCAST repeats the low 32, 16 or 8 bits of a scalar, VEXT
writes lane i to a scalar zero-extended, VINS replaces lane i of d alone and joins the side bits, VIOTA writes a + j
x s into lane j, and VSQ pushes the row, its side bit and its tile's taint on a store queue with room. Nothing else
changes but the micro-operation queue and where execution goes on. (R417, R418, R400.) The model's choice or
reading, no rule's: the micro-operation queue beside the result (notes/assumptions/42.md). -/
def Obligations.VectorMoves : Prop :=
  ∀ (st : State) (d a : R7) (r : R5) (w : BitVec 2) (i : BitVec 6) (z : BitVec 7) (c : BitVec 1),
    let k := st.me
    let A := k.rowOperand a
    let D := k.rowOperand d
    let rt := k.taintOf r.toNat
    let gives (i : Instr) (p : Bool) (ts : List Taint) (good : Row → Prop) : Prop :=
      ∃ (k' : Core) (v : Row), exec i st = .next (st.setMe k') ∧ k.WroteRow k' d v p 0 ts ∧ good v
    k.uops.length < 16 →
      gives (.vcpy d a) A.2.1 [A.2.2] (fun v => v = A.1) ∧ gives (.vzero d) false [] (fun v => v = 0) ∧
      (w.toNat < 3 → gives (.vbcast d r w) (k.sideOf r) [rt] (fun v => ∀ j < 64 * 2 ^ w.toNat,
        v.extractLsb' (32 / 2 ^ w.toNat * j) (32 / 2 ^ w.toNat) = (k.x r).setWidth (32 / 2 ^ w.toNat))) ∧
      gives (.vins d r i) (k.sideOf r || D.2.1) [rt, D.2.2] (fun v => ∀ j < 64, v.extractLsb' (32 * j) 32 =
        if j = i.toNat then (k.x r).setWidth 32 else D.1.extractLsb' (32 * j) 32) ∧
      gives (.viota d r z) (k.sideOf r) [rt] (fun v => ∀ j < 64, v.extractLsb' (32 * j) 32 =
        (k.x r).setWidth 32 + BitVec.ofNat 32 j * z.signExtend 32) ∧
      (∃ (k' : Core), exec (.vext r a i) st = .next (st.setMe k') ∧ ({ k with uops := k'.uops } : Core).Wrote k' r
        ((A.1.extractLsb' (32 * i.toNat) 32).setWidth 64) A.2.1 A.2.2) ∧
      ((k.queue (4 + c.toNat)).length < 8 → ∃ (k' : Core) (e : QEntry), exec (.vsq c a) st = .next (st.setMe k') ∧
        e.data = A.1 ∧ e.pois = A.2.1 ∧ e.taint = A.2.2 ∧ e.filled = true ∧
        (∀ p, k'.queue p = k.queue p ++ if p = 4 + c.toNat then [e] else []) ∧ k.Flows k' ∧
        k'.arch = { k.arch with pc := k'.arch.pc, seq0 := k'.arch.seq0, queues := k'.arch.queues } ∧ k'.taint = k.taint ∧
        k'.ls = k.ls)

/-- Shuffles, rotations, reductions, scans and transposes. With room on the micro-operation queue, and a sampled mode 0
to 5 where FP32 sums round: VSHUF takes the lane that b names modulo 64, VROT lane j + k modulo 64; the FP32
reductions join neighbours over six levels into every lane, poison when a lane is; the integer ones give the sum,
the largest or the smallest lane; VSCAN gives running sums, whose first is lane 0 rounded; VXPOSE transposes each 16
by 16 block of a tile. Flags are those of every sum. A poisoned index row traps POISON with its code. Nothing else
changes. (R308, R414, R415, R416.) The model's choice or reading, no rule's: the micro-operation queue beside the
result (notes/assumptions/42.md). -/
def Obligations.VectorCrossLaneResults : Prop :=
  ∀ (st : State) (d a b : R7) (n : BitVec 6) (y : BitVec 2) (dt at' : BitVec 3),
    let k := st.me
    let f := Fmt.f32
    let A := k.rowOperand a
    let B := k.rowOperand b
    let L (j : Nat) : BitVec 32 := A.1.extractLsb' (32 * j) 32
    let low := (k.arch.rmode.extractLsb' 0 3).toNat
    let anyBad := (List.range 64).any A.bad
    let gives (i : Instr) (p : Bool) (fl : Dword) (ts : List Taint) (good : Row → Prop) : Prop :=
      ∃ (k' : Core) (v : Row), exec i st = .next (st.setMe k') ∧ k.WroteRow k' d v p fl ts ∧ good v
    let each (v : Row) (g : Nat → BitVec 32) : Prop := ∀ j < 64, v.extractLsb' (32 * j) 32 = g j
    let reduces (i : Instr) (g : Nat → Nat → Rounded) : Prop :=
      (anyBad = true → gives i true 0 [A.2.2] (fun v => each v (fun _ => BitVec.ofNat 32 f.poison))) ∧
      (anyBad = false → ∀ T : Nat → Nat → Nat, (∀ j < 64, T 0 j = (L j).toNat) →
        (∀ h < 6, ∀ j < 2 ^ (5 - h), T (h + 1) j = (g (T h (2 * j)) (T h (2 * j + 1))).bits) →
        gives i false ((List.range 6).foldl (fun fl h => (List.range (2 ^ (5 - h))).foldl (fun fl j =>
          fl ||| (g (T h (2 * j)) (T h (2 * j + 1))).flags) fl) 0) [A.2.2] (fun v => each v (fun _ => BitVec.ofNat 32 (T 6 0))))
    let best (i : Instr) (le : BitVec 32 → BitVec 32 → Bool) : Prop := gives i A.2.1 0 [A.2.2] (fun v =>
      ∃ m < 64, (∀ j < 64, le (L j) (L m) = true) ∧ each v (fun _ => L m))
    let sum (mode : RMode) (x y : Nat) : Rounded := f.round mode (FVal.sum mode [f.val x, f.val y])
    (B.2.1 = true → exec (.vshuf d a b) st = .next (st.trapWith Cause.poison (128 + b.toNat) 0)) ∧
    (k.uops.length < 16 →
      (B.2.1 = false → gives (.vshuf d a b) A.2.1 0 [A.2.2, B.2.2] (fun v => each v (fun j => L (lane B.1 j % 64)))) ∧
      gives (.vrot d a n) A.2.1 0 [A.2.2] (fun v => each v (fun j => L ((j + n.toNat) % 64))) ∧
      reduces (.vredmax d a 0) (f.minMax true) ∧ reduces (.vredmin d a 0) (f.minMax false) ∧
      (∀ mode, roundMode low = some mode → reduces (.vredsum d a 0) (sum mode) ∧
        (anyBad = true → gives (.vscan d a 0) true 0 [A.2.2] (fun v => each v (fun _ => BitVec.ofNat 32 f.poison))) ∧
        (anyBad = false → ∀ S : Nat → Nat, S 0 = (f.round mode (f.val (L 0).toNat)).bits → (∀ j < 63, S (j + 1) = (sum mode (S j) (L (j + 1)).toNat).bits) →
          gives (.vscan d a 0) false ((List.range 63).foldl (fun fl j => fl ||| (sum mode (S j) (L (j + 1)).toNat).flags) (f.round mode (f.val (L 0).toNat)).flags)
            [A.2.2] (fun v => each v (fun j => BitVec.ofNat 32 (S j))))) ∧
      best (.vredmax d a 1) (fun x m => x.sle m) ∧ best (.vredmax d a 2) (fun x m => x.ule m) ∧
      best (.vredmin d a 1) (fun x m => m.sle x) ∧ best (.vredmin d a 2) (fun x m => m.ule x) ∧
      (y ≠ 0 → gives (.vredsum d a y) A.2.1 0 [A.2.2] (fun v => each v (fun _ => (List.range 64).foldl (fun t j => t + L j) 0)) ∧
        gives (.vscan d a y) A.2.1 0 [A.2.2] (fun v => each v (fun j => (List.range (j + 1)).foldl (fun t i => t + L i) 0))) ∧
      ∃ k', exec (.vxpose dt at') st = .next (st.setMe k') ∧ k.Flows k' ∧
        (∀ r < 16, ∀ j < 64, lane (k'.row (16 * dt.toNat + r)) j = lane (k.row (16 * at'.toNat + j % 16)) (16 * (j / 16) + r)) ∧
        (∀ r < 16, k'.rowSideOf (16 * dt.toNat + r) = (List.range 16).any (fun q => k.rowSideOf (16 * at'.toNat + q))) ∧
        (∀ r, r / 16 ≠ dt.toNat → k'.row r = k.row r ∧ k'.rowSideOf r = k.rowSideOf r) ∧
        k'.arch = { k.arch with pc := k'.arch.pc, seq0 := k'.arch.seq0, rows := k'.arch.rows, rowSide := k'.arch.rowSide } ∧
        (∀ q, k'.taintOf q = if q = 32 + dt.toNat then (k.taintOf q).union k.loads (k.taintOf (32 + at'.toNat))
          else k.taintOf q) ∧ k'.ls = k.ls)

/-- VCVT, VQNT, VDQNT and VAMAX, from a row or queue-sourced. With room on the micro-operation queue, from a row or as
queue-sourced forms: VCVT converts FP32 lanes into half H of d as BF16 or FP16 and back, to and from 32-bit
integers, rounding under the sampled mode where it is inexact, with poison as poison or as integer 0 under the side
bit. VQNT packs a row through a valid format from byte 16 x OFS of d and leaves its other bytes; VDQNT unpacks one;
an invalid format or a packed row that does not fit traps FORMAT. VAMAX writes each block's largest magnitude into
its lanes. Flags are set in RMODE; nothing else changes. (R410, R411, R412, R413, R397, R302, R307.) The model's
choice or reading, no rule's: FADDR or FSTART 0 where no rule states a value, and STR of a stop
(notes/assumptions/10.md); the micro-operation queue beside the result (notes/assumptions/42.md). -/
def Obligations.VectorConversions : Prop :=
  ∀ (st : State) (d a : R7) (q : R5) (h : BitVec 1) (ofs : BitVec 4) (n : BitVec 3) (z : BitVec 2) (o : Operand) (base : Core),
    let k := st.me
    let f := Fmt.f32
    let D := k.rowOperand d
    let low := (k.arch.rmode.extractLsb' 0 3).toNat
    let at' := 16 * ofs.toNat
    let byte (r : Row) (j : Nat) : Byte := r.extractLsb' (8 * j) 8
    let halfOf (r : Row) (j : Nat) : Nat := (r.extractLsb' (16 * j) 16).toNat
    let converts (cvt : BitVec 3 → Instr) (qnt dqnt amax : Instr) (base : Core) (o : Operand) : Prop :=
      let gives (i : Instr) (p : Bool) (fl : Dword) (ts : List Taint) (good : Row → Prop) : Prop :=
        ∃ (k' : Core) (v : Row), exec i st = .next (st.setMe k') ∧ base.WroteRow k' d v p fl ts ∧ good v
      let flags (g : Nat → Dword) : Dword := (List.range 64).foldl (fun fl j => if o.bad j then fl else fl ||| g j) 0
      let anyBad := (List.range 64).any o.bad
      let x (j : Nat) : FVal := f.val (lane o.1 j)
      let size := 8 * 2 ^ z.toNat
      let block (j i : Nat) : Bool := decide (i / size = j / size)
      (∀ c : BitVec 3, c = 2 ∨ c = 3 →
        let t := if c = 2 then Fmt.bf16 else Fmt.f16
        let e (j : Nat) := halfOf o.1 (64 * h.toNat + j)
        let p (j : Nat) : Bool := o.2.1 || e j == t.poison
        gives (cvt c) ((List.range 64).any p)
          ((List.range 64).foldl (fun fl j => if p j then fl else fl ||| (f.round .rne (t.val (e j))).flags) 0) [o.2.2]
          (fun v => ∀ j < 64, lane v j = if p j then f.poison else (f.round .rne (t.val (e j))).bits)) ∧
      (∀ mode, roundMode low = some mode →
        (∀ c : BitVec 3, c = 0 ∨ c = 1 →
          let t := if c = 0 then Fmt.bf16 else Fmt.f16
          gives (cvt c) (D.2.1 || anyBad) (flags (fun j => (t.round mode (x j)).flags)) [o.2.2, D.2.2]
            (fun v => ∀ j < 128, halfOf v j = if j / 64 = h.toNat then
              (if o.bad (j % 64) then t.poison else (t.round mode (x (j % 64))).bits) else halfOf D.1 j)) ∧
        (∀ c : BitVec 3, c = 4 ∨ c = 5 →
          let r (j : Nat) := (x j).toRange mode (if c = 4 then -2 ^ 31 else 0) (if c = 4 then 2 ^ 31 - 1 else 2 ^ 32 - 1)
          gives (cvt c) anyBad (flags (fun j => (r j).2)) [o.2.2]
            (fun v => ∀ j < 64, v.extractLsb' (32 * j) 32 = if o.bad j then 0 else BitVec.ofInt 32 (r j).1)) ∧
        (∀ c : BitVec 3, c = 6 ∨ c = 7 →
          let e (j : Nat) : BitVec 32 := o.1.extractLsb' (32 * j) 32
          let y (j : Nat) := f.round mode (FVal.ofInt (if c = 6 then (e j).toInt else (e j).toNat))
          gives (cvt c) o.2.1 ((List.range 64).foldl (fun fl j => if o.2.1 then fl else fl ||| (y j).flags) 0) [o.2.2]
            (fun v => ∀ j < 64, lane v j = if o.2.1 then f.poison else (y j).bits))) ∧
      (k.fmtReg n.toNat = none → exec qnt st = .next (st.trapWith Cause.format n.toNat 0) ∧
        exec dqnt st = .next (st.trapWith Cause.format n.toNat 0)) ∧
      (∀ F, k.fmtReg n.toNat = some F →
        (256 < at' + F.rowBytes → exec qnt st = .next (st.trapWith Cause.format n.toNat (at' + F.rowBytes)) ∧
          exec dqnt st = .next (st.trapWith Cause.format n.toNat (at' + F.rowBytes))) ∧
        (at' + F.rowBytes ≤ 256 →
          (∀ mode, roundMode low = some mode →
            let w := packRow F mode o.2.1 (F.elsOf o.1)
            gives qnt (D.2.1 || o.2.1 || w.1.any (·.2)) w.2 [o.2.2, D.2.2] (fun v => ∀ j < 256,
              byte v j = if at' ≤ j ∧ j < at' + F.rowBytes then (w.1.map (·.1)).getD (j - at') 0 else byte D.1 j)) ∧
          gives dqnt o.2.1 0 [o.2.2] (fun v =>
            v = F.rowOf (unpackRow F ((List.range F.rowBytes).map (fun j => (byte o.1 (at' + j), o.2.1))))))) ∧
      gives amax anyBad (if (List.range 64).any (fun j =>
          (List.range 64).all (fun i => !(block j i && o.bad i)) && (x j).signals) then Flag.nv else 0) [o.2.2]
        (fun v => ∀ j < 64,
          ((∃ i < 64, block j i = true ∧ o.bad i = true) → lane v j = f.poison) ∧
          ((∀ i < 64, block j i = true → o.bad i = false) →
            ((∃ i < 64, block j i = true ∧ (x i).isNan = true) → lane v j = f.nan) ∧
            ((∀ i < 64, block j i = true → (x i).isNan = false) →
              (∃ i < 64, block j i = true ∧ lane v j = lane o.1 i % 2 ^ 31) ∧
              ∀ i < 64, block j i = true → lane o.1 i % 2 ^ 31 ≤ lane v j)))
    k.uops.length < 16 →
      converts (.vcvt d a h) (.vqnt d a ofs n) (.vdqnt d a ofs n) (.vamax d a z) k (k.rowOperand a) ∧
      (k.QOperand q o base →
        converts (fun c => .vcvtQ d h c q) (.vqntQ d ofs n q) (.vdqntQ d ofs n q) (.vamaxQ d z q) base o)

/-- Matrix state instructions arm, load and store the array's registers. In a launch with G = 1, with room on the
micro-operation queue where one is pushed: GANG sets the armed flag, MSHP writes an accepted shape record, MZERO,
MLDA and MSTA clear, load and store the core's 16 rows of an accumulator with poison carried as the poison pattern
and the side bit, MDLD writes a metadata set, MFST writes the FIFO's bytes and outstanding fills to d, or what it
has read early while an operation popped, and, with L = 1, discards its bytes. Nothing else changes. Values not
accepted trap SHAPE, a poisoned metadata row POISON. In a launch with G = 0 every matrix instruction is ILLEGAL.
(R190, R422, R427, R428, R431, R432.) The model's choice or reading, no rule's: FADDR or FSTART 0 where no rule
states a value, and STR of a stop (notes/assumptions/10.md); the micro-operation queue beside the result
(notes/assumptions/42.md). -/
def Obligations.MatrixRegisters : Prop :=
  ∀ (st : State) (id u : Nat) (l : Launch) (c e f : BitVec 2) (n m : BitVec 3) (a b d : R5) (r : R7) (z y : BitVec 1)
    (p : BitVec 1), st.launchOf st.cur = some (id, u, l) →
    let k := st.me
    let q := st.square (squareOf st.cur)
    let v := (k.x a).toNat + 2 ^ 64 * (k.x b).toNat
    let word (j : Nat) : Dword := (k.row r.toNat).extractLsb' (64 * j) 64
    let valid : Bool := (List.range 16).all (fun j => (List.range 16).all (fun g =>
      decide ((word j).extractLsb' (4 * g) 2 < (word j).extractLsb' (4 * g + 2) 2)))
    let changes (i : Instr) (good : Core → Prop) (arch : Arch → Arch → Arch) : Prop :=
      ∃ k', exec i st = .next (st.setMe k') ∧ k.Flows k' ∧ good k' ∧ k'.taint = k.taint ∧ k'.ls = k.ls ∧
        k'.arch = arch { k.arch with pc := k'.arch.pc, seq0 := k'.arch.seq0 } k'.arch
    (l.gang = false → ∀ i ∈ [Instr.mma c n e f z m, .mma64 p n e f z m, .mmac p n e f z m, .mmas c n e f c z m, .gang,
      .mshp n a b, .mzero c, .mlda c n, .msta c n, .mepi c n a m, .mdld e r, .mfst e y d], exec i st = .next st.illegal) ∧
    (l.gang = true →
      (∃ k', exec .gang st = .next (st.setMe k') ∧ ({ k with armed := true } : Core).Passed k') ∧
      (k.sideOf a = false → k.sideOf b = false →
        (shapeOk v = true → changes (.mshp n a b) (fun k' => ∀ j, k'.shape j = if j = n.toNat then BitVec.ofNat 128 v else k.shape j)
          (fun x y => { x with shapes := y.shapes })) ∧
        (shapeOk v = false → exec (.mshp n a b) st = .next (st.trapWith Cause.shape 7 0))) ∧
      (k.uops.length < 16 →
        changes (.mzero c) (fun k' => ∀ i < 4, ∀ j < 16, k'.acc i j = if i = c.toNat then 0 else k.acc i j)
          (fun x y => { x with accs := y.accs }) ∧
        changes (.mlda c n) (fun k' => ∀ i < 4, ∀ j < 16, k'.acc i j = if i = c.toNat then
            (if k.rowSideOf (16 * n.toNat + j) then rowSplat Fmt.f32.poison else k.row (16 * n.toNat + j)) else k.acc i j)
          (fun x y => { x with accs := y.accs }) ∧
        changes (.msta c n) (fun k' => ∀ i, k'.row i = (if i / 16 = n.toNat then k.acc c.toNat (i % 16) else k.row i) ∧
            k'.rowSideOf i = if i / 16 = n.toNat then (List.range 64).any (fun j => lane (k.acc c.toNat (i % 16)) j == Fmt.f32.poison)
              else k.rowSideOf i)
          (fun x y => { x with rows := y.rows, rowSide := y.rowSide })) ∧
      (k.rowSideOf r.toNat = true → exec (.mdld e r) st = .next (st.trapWith Cause.poison (128 + r.toNat) 0)) ∧
      (k.rowSideOf r.toNat = false → valid = false → exec (.mdld e r) st = .next (st.trapWith Cause.shape 6 0)) ∧
      (k.rowSideOf r.toNat = false → valid = true → changes (.mdld e r) (fun k' => ∀ j, Map.find? k'.arch.metas j =
          if j = e.toNat then some ((List.range 16).map word) else Map.find? k.arch.metas j)
        (fun x y => { x with metas := y.metas })) ∧
      (∀ x, y = 0 → k.sampled? = some x → ∃ k', exec (.mfst e y d) st = .next (st.setMe k') ∧
        ({ k with early := k.early.erase x } : Core).Wrote k' d (BitVec.ofNat 64 (bytesNat x.acc.bytes)) false Taint.clean) ∧
      (let fifo := q.fifo e.toNat
       (y = 0 → k.sampled? = none) → ∃ t, exec (.mfst e y d) st = .next t ∧ t.cur = st.cur ∧
        k.Wrote t.me d (BitVec.ofNat 64 (fifo.bytes.length + 2 ^ 17 * min 63 (st.fillsOf (squareOf st.cur) e.toNat))) false
          Taint.clean ∧
        (t.square (squareOf st.cur)).fifo e.toNat = (if y = 1 then fifo.pop q.revocable fifo.bytes.length else fifo) ∧
        (∀ i, i ≠ e.toNat → (t.square (squareOf st.cur)).fifo i = q.fifo i) ∧ t.mem = st.mem))

/-- Gang operations and the epilogue. In a launch with G = 1, with room on the micro-operation queue, which the issue
step enters, and no MEPI of its accumulators outstanding: a gang operation that is its square's fourth, whose checks
pass, whose FIFOs hold its operands and whose column gives its tempo, pops its operands and writes its accumulators
element by element, and all four cores go on past it; GANG_START does the same for four that wait. One that is not
the fourth waits, issued, with the armed flag cleared. FIFO_TIMEOUT traps FIFO in all four cores when a FIFO lacks
bytes and no fill of it is outstanding. When the trailing checks pass, at once or after up to two replays before an
epilogue, the operation's flags enter each core's RMODE and it is done; equal residues below 7 are no mismatch. In a
launch with G = 1, with an address that holds no poison and awaits no load, a row stride, a valid format that the
row suits, a mode 0 to 5, and a raw range whose checks raise no fault, MEPI issues its command with the core's rows
of the accumulator staged: each element with the bias of its column and the activation, converted to the output
format, at its stride from the address. No accumulator, row, register or byte changes at issue. A stride of 0, or
columns that are no multiple of the format's block, trap SHAPE, an invalid format FORMAT, a window BOUNDS. (R423,
R425, R426, R428, R430, R431, R434, R230, R221, R435, R436, R145.) The model's choice or reading, no rule's: FADDR
or FSTART 0 where no rule states a value, and STR of a stop (notes/assumptions/10.md); what goes on beside trailing
checks, and that MEPI writes when it performs (notes/assumptions/17.md); the micro-operation queue beside the result
(notes/assumptions/42.md); the zero of a pruned position (notes/assumptions/64.md). -/
def Obligations.MatrixOperations : Prop :=
  (
  (∀ (st : State) (id u : Nat) (l : Launch) (c e f x : BitVec 2) (p z : BitVec 1) (n m : BitVec 3),
    st.launchOf st.cur = some (id, u, l) → l.gang = true → st.me.gangWait = none →
    let k := st.me
    let sq := squareOf st.cur
    let issue (form acc sel : Nat) : GangIssue :=
      { form := form, acc := acc, shape := n.toNat, fifoA := e.toNat, fifoB := f.toNat, zero := z == 1, mb := m.toNat,
        sel := sel, armed := k.armed }
    let runs (i : Instr) (w : GangIssue) : Prop :=
      (16 ≤ k.uops.length → st.reserves.contains (uopReserve st.cur) = false → exec i st = .next st.wait) ∧ (
      k.cmds.any (fun y => match y.word with | .mepi q .. => w.accs.contains q | _ => false) = false →
      k.uops.length < 16 →
      let st1 := st.setMe { k with armed := false, gangWait := some w, uops := k.uops ++ [{ groups := 4, cost := 4 }] }
      (∀ g a b nfa nfb, st1.GangReady sq g a b nfa nfb → ∃ t, exec i st = .next t ∧ st1.GangRan t sq g a b nfa nfb) ∧
      ((st1.gangIssued sq).length < 4 →
        (∀ t < l.count, squareOf (l.pcore t) = sq → (l.task t).ended = false) →
        (∀ w ∈ st1.gangIssued sq, ∃ i' u', st1.launchOf w.1 = some (i', u', l)) → exec i st = .next st1.wait))
    runs (.mma c n e f z m) (issue formMma c.toNat 0) ∧ runs (.mma64 p n e f z m) (issue formMma64 (2 * p.toNat) 0) ∧
    runs (.mmac p n e f z m) (issue formMmac (2 * p.toNat) 0) ∧ runs (.mmas c n e f x z m) (issue formMmas c.toNat x.toNat)) ∧
  (∀ (st : State) (sq : Nat) (g : GangIssue) (a b : ShapeRec) (nfa nfb : Option Narrow), st.GangReady sq g a b nfa nfb →
    ∃ t, exec (.gangStart sq) st = .next t ∧ st.GangRan t sq g a b nfa nfb) ∧
  (∀ (st : State) (sq : Nat) (g : GangIssue) (a b : ShapeRec) (nfa nfb : Option Narrow) (i need : Nat) (fs : Map Fifo),
    ({ st with squares := Map.put st.squares sq { st.square sq with fifos := fs } } : State).GangReady sq g a b nfa nfb →
    (gangNeeds g (streamBytes g.form true a nfa) (streamBytes g.form false b nfb)).find? (fun e =>
      decide (((st.square sq).fifo e.1).bytes.length < e.2) && st.fillsOf sq e.1 == 0) = some (i, need) →
    (∀ c < 4, (st.core (4 * sq + c)).loadsOut = false ∧ st.tvec (4 * sq + c) ≠ 0) →
    ∃ t, exec (.fifoTimeout sq) st = .next t ∧ ∀ c < 4, let k := st.core (4 * sq + c); let k' := t.core (4 * sq + c)
      k'.gangWait = none ∧ k'.level = 1 ∧ k'.arch.pc = st.tvec (4 * sq + c) ∧ k'.epc = k.arch.pc ∧
      (k'.ecause.extractLsb' 0 8).toNat = Cause.fifo ∧ k'.faddr = BitVec.ofNat 64 i ∧
      k'.fstart = BitVec.ofNat 64 (need - ((st.square sq).fifo i).bytes.length)) ∧
  (∀ (st : State) (sq failed : Nat) (row : BitVec 6) (ex ob : BitVec 3) (g : GangOp), (st.square sq).gang = some g →
    let clean := failed = 0 ∨ (ex = ob ∧ ex ≠ 7)
    (clean ∨ (failed ≤ 2 ∧ g.epilogue = false)) →
    ∃ t, exec (.gangResidueCheck sq failed row ex ob) st = .next t ∧ (t.square sq).gang = none ∧
      (∀ c < 4, t.core (4 * sq + c) = (st.core (4 * sq + c)).orFlags (g.flags.getD c 0)) ∧
      (∀ c, squareOf c ≠ sq → t.core c = st.core c) ∧ t.mem = st.mem ∧ (clean → t.errs = st.errs) ∧
      (¬clean → (t.err 6).cor = min ((st.err 6).cor + 1) (2 ^ 32 - 1))))
  ∧ (
  ∀ (st : State) (id u : Nat) (l : Launch) (c : BitVec 2) (s t : BitVec 3) (a : R5), st.launchOf st.cur = some (id, u, l) →
    l.gang = true → st.me.Clear [a] →
    let k := st.me
    let x := (k.shape s.toNat).toNat
    let e := EpiRec.of x
    let cols := (ShapeRec.of x).cols
    let nf := Narrow.ofReg (Map.get 0 k.arch.fmts e.fk)
    let va := (k.x a).toNat
    let n := min 16 ((ShapeRec.of x).rows - 16 * (st.cur % 4))
    let span := (n - 1) * 16 * e.ostr + epiRowBytes e nf cols
    let fits := nf.valid = true ∧ nf.split = false
    let narrow := e.out = 3 → (fits ∧ (nf.blk ≠ 0 → cols % nf.blk = 0))
    let bias (j : Nat) : Nat := if k.rowSideOf e.bt then Fmt.f32.poison else lane (k.row e.bt) j
    ((e.ostr = 0 ∨ (e.out = 3 ∧ nf.blk ≠ 0 ∧ cols % nf.blk ≠ 0)) → exec (.mepi c s a t) st = .next (st.trapWith Cause.shape 7 0)) ∧
    (e.ostr ≠ 0 → e.out = 3 → (nf.blk ≠ 0 → cols % nf.blk = 0) → ¬fits → exec (.mepi c s a t) st = .next (st.trapWith Cause.format e.fk 0)) ∧
    (∀ mode, e.ostr ≠ 0 → narrow →
      roundMode (if e.orm = 7 then (k.arch.rmode.extractLsb' 0 3).toNat else e.orm) = some mode →
      (va / 2 ^ 21 % 8 ≠ 0 → exec (.mepi c s a t) st = .next (st.trapWith Cause.bounds va va)) ∧
      (va / 2 ^ 21 % 8 = 0 → (n ≠ 0 → ∀ f, k.checkLocal va span ≠ .fault f) → k.scoreboard + 1 ≤ Config.scoreboardEntries →
        ∃ s', exec (.mepi c s a t) st = .next s' ∧ st.Issued s' (.mepi c.toNat va) t ∧ s'.me.taint = k.taint ∧
          s'.me.pend = k.pend ∧ s'.me.loads = k.loads ∧
          ∃ y ∈ s'.me.cmds.getLast?, ∃ L, y.staged = some L ∧ L.length = n ∧ ∀ i < n, L[i]? = some (va + i * 16 * e.ostr,
            (epiConvert e nf mode ((List.range cols).map (fun j =>
              (epiElem e (lane (k.acc c.toNat i) j) (bias j)).1))).1))))

/-- Stream-accumulator instructions are applied at their slice and retire on its verdict. Outside compute phases, with
operands that hold no poison and await no load, no older access or buffered SAADD that holds them back, and a slice
whose checks pass and that can serve the request at once, as with a resident vector (SAEVICT of one that is not,
SACLR of one that is not evicted, or outside revocable supersteps of any): SAADD, SANRM, SACLR, SAFENCE, SAEVICT,
SALOAD, SAGAIN and SASQ have the effects of their rules on the vector and on the core, and retire; where the verdict
is late the core waits, and SA_SLICE_APPLY then applies the request. A request that fails a check traps SA. In a
compute phase SAADD is placed in the exchange buffer, and SACLR and SAFENCE trap PHASE. SA_EVICTION_RETRY writes
back the vector that its slice owes an eviction. (R163, R167, R168, R170, R171, R173, R174, R175, R176, R177, R438,
R475.) The model's choice or reading, no rule's: FADDR or FSTART 0 where no rule states a value, and STR of a stop
(notes/assumptions/10.md); a stream-accumulator operation as one step of its slice (notes/assumptions/30.md). -/
def Obligations.StreamAccumulatorOperations : Prop :=
  (∀ (st : State) (d h o : R5) (r : R7) (p f' w : BitVec 2) (q f e : BitVec 1), let k := st.me
    let sc := 4 * q.toNat + p.toNat
    let ord (n : Nat) : ModFields := { ord := n, space := 0, scope := sc, cache := 0, nt := false }
    let req (op : Nat) : SaReq := { op := op, handle := k.x h, ofs := 0, slot := 0, fmt := 0, scope := sc, dest := 0, row := 0,
                                    pois := false, addr := 0, eps := 0, gain := some [] }
    let k1 : Core := { k with loadSeq := k.loadSeq + 1 }
    let runs (i : Instr) (rs : List R5) (kind : AccKind) (n : Nat) (x : SaReq) (k0 : Core) : Prop :=
      k.Clear rs → k.saWait = none → st.Single → st.Unlogged → st.inCompute st.cur = false →
      st.orderly kind (ord n) = true → st.saBuffered st.cur x.hnd = false → (n = 3 → k.inflight = []) →
      let v := st.vec (saSlice x.hnd) (saIndex x.hnd)
      (st.delays = [] → st.saCheck (st.ctxOf st.cur) x = none → (if x.op = saOpClr then v.st < 2 ∨ (st.square (squareOf st.cur)).revocable = false else if x.op = saOpEvict then v.st ≠ 1 else v.st = 1) →
        (x.op = saOpNrm → v.gaddr = 0) →
        ∃ t, exec i st = .next t ∧ t.cur = st.cur ∧ k.Flows t.me ∧ t.me.saWait = none) ∧
      ∀ g, st.saGainAt st.cur x = .ok g →
        let x : SaReq := { x with gain := g }
        let s0 := st.setMe { k0 with saWait := some x }
        (st.delays = [] → ∀ s1, s0.SaReady st.cur x s1 →
          ∃ t, exec i st = .next t ∧ t.cur = st.cur ∧ s0.SaApplied s1 t st.cur x) ∧
        (st.delays = [] → k.loadsOut = false → ∀ y, s0.saCheck (s0.ctxOf st.cur) x = some y →
          exec i st = .next ((s0.setMe k0).trapOn st.cur (x.fault y))) ∧
        (∀ ds, st.delays = true :: ds → exec i st = .next ({ s0 with delays := ds } : State).wait)
    let adds := { req 0 with ofs := k.x o, fmt := f.toNat, row := k.row r.toNat, pois := k.rowSideOf r.toNat }
    ((k.taintOf (tileTaint r.toNat)).isEmpty = true → runs (.saadd r p h q f o) [h, o] .store 1 adds k) ∧
    (k.freeSlotNo.isSome = true →
      ((k.queue w.toNat).length < 8 → runs (.sanrm f e w p h q o) [h, o] .load 1 { req 1 with
        ofs := k.x o, slot := e.toNat, fmt := f.toNat, dest := w.toNat,
        eps := ((st.context (st.ctxOf st.cur)).cr 0x0B).toNat % 2 ^ 32 } k1) ∧
      runs (.sasq d p h q) [h] .load 1 { req 7 with dest := d.toNat } k1) ∧
    runs (.saclr p h q) [h] .store 3 (req 2) k ∧
    runs (.safence e f p h q) [h] (.atomic .swp) 2 { req 3 with slot := f.toNat, fmt := e.toNat } k ∧
    runs (.saevict f' p h q) [h] (.atomic .swp) 1 { req 4 with fmt := f'.toNat } k ∧
    runs (.saload p h q) [h] (.atomic .swp) 1 (req 5) k ∧ runs (.sagain p h q o) [h, o] .store 1 { req 6 with addr := k.x o } k ∧
    (st.inCompute st.cur = true → k.saWait = none → k.Clear [h] →
      exec (.saclr p h q) st = .next (st.trapWith Cause.phase 0 0) ∧
      exec (.safence e f p h q) st = .next (st.trapWith Cause.phase 0 0)) ∧
    (st.inCompute st.cur = true → k.saWait = none → k.Clear [h, o] → (k.taintOf (tileTaint r.toNat)).isEmpty = true →
      st.Single → st.saCheck (st.ctxOf st.cur) adds = none → ∀ id u l, st.launchOf st.cur = some (id, u, l) →
      let sq := squareOf st.cur
      let n := if f = 1 then 128 else 256
      (st.square sq).xbuf.length < Config.exchangeEntries → l.pendFits u n = true →
      ∃ (t : State) (x : XEntry), exec (.saadd r p h q f o) st = .next t ∧ t.cur = st.cur ∧ ({ k with serial := k.serial + 1 } : Core).Passed t.me ∧
        (t.square sq).xbuf = (st.square sq).xbuf ++ [x] ∧ x.core = st.cur ∧ x.launch = id ∧ x.task = u ∧ x.size = n ∧
        x.kind = .saadd adds.hnd adds.off (f == 1) (k.row r.toNat) (k.rowSideOf r.toNat) ∧
        t.launch? id = some (l.pendAdd u n) ∧ t.slices = st.slices ∧ t.mem = st.mem)) ∧
  (∀ (st s1 : State) (c : Nat) (r : SaReq), (st.core c).saWait = some r →
    (∀ id u l, st.launchOf c = some (id, u, l) → l.scr = 0) → st.SaReady c r s1 → r.op < 8 →
    ∃ t, exec (.saSliceApply c) st = .next t ∧ st.SaApplied s1 t c r) ∧
  (∀ (st s1 : State) (sl i : Nat), st.owed sl = [i] →
    (st.slice sl).leaving = [] → st.hasUndo sl i = false → (∀ c id u l, st.launchOf c = some (id, u, l) → l.scr = 0) →
    st.evictVec sl i (st.vec sl i).compact = .ok s1 →
    ∃ t, exec (.saEvictionRetry sl) st = .next t ∧ t.vec sl i = s1.vec sl i ∧
      (t.vec sl i).st = (if (st.vec sl i).compact then 3 else 2) ∧ t.mem = s1.mem ∧ t.cores = st.cores)

/-- SSTEP begins the exchange phase; a barrier completes with its last arrival. A task in its compute phase, with every
access performed: SSTEP begins its exchange phase, counts the superstep and clears its exchange counts. In an
exchange phase BAR of a level with BARR = 1 at or above the domain level, and BAR of the domain level, enter WAIT;
when every task of the level's instance that has not ended waits at that level, no store or atomic of any of them is
in flight, nothing is pending and no other device takes part, all of them compute again past their BAR, with their
L1 dropped where the level is wider than core, and a global barrier begins the next superstep; otherwise the task
waits. Where all tasks of a domain instance have arrived naming different levels, each of them traps PHASE.
BARRIER_COMPLETE completes an instance, other devices' tasks having arrived. SSTEP or BAR in a wrong phase, or of a
wrong level, traps PHASE. (R153, R202, R204, R205, R439, R440, R476.) The model's choice or reading, no rule's:
FADDR or FSTART 0 where no rule states a value, and STR of a stop (notes/assumptions/10.md); SSTEP and BAR as waits
with their phase in State (notes/assumptions/14.md). -/
def Obligations.SupersteppingAndBarriers : Prop :=
  (∀ (l : Launch) (ts : List Nat) (d i : Nat), l.domainLevel = some d →
    let live := (l.instTasks d i).filter (fun v => !(l.task v).ended)
    (i ∈ l.clashes ts ↔ (∃ v ∈ ts, l.instOf d v = i) ∧ (∀ v ∈ live, ∃ n, (l.task v).phase = .wait n) ∧
      ∃ v ∈ live, ∃ w ∈ live, (l.task v).phase ≠ (l.task w).phase)) ∧
  (∀ (st : State) (n : BitVec 3) (id u d : Nat) (l : Launch), st.launchOf st.cur = some (id, u, l) → l.domainLevel = some d →
    let k := st.me
    let at' (lv : Nat) (i' : Instr) : Prop :=
      let ts := l.instTasks lv (l.instOf lv u)
      let l1 := l.modTask u (fun x => { x with phase := .wait lv })
      let s1 : State := { st with launches := Map.put st.launches id l1 }
      ((l.task u).phase = .compute → exec i' st = .next (st.trapWith Cause.phase 0 0)) ∧
      (∀ i is, (l.task u).phase = .exchange → k.inflight = [] → l1.clashes ts = i :: is →
        ((l1.instTasks d i).filter (fun v => !(l1.task v).ended)).Pairwise (fun v w => l1.pcore v ≠ l1.pcore w) →
        (∀ v ∈ l1.instTasks d i, (l1.task v).ended = false → s1.tvec (l1.pcore v) ≠ 0 ∧ (s1.core (l1.pcore v)).level = 0 ∧
          (s1.core (l1.pcore v)).loadsOut = false) →
        ∃ t, exec i' st = .next t ∧ s1.PhaseTraps t l1 d i) ∧
      ((l.task u).phase = .exchange → k.inflight = [] → u ∈ ts → (l.task u).ended = false → l1.clashes ts = [] →
        ts.Pairwise (fun v w => l.pcore v ≠ l.pcore w) → l.pcore u = st.cur →
        ((∀ v ∈ ts, ((l1.task v).ended = true ∨ (l1.task v).phase = .wait lv) ∧ s1.taskBusy id l1 v = false) →
          l.pend lv (l.instOf lv u) = 0 → l.spansDevices lv = false → ∃ t, exec i' st = .next t ∧ t.cur = st.cur ∧ s1.BarrierDone t id lv l1 ts) ∧
        (((∃ v ∈ ts, (l1.task v).ended = false ∧ (l1.task v).phase ≠ .wait lv) ∨ l.pend lv (l.instOf lv u) ≠ 0 ∨
            (∃ v ∈ ts, s1.taskBusy id l1 v = true) ∨ l.spansDevices lv = true) → exec i' st = .next s1.wait))
    ((l.barr n.toNat = false ∨ n.toNat < d) → exec (.bar n) st = .next (st.trapWith Cause.phase n.toNat 0)) ∧
    (l.barr n.toNat = true → d ≤ n.toNat → at' n.toNat (.bar n)) ∧ at' d .barDomain ∧
    ((l.task u).phase ≠ .compute → exec .sstep st = .next (st.trapWith Cause.phase 0 0)) ∧
    ((l.task u).phase = .compute → k.inflight ≠ [] → exec .sstep st = .next st.wait) ∧
    ((l.task u).phase = .compute → k.inflight = [] → ∃ t l', exec .sstep st = .next t ∧ t.cur = st.cur ∧
      ({ k with xbytes := [] } : Core).Passed t.me ∧ t.launch? id = some l' ∧ l'.record = l.record ∧
      (∀ v, l'.task v = if v = u then { l.task u with phase := .exchange, steps := (l.task u).steps + 1 } else l.task v) ∧
      t.mem = st.mem ∧ t.squares = st.squares)) ∧
  (∀ (st : State) (id u : Nat) (l : Launch), st.launchOf st.cur = some (id, u, l) → l.domainLevel = none →
    exec .sstep st = .next (st.trapWith Cause.phase 0 0) ∧ exec .barDomain st = .next (st.trapWith Cause.phase 0 0)) ∧
  (∀ (st : State) (id lv inst d : Nat) (l : Launch), st.launch? id = some l → l.domainLevel = some d →
    let ts := l.instTasks lv inst
    l.clashes ts = [] → ts.Pairwise (fun v w => l.pcore v ≠ l.pcore w) → l.pend lv inst = 0 →
    (∀ v ∈ ts, ((l.task v).ended = true ∨ (l.task v).phase = .wait lv) ∧ st.taskBusy id l v = false) →
    (∃ v ∈ ts, (l.task v).ended = false) →
    ∃ t, exec (.barrierComplete id lv inst) st = .next t ∧ st.BarrierDone t id lv l ts) ∧
  (∀ (st : State) (id lv inst d i : Nat) (is : List Nat) (l : Launch), st.launch? id = some l → l.domainLevel = some d →
    l.clashes (l.instTasks lv inst) = i :: is →
    ((l.instTasks d i).filter (fun v => !(l.task v).ended)).Pairwise (fun v w => l.pcore v ≠ l.pcore w) →
    (∀ v ∈ l.instTasks d i, (l.task v).ended = false → st.tvec (l.pcore v) ≠ 0 ∧ (st.core (l.pcore v)).level = 0 ∧
      (st.core (l.pcore v)).loadsOut = false) →
    ∃ t, exec (.barrierComplete id lv inst) st = .next t ∧ st.PhaseTraps t l d i)

/-- Timelines, full/empty bits and reductions: waits, sets and clears. TLWAIT of a number that its timeline has issued
retires once the counter has reached it, dropping the L1 for a scope wider than core, and waits till then; of a
number not issued it is ILLEGAL. TLADV writes its own number to d and issues. FESET and FECLR, on a core that is not
doubled, write the bit of a described, local tile buffer of a task of the launch that has not ended, after every
access; FEWAIT waits for its bit and may flip it. REDWAIT of a root writes the reduction's result to the local store
and counts it; a flushed one traps FLAG_FALL, a mixed one CHANNEL, and one that has not begun waits, with its
time-out on record. No other register, bit or byte changes. (R145, R149, R194, R243, R244, R389, R390, R441, R442.)
The model's choice or reading, no rule's: a time-out is an event that may come at any time (notes/assumptions/7.md);
FADDR or FSTART 0 where no rule states a value, and STR of a stop (notes/assumptions/10.md); the order in which
commands perform, and what waits for the scoreboard's room (notes/assumptions/18.md); which operands are consumed,
and the order of checks (notes/assumptions/28.md). -/
def Obligations.WaitsAndFlags : Prop :=
  ∀ (st : State) (a b d : R5) (tl s : BitVec 3) (i n : BitVec 2) (c v : BitVec 1) (id u : Nat) (l : Launch),
    st.launchOf st.cur = some (id, u, l) →
    let k := st.me
    let wider (p : Prop) [Decidable p] : Core := { k with l1 := if p then [] else k.l1, early := [] }
    let bits (t : State) (f : Nat → Bool) : Prop := ∃ l', t.launch? id = some l' ∧ (∀ j, Map.get false l'.full j = f j) ∧
      l' = { l with full := l'.full }
    let bit (j : Nat) : Bool := Map.get false l.full j
    let sets (i' : Instr) (w : Bool) : Prop := k.Clear [a] → st.Single →
      let x := (k.x a).toNat
      ((l.count ≤ x ∨ l.tbRole i.toNat = 0 ∨ l.tbRem i.toNat = true) → exec i' st = .next (st.trapWith Cause.bounds x 0)) ∧
      (x < l.count → l.tbRole i.toNat ≠ 0 → l.tbRem i.toNat = false →
        (k.inflight ≠ [] → exec i' st = .next st.wait) ∧
        (k.inflight = [] → ∃ t, exec i' st = .next t ∧ t.cur = st.cur ∧ k.Passed t.me ∧ t.mem = st.mem ∧
          bits t (fun j => if j = 4 * x + i.toNat ∧ (l.task x).ended = false then w else bit j)))
    (k.sideOf b = false → let m := (k.x b).toNat
      (Map.get 0 k.arch.tlIssued tl.toNat < m → exec (.tlwait b tl s) st = .next st.illegal) ∧
      (m ≤ Map.get 0 k.arch.tlIssued tl.toNat →
        (Map.get 0 k.arch.tlCount tl.toNat < m → exec (.tlwait b tl s) st = .next st.wait) ∧
        (m ≤ Map.get 0 k.arch.tlCount tl.toNat →
          ∃ k', exec (.tlwait b tl s) st = .next (st.setMe k') ∧ (wider (s ≠ 0)).Passed k'))) ∧
    (k.scoreboard ≤ Config.scoreboardEntries → ∃ t, exec (.tladv d tl) st = .next t ∧
      (st.setMe (k.setX d (BitVec.ofNat 64 (Map.get 0 k.arch.tlIssued tl.toNat + 1)) false Taint.clean)).Issued t .tladv tl) ∧
    sets (.feset a i) true ∧ sets (.feclr a i) false ∧
    (bit (4 * u + i.toNat) ≠ (v == 1) → exec (.fewait c v i) st = .next st.wait) ∧
    (bit (4 * u + i.toNat) = (v == 1) → ∃ t, exec (.fewait c v i) st = .next t ∧ t.cur = st.cur ∧
      (wider True).Passed t.me ∧ t.mem = st.mem ∧
      bits t (fun j => if j = 4 * u + i.toNat ∧ c = 1 then v != 1 else bit j)) ∧
    (k.Clear [a, b] →
      let tr := st.tree l st.cur n.toNat
      let inst := l.instOf tr.lvl u
      let va := (k.x a).toNat
      let o := va % 2 ^ 21
      let ord := Map.get 0 k.arch.redAwaited n.toNat
      let counted : Core := { k with redWait := none, arch := { k.arch with redAwaited := Map.put k.arch.redAwaited n.toNat (ord + 1) } }
      let member := tr.v = true ∧ u ∈ l.members tr inst ∧ l.rootOf tr u = some u
      (¬member → exec (.redwait a b n) st = .next (st.trapWith Cause.channel 0 0)) ∧
      (member → va % 4 = 0 → va / 2 ^ 21 % 8 = 0 →
        (st.redFind id n.toNat inst ord = none → exec (.redwait a b n) st = .next (if (k.x b).toNat % 2 ^ 32 = 0 then st.wait
          else (st.setMe { k with redWait := some (n.toNat, ord) }).wait)) ∧
        (∀ j r, st.redFind id n.toNat inst ord = some (j, r) →
          (r.mixed = true → k.loadsOut = false →
            exec (.redwait a b n) st = .next ((st.setMe counted).trapWith Cause.channel 0 n.toNat)) ∧
          (r.mixed = false → ∀ p, r.result l u = some p →
            (r.flushing = true → k.loadsOut = false → exec (.redwait a b n) st = .next ((st.setMe counted).trapWith
              Cause.flagFall (2 ^ (l.members tr inst).length - 1 - p.mask.toNat % 2 ^ (l.members tr inst).length) n.toNat)) ∧
            (r.flushing = false → let bs := r.resultBytes p
              k.checkLocal va bs.length = .ok () → ∃ t, exec (.redwait a b n) st = .next t ∧ t.cur = st.cur ∧ k.Flows t.me ∧
                (∀ x, t.me.lsRd x = if o ≤ x ∧ x < o + bs.length then (bs.map (·.1)).getD (x - o) 0 else k.lsRd x) ∧
                t.me.arch = { counted.arch with pc := t.me.arch.pc, seq0 := t.me.arch.seq0 } ∧ t.mem = st.mem)))))

/-- Solver instructions bind, factor, iterate, shift and report a problem block. In a launch with SOLV = 1, with ranges
in the local store that pass their checks and that no older command holds back, and room on the scoreboard and the
micro-operation queue: QPSET binds a block whose header is well formed and clears ITER and the status word; QPFAC
writes the factor of K with FV set, or STATUS 5 or 6; QPITER runs one iteration and goes on, or exits with STATUS 1
when a check converges, 3 or 4 when it finds the block primal or dual infeasible, 2 at MAXIT and 6 on a bad value; a
check that finds none of these goes on; QPSHIFT shifts x, z and y by whole stages; QPRES writes the residuals;
QPSTAT writes status, count and FV, or a free value with no block bound; FCHOL and FTRS work on named ranges. A word
outside the parts named keeps its value. Faults give their reason in FADDR; without SOLV every solver word is
ILLEGAL. (R446, R447, R448, R449, R450, R451, R452, R453, R454, R455, R224.) QPSTAT with no block bound reads a free
value (notes/assumptions/3.md). The model's choice or reading, no rule's: FADDR or FSTART 0 where no rule states a
value, and STR of a stop (notes/assumptions/10.md); the micro-operation queue beside the result
(notes/assumptions/42.md). -/
def Obligations.SolverInstructions : Prop :=
  ∀ (st : State) (id u : Nat) (l : Launch) (a b c : R5), st.launchOf st.cur = some (id, u, l) →
    let k := st.me
    let room : Prop := k.scoreboard + 3 ≤ Config.scoreboardEntries ∧ k.uops.length < 16
    let free (va n : Nat) : Prop := va / 2 ^ 21 % 8 = 0 ∧ k.checkLocal va n = .ok () ∧
      k.conflicts { mkCmd .tladv 0 [(va % 2 ^ 21, n, true)] with id := k.serial } = false ∧
      k.inflight.any (fun x => x.acquires) = false ∧ k.localClear [(va, n)] = true
    let ends (i : Instr) (k0 : Core) (good : State → Prop) : Prop := ∃ t, exec i st = .next t ∧ t.cur = st.cur ∧ k0.Flows t.me ∧
      good t ∧ t.me.arch = { k0.arch with pc := t.me.arch.pc, seq0 := t.me.arch.seq0 } ∧ t.mem = st.mem
    let keeps (t : State) (out : Nat → Prop) : Prop := ∀ x, ¬out x → t.me.lsRd x = k.lsRd x
    let inside (o n x : Nat) : Prop := o ≤ x ∧ x < o + n
    let word (t : State) (o : Nat) : Nat := t.me.rdWord o
    let vec (t : State) (o n : Nat) (xs : List Nat) : Prop := ∀ j < n, word t (o + 4 * j) = xs.getD j 0
    let status (t : State) (q : Qp) (s : Nat) (fv run : Bool) : Prop :=
      word t (q.o + 44) = s + (if fv then 256 else 0) + (if run then 512 else 0)
    let va := (k.x a).toNat
    (l.solv = false → ∀ i ∈ [Instr.qpset a, .qpfac, .qpiter, .qpres, .qpstat c, .qpshift a b, .fchol a b c, .ftrs a b c],
      exec i st = .next st.illegal) ∧
    (l.solv = true →
      (k.Clear [a] → va % 256 ≠ 0 → exec (.qpset a) st = .next (st.trapWith Cause.bounds va va)) ∧
      (k.Clear [a] → va % 256 = 0 → free va 3584 → let q := Qp.of k (va % 2 ^ 21)
        (q.headerOk k = false → exec (.qpset a) st = .next (st.trapWith Cause.qp 1 0)) ∧
        (q.headerOk k = true → free va q.size → room → ends (.qpset a) k (fun t => t.me.qp = some va ∧ word t (q.o + 40) = 0 ∧
          word t (q.o + 44) = 0 ∧ keeps t (inside (q.o + 40) 8)))) ∧
      (k.qp = none → ∀ i ∈ [Instr.qpfac, .qpiter, .qpres], exec i st = .next (st.trapWith Cause.qp 2 0)) ∧
      (k.qp = none → ends (.qpstat c) (k.setX c (Config.unboundStatus st.freeCount) false Taint.clean) (fun t =>
        t.me.ls = k.ls ∧ t.freeCount = st.freeCount + 1)) ∧
      (∀ p, k.qp = some p → let q := Qp.of k (p % 2 ^ 21)
        let P := k.rdMat (q.o + 3584) q.n q.n
        let A := k.rdMat q.aOfs q.m q.n
        let L := k.rdMat q.lOfs q.n q.n
        let cost := k.rdF32 (q.o + 256) q.n
        let lo := k.rdF32 (q.o + 1792) q.m
        let hi := k.rdF32 (q.o + 2304) q.m
        let v : QpVecs := { x := k.rdF32 (q.o + 512) q.n, z := k.rdF32 (q.o + 768) q.m, y := k.rdF32 (q.o + 1280) q.m }
        let stat (x : Nat) : Prop := inside (q.o + 40) 8 x
        let factor (x : Nat) : Prop := stat x ∨ inside q.lOfs (256 * q.n) x
        let vecs (x : Nat) : Prop := inside (q.o + 40) 24 x ∨ inside (q.o + 512) 1280 x ∨ inside (q.o + 2816) 768 x
        (free p 256 → room → ends (.qpstat c) (k.setX c
          (BitVec.ofNat 64 (q.status ||| (q.iter * 256) ||| (if q.fv then 2 ^ 31 else 0))) false Taint.clean) (fun t => t.me.ls = k.ls)) ∧
        (free p 3584 → q.dims = false → ∀ i ∈ [Instr.qpfac, .qpiter, .qpres], exec i st = .next (st.trapWith Cause.qp 1 0)) ∧
        (free p 3584 → q.dims = true → free p q.size → room →
          (let K := formK q P A
           let F := cholesky K []
           (K.any (fun r => r.contains f32Poison) = true → ends .qpfac k (fun t => status t q 6 false q.run ∧ keeps t factor)) ∧
           (K.any (fun r => r.contains f32Poison) = false →
            (F.2 = true → ends .qpfac k (fun t => status t q q.status true q.run ∧ keeps t factor ∧
              ∀ i < q.n, ∀ j ≤ i, word t (q.lOfs + 256 * i + 4 * j) = (F.1.getD i []).getD j 0)) ∧
            (F.2 = false → ends .qpfac k (fun t => status t q 5 false q.run ∧ keeps t factor)))) ∧
          (q.fv = false → exec .qpiter st = .next (st.trapWith Cause.qp 3 0) ∧ exec .qpres st = .next (st.trapWith Cause.qp 3 0)) ∧
          (q.fv = true →
            (let rs := residuals q P A cost v
             ends .qpres k (fun t => vec t (q.o + 48) 4 rs ∧ keeps t (inside (q.o + 48) 16))) ∧
            (let q0 := if q.run then q else { q with iter := 0, run := true }
             (q0.maxit ≤ q0.iter → ends .qpiter k (fun t => status t q 2 true false ∧ word t (q.o + 40) = q0.iter % 2 ^ 32 ∧
               keeps t stat)) ∧
             (q0.iter < q0.maxit → let v' := admm q A L cost lo hi v
              let w (t : State) : Prop := vec t (q.o + 512) q.n v'.x ∧ vec t (q.o + 768) q.m v'.z ∧ vec t (q.o + 1280) q.m v'.y ∧
                vec t (q.o + 3328) q.n v.x ∧ vec t (q.o + 2816) q.m v.y ∧ word t (q.o + 40) = (q0.iter + 1) % 2 ^ 32 ∧ keeps t vecs
              let bad := (v'.x ++ v'.z ++ v'.y).any qBad
              let rs := residuals { q0 with iter := q0.iter + 1 } P A cost v'
              (bad = true → ends .qpiter k (fun t => w t ∧ status t q 6 true false)) ∧
              (bad = false → (q0.iter + 1) % q.chkev ≠ 0 → q0.iter + 1 ≠ q.maxit →
                ∃ t, exec .qpiter st = .next t ∧ t.cur = st.cur ∧ t.me.arch = k.arch ∧ w t ∧ status t q q.status true true) ∧
              (bad = false → ((q0.iter + 1) % q.chkev = 0 ∨ q0.iter + 1 = q.maxit) →
                let exits (s : Nat) : Prop := ends .qpiter k (fun t => w t ∧ vec t (q.o + 48) 4 rs ∧ status t q s true false)
                let met := (qLe (rs.getD 0 0) (rs.getD 2 0) && qLe (rs.getD 1 0) (rs.getD 3 0)) = true
                let primal := primalInfeasible q A lo hi v'.y v.y = true
                let dual := dualInfeasible q P A cost lo hi v'.x v.x = true
                (met → exits 1) ∧ (¬met → primal → exits 3) ∧ (¬met → ¬primal → dual → exits 4) ∧
                (¬met → ¬primal → ¬dual → q0.iter + 1 = q.maxit → exits 2) ∧
                (¬met → ¬primal → ¬dual → q0.iter + 1 ≠ q.maxit → ∃ t, exec .qpiter st = .next t ∧ t.cur = st.cur ∧
                  t.me.arch = k.arch ∧ w t ∧ vec t (q.o + 48) 4 rs ∧ status t q q.status true true))))) ∧
          (k.sideOf a = false → k.sideOf b = false →
            let n := (k.x a).toNat
            let wx := ((k.x b).extractLsb' 0 8).toNat
            let wz := ((k.x b).extractLsb' 8 8).toNat
            let fits := n ≤ 64 ∧ (k.x b).toNat < 65536 ∧ 1 ≤ wx ∧ wx ≤ 64 ∧ 1 ≤ wz ∧ wz ≤ 128 ∧ n * wx ≤ q.n ∧ n * wz ≤ q.m
            (¬fits → exec (.qpshift a b) st = .next (st.trapWith Cause.qp 4 0)) ∧
            (fits → ends (.qpshift a b) k (fun t => vec t (q.o + 512) q.n (shiftVec v.x n wx) ∧
              vec t (q.o + 768) q.m (shiftVec v.z n wz) ∧ vec t (q.o + 1280) q.m (shiftVec v.y n wz) ∧
              word t (q.o + 40) = 0 ∧ status t q 0 q.fv q.run ∧ keeps t (fun x => stat x ∨ inside (q.o + 512) 1280 x)))))) ∧
      (k.Clear [a, b] → let n := (k.x b).toNat
        let o := va % 2 ^ 21
        ((n = 0 ∨ 64 < n) → exec (.fchol a b c) st = .next (st.trapWith Cause.qp 1 0)) ∧
        (1 ≤ n → n ≤ 64 → free va (256 * n) → room →
          let K := (List.range n).map (fun i => k.rdF32 (o + 256 * i) (i + 1))
          let F := cholesky K []
          let bad := K.any (fun r => r.contains f32Poison)
          ends (.fchol a b c) (k.setX c (if bad then 6 else if F.2 then 0 else 5) false Taint.clean) (fun t =>
            (bad = true → t.me.ls = k.ls) ∧
            (bad = false → (∀ i < F.1.length, ∀ j ≤ i, word t (o + 256 * i + 4 * j) = (F.1.getD i []).getD j 0) ∧
              keeps t (fun x => ∃ i < F.1.length, inside (o + 256 * i) (4 * (i + 1)) x))))) ∧
      (k.Clear [a, b, c] → let n := ((k.x c).extractLsb' 0 7).toNat
        let mode := ((k.x c).extractLsb' 8 2).toNat
        let o := (k.x b).toNat % 2 ^ 21
        let fits := 1 ≤ n ∧ n ≤ 64 ∧ (k.x c).getLsbD 7 = false ∧ (k.x c).toNat < 1024 ∧ mode ≠ 3
        (¬fits → exec (.ftrs a b c) st = .next (st.trapWith Cause.qp 1 0)) ∧
        (fits → free va (256 * n) → free (k.x b).toNat 256 → room → ends (.ftrs a b c) k (fun t =>
          vec t o n (solveMode mode (k.rdMat (va % 2 ^ 21) n n) (k.rdF32 o n)) ∧ (∀ j, n ≤ j → j < 64 → word t (o + 4 * j) = 0) ∧
          keeps t (inside o 256)))))

/-- MFC reads and MTC writes every control register at its level. MFC of a listed number at or above its read level
writes the register's value to d with no poison and no taint; MTC of an accepted, unpoisoned value at or above the
write level makes the register read as the value, XSTAT as zero, and no other register changes: a write of LPWR asks
for its layers and starts the transitions that are due, one of LNQCTL sets its queue's fields and raises TAIL. An
unlisted number, a read-only one in MTC, and a value not accepted are ILLEGAL; a level too low traps PRIV. No scalar
register but MFC's, no row and no byte of memory changes. (R457, R216, R56, R18, R271.) The model's choice or
reading, no rule's: FADDR or FSTART 0 where no rule states a value, and STR of a stop (notes/assumptions/10.md);
which operands are consumed, and the order of checks (notes/assumptions/28.md). -/
def Obligations.ControlRegisters : Prop :=
  ∀ (st : State) (m : BitVec 1) (d a : R5) (c : BitVec 10),
    let k := st.me
    let n := c.toNat
    let ctx := st.context (st.ctxOf st.cur)
    let v := k.x a
    let q (i : Nat) := st.lqueue i
    let listed := n ≤ 0x0B ∨ (0x40 ≤ n ∧ n ≤ 0x4E) ∨ (0x50 ≤ n ∧ n ≤ 0x5F) ∨ (0x80 ≤ n ∧ n ≤ 0xAF)
    let fixed := n = 0x0A ∨ n = 0x4E ∨ 0xA0 ≤ n
    let reads (x : Dword) : Prop := ∃ k', exec (.mfc m d c) st = .next (st.setMe k') ∧ k.Wrote k' d x false Taint.clean
    let high := 0x0C ≤ n
    let privileged := n = 0x09 ∨ 0x0C ≤ n
    (¬listed → exec (.mfc m d c) st = .next st.illegal ∧ exec (.mtc m a c) st = .next st.illegal) ∧
    (listed → high → k.level = 0 → exec (.mfc m d c) st = .next (st.trapWith Cause.priv 0 0)) ∧
    (listed → (high → k.level ≠ 0) →
      (n = 0x00 → reads k.arch.mdef) ∧ (n = 0x01 → reads k.arch.rmode) ∧
      (2 ≤ n → n ≤ 8 → reads (Map.get 0 k.arch.fmts (n - 1))) ∧ (n = 0x09 → reads k.xstat) ∧ (n = 0x0A → reads k.lssize) ∧
      ((n = 0x0B ∨ (0x40 ≤ n ∧ n ≤ 0x4B) ∨ (0x58 ≤ n ∧ n ≤ 0x5F)) → reads (ctx.cr n)) ∧
      (n = 0x4C → reads k.lpwr) ∧ (n = 0x4D → reads k.lsecc) ∧ (n = 0x4E → reads k.lsprm) ∧ (n = 0x50 → reads k.epc) ∧
      (n = 0x51 → reads k.ecause) ∧ (n = 0x52 → reads k.faddr) ∧ (n = 0x53 → reads k.fstart) ∧ (n = 0x54 → reads k.xepc) ∧
      (n = 0x55 → reads k.xcause) ∧ (n = 0x56 → reads k.xfaddr) ∧ (n = 0x57 → reads k.xfstart) ∧
      (0x80 ≤ n → n < 0x90 → reads (q (n - 0x80)).base) ∧ (0x90 ≤ n → n < 0xA0 → reads (q (n - 0x90)).word) ∧
      (0xA0 ≤ n → reads (BitVec.ofNat 64 (q (n - 0xA0)).count))) ∧
    (listed → fixed → exec (.mtc m a c) st = .next st.illegal) ∧
    (listed → ¬fixed → privileged → k.level = 0 → exec (.mtc m a c) st = .next (st.trapWith Cause.priv 0 0)) ∧
    (listed → ¬fixed → (privileged → k.level ≠ 0) → k.sideOf a = true →
      exec (.mtc m a c) st = .next (st.trapWith Cause.poison a.toNat 0)) ∧
    (listed → ¬fixed → (privileged → k.level ≠ 0) → k.sideOf a = false → crAccepts n v = false →
      exec (.mtc m a c) st = .next st.illegal) ∧
    (listed → ¬fixed → (privileged → k.level ≠ 0) → k.sideOf a = false → crAccepts n v = true →
      ∃ t, exec (.mtc m a c) st = .next t ∧ t.cur = st.cur ∧ k.Flows t.me ∧ (∀ r, t.me.x r = k.x r ∧ t.me.sideOf r = k.sideOf r) ∧
        (∀ r, t.me.row r = k.row r) ∧ t.me.ls = k.ls ∧ t.mem = st.mem ∧ t.me.level = k.level ∧
        (∀ i, crListed i = true → i ≠ n → (i = 0x0A → n ≠ 0x4C) → t.readCr st.cur (st.ctxOf st.cur) i = st.readCr st.cur (st.ctxOf st.cur) i) ∧
        (n ≠ 0x09 → n ≠ 0x4C → (n < 0x90 ∨ 0xA0 ≤ n) → t.readCr st.cur (st.ctxOf st.cur) n = v) ∧
        (n = 0x09 → t.me.xstat = 0) ∧
        (n = 0x4C → ∀ b : Bool, let l := k.layer b
          (t.me.layer b).want = v.getLsbD (if b then 1 else 0) ∧ (t.me.layer b).on = l.on ∧
          (t.me.layer b).busy = (l.busy || v.getLsbD (if b then 1 else 0) != l.on)) ∧
        (0x90 ≤ n → n < 0xA0 → let o := q (n - 0x90)
          let q' := t.lqueue (n - 0x90)
          q'.enabled = v.getLsbD 0 ∧ q'.prio = (v.extractLsb' 16 3).toNat ∧ q'.pre = v.getLsbD 19 ∧
          q'.logd = (v.extractLsb' 20 4).toNat ∧ q'.head = o.head ∧ q'.base = o.base ∧ q'.count = o.count ∧
          (let x := (v.extractLsb' 48 16).toNat
          q'.tail = if x ≠ o.tail ∧ (q'.usable = false ∨ 2 ^ q'.logd < (x + 65536 - o.head) % 65536) then o.tail else x)))

/-- MCREAD, SCMARK and CLKRD; TLBI and LEASE. Above level 0, with an unpoisoned operand and a free slot, MCREAD writes a
dword of the core's machine-check record or a register of an error block; an offset that is misaligned or beyond
them traps BOUNDS, and level 0 traps PRIV. SCMARK without a scoresheet only retires; recording, it appends an entry
of kind 9 at its virtual square's position, or waits when the log is full. CLKRD outside a scoresheet writes its
square's game clock. Taint is the operand's for MCREAD and empty for CLKRD, and nothing else changes. Above level 0,
with unpoisoned operands, an aligned canonical range in one half, an ASID 1 to 65,535 or a context below 64 with
room, and no store in flight, TLBI and LEASE send a request to every unit concerned and wait; they retire once each
has received and acknowledged it, the request then being gone. LEASE of a context that runs no task retires at once.
A range, a length or a number outside those limits traps BOUNDS with the offending value, and level 0 traps PRIV.
(R462, R109, R213, R245, R280, R456, R41, R42, R461.) The model's choice or reading, no rule's: FADDR or FSTART 0
where no rule states a value, and STR of a stop (notes/assumptions/10.md); which operands are consumed, and the
order of checks (notes/assumptions/28.md); which units take part in an invalidation and when they acknowledge
(notes/assumptions/34.md). -/
def Obligations.RecordsMarksClockAndRanges : Prop :=
  (
  ∀ (st : State) (m : BitVec 1) (d a : R5),
    let k := st.me
    let x := (k.x a).toNat
    let e := st.err (x / 256)
    let reads (v : Dword) : Prop := ∃ k', exec (.mcread m d a) st = .next (st.setMe k') ∧
      ({ k with loadSeq := k.loadSeq + 1 } : Core).Wrote k' d v false (k.taints [a.toNat])
    (k.level = 0 → exec (.mcread m d a) st = .next (st.trapWith Cause.priv 0 0)) ∧
    (k.level ≠ 0 → k.sideOf a = false →
      ((x < 2 ^ 63 ∨ 2 ^ 63 + 4 ≤ x) → (x % 8 ≠ 0 ∨ 0x6F8 < x) →
        exec (.mcread m d a) st = .next (st.trapWith Cause.bounds x 0)) ∧
      (k.freeSlotNo.isSome = true →
        (∀ i < 4, x = 2 ^ 63 + i → reads (k.mcRecord.extractLsb' (64 * i) 64)) ∧
        (x % 8 = 0 → x ≤ 0x6F8 → (x % 256 = 0 → reads e.escr) ∧
          (x % 256 = 8 → reads (BitVec.ofNat 64 (e.cor + e.unc * 2 ^ 32))) ∧
          (∀ i < 8, x % 256 = 0x40 + 8 * i → reads (e.log.getD i 0))))) ∧
    ((∀ id u l, st.launchOf st.cur = some (id, u, l) → l.scr = 0) →
      ∃ k', exec (.clkrd m d) st = .next (st.setMe k') ∧ k.Wrote k' d (st.clockOf (squareOf st.cur)) false Taint.clean) ∧
    (∀ id u l, st.launchOf st.cur = some (id, u, l) →
      (l.scr = 0 → ∃ k', exec (.scmark m a) st = .next (st.setMe k') ∧ k.Passed k') ∧
      (l.scr = 1 → l.logFull u = false →
        ∃ t l', exec (.scmark m a) st = .next t ∧ t.cur = st.cur ∧ k.Passed t.me ∧ t.launch? id = some l' ∧
          l'.logPosOf u = l.logPosOf u + 16 ∧
          (∀ p, st.check2 (State.deviceWho l.ctx st.cur) .store 0 (l.logAt u) 16 0 = .ok [p] → p.size = 16 → p.idx = 0 →
            let w : BitVec 128 := BitVec.ofNat 128 ((k.x a).toNat % 2 ^ 56 + 9 * 2 ^ 56 +
              (st.clockOf (squareOf st.cur)).toNat * 2 ^ 64)
            ∀ y, t.rd y = if p.pa ≤ y ∧ y < p.pa + 16 then w.extractLsb' (8 * (y - p.pa)) 8 else st.rd y)) ∧
      (l.scr = 1 → l.logFull u = true → ∃ t, exec (.scmark m a) st = .next t ∧ t.stalled = true ∧ t.mem = st.mem)))
  ∧ (
  ∀ (st : State) (m : BitVec 1) (d a b : R5),
    let k := st.me
    let va := (k.x a).toNat
    let n := (k.x b).toNat
    let x := (k.x d).toNat
    let good := va % 65536 = 0 ∧ canonical va = true ∧ n ≠ 0 ∧ n % 65536 = 0 ∧ canonical (va + n - 1) = true ∧
      ¬(va < 2 ^ 56 ∧ 2 ^ 56 < va + n)
    let stores := k.inflight.any (fun i => i.kind.stores)
    let clear := k.sideOf a = false ∧ k.sideOf b = false ∧ k.sideOf d = false
    (k.level = 0 → exec (.tlbi m d a b) st = .next (st.trapWith Cause.priv 0 0) ∧
      exec (.lease m d a b) st = .next (st.trapWith Cause.priv 0 0)) ∧
    (k.level ≠ 0 → clear →
      (∀ (r : Bool) (id : Nat) (v : Inval), st.invalOf st.cur r = some (id, v) →
        let i := if r then Instr.lease m d a b else .tlbi m d a b
        ((v.toReach ≠ [] ∨ v.toAck ≠ []) → exec i st = .next st.wait) ∧
        (v.toReach = [] → v.toAck = [] → ∃ t, exec i st = .next t ∧ t.cur = st.cur ∧ k.Passed t.me ∧ t.mem = st.mem ∧
          (∀ j, Map.find? t.invals j = if j = id then none else Map.find? st.invals j))) ∧
      (st.invalOf st.cur false = none →
        ((va % 65536 ≠ 0 ∨ canonical va = false) → exec (.tlbi m d a b) st = .next (st.trapWith Cause.bounds va va)) ∧
        (va % 65536 = 0 → canonical va = true → ¬good → exec (.tlbi m d a b) st = .next (st.trapWith Cause.bounds n va)) ∧
        (good → (x = 0 ∨ 65535 < x) → exec (.tlbi m d a b) st = .next (st.trapWith Cause.bounds x va)) ∧
        (good → 1 ≤ x → x ≤ 65535 → stores = false → ∃ (t : State) (id : Nat), exec (.tlbi m d a b) st = .next t ∧
          t.stalled = true ∧ Map.find? st.invals id = none ∧
          t.invals = Map.put st.invals id { core := st.cur, revoke := false, base := va, len := n, asid := x,
                                            toReach := st.invalUnits, toAck := [] } ∧ t.mem = st.mem)) ∧
      (st.invalOf st.cur true = none →
        ((va % 65536 ≠ 0 ∨ canonical va = false) → exec (.lease m d a b) st = .next (st.trapWith Cause.bounds va va)) ∧
        (va % 65536 = 0 → canonical va = true → ¬good → exec (.lease m d a b) st = .next (st.trapWith Cause.bounds n va)) ∧
        (good → 63 < x → exec (.lease m d a b) st = .next (st.trapWith Cause.bounds x va)) ∧
        (good → x ≤ 63 → 16 ≤ (st.context x).revoked.length → exec (.lease m d a b) st = .next (st.trapWith Cause.bounds 16 va)) ∧
        (good → x ≤ 63 → (st.context x).revoked.length < 16 → stores = false →
          (st.hasTask x = false → ∃ k', exec (.lease m d a b) st = .next (st.setMe k') ∧ k.Passed k') ∧
          (st.hasTask x = true → ∃ (t : State) (id : Nat), exec (.lease m d a b) st = .next t ∧ t.stalled = true ∧
            t.invals = Map.put st.invals id { core := st.cur, revoke := true, base := va, len := n, asid := x,
                                              toReach := st.ctxUnits x, toAck := [] } ∧
            (t.context x).revoked = (st.context x).revoked ++ [(va, n)] ∧ t.mem = st.mem)))))

/-- TRAP, BKPT, PHINT, YIELD, WFE, SEV and HALT. TRAP and BKPT enter the handler with their own cause, EPC naming the
next instruction and FADDR their operand. PHINT with a well-formed word and YIELD only retire unless the core stands
at level 0 with a pre-emption request and no loop or frame, and is no follower that runs behind its leader; then it
waits for its older loads and stops past them with the word's live ranges, or whole. WFE clears a set event flag and
goes on, goes on for a stop request, or sleeps. SEV, on a core that is not doubled, sets the flags of the core that
it names or of its own square's, in its context, after every access. HALT of a core with nothing outstanding ends
its task without a cause, and its followers'. (R456, R272, R273, R277, R285, R286, R357, R459, R460, R197.) The
model's choice or reading, no rule's: FADDR or FSTART 0 where no rule states a value, and STR of a stop
(notes/assumptions/10.md); which operands are consumed, and the order of checks (notes/assumptions/28.md). -/
def Obligations.TrapsStopsAndEvents : Prop :=
  ∀ (st : State) (m : BitVec 1) (a : R5) (x : BitVec 15),
    let k := st.me
    let enters (i : Instr) (code : Nat) : Prop := k.loadsOut = false → st.tvec st.cur ≠ 0 → k.level ≠ 2 →
      ∃ k', exec i st = .next (st.setMe k') ∧ k'.level.val = k.level.val + 1 ∧ k'.arch.pc = st.tvec st.cur ∧
        k'.epc = k.retire.arch.pc ∧ (k'.ecause.extractLsb' 0 8).toNat = code ∧ k'.faddr = x.setWidth 64 ∧ k'.fstart = 0 ∧
        k'.ls = k.ls ∧ k'.arch = { k.arch with pc := k'.arch.pc, seq0 := k'.arch.seq0 }
    let w := k.x a
    let stops (i : Instr) (live : Option Dword) (ranges : List (Nat × Nat)) : Prop := k.loadsOut = false → ∃ t, exec i st = .next t ∧ t.cur = st.cur ∧
      k.Flows t.me ∧ t.me.stopped = some { live := live, ranges := ranges, cause := 0x12 } ∧
      t.me.stopReq = k.stopReq.filter (fun r => !r.isPreempt) ∧ t.mem = st.mem ∧ t.me.ls = k.ls
    let v := (k.x a).toNat
    let flag (c : Nat) : Bool := (st.core c).eventFlag
    let runs (c : Nat) (ctx : Nat) : Prop := (st.core c).task.isSome = true ∧ st.ctxOf c = ctx
    enters (.trap m x) 0x10 ∧ enters (.bkpt m x) 0x0F ∧
    (liveOk w = false → exec (.phint m a) st = .next st.illegal) ∧
    (liveOk w = true → st.preemptible st.cur = false → ∃ k', exec (.phint m a) st = .next (st.setMe k') ∧ k.Passed k') ∧
    (liveOk w = true → st.preemptible st.cur = true → (∀ rs, k.liveRanges w = some rs → stops (.phint m a) (some w) rs) ∧
      (k.liveRanges w = none → stops (.phint m a) none [])) ∧
    (st.preemptible st.cur = false → ∃ k', exec (.yield m) st = .next (st.setMe k') ∧ k.Passed k') ∧
    (st.preemptible st.cur = true → stops (.yield m) none []) ∧
    (st.preemptible st.cur = true → k.loadsOut = true → exec (.yield m) st = .next st.wait ∧
      (liveOk w = true → exec (.phint m a) st = .next st.wait)) ∧
    (k.eventFlag = true → ∃ k', exec (.wfe m) st = .next (st.setMe k') ∧
      ({ k with eventFlag := false, l1 := [], early := [], sleep := none } : Core).Passed k') ∧
    (k.eventFlag = false → k.stopReq ≠ [] → ∃ k', exec (.wfe m) st = .next (st.setMe k') ∧
      ({ k with l1 := [], early := [], sleep := none } : Core).Passed k') ∧
    (k.eventFlag = false → k.stopReq = [] → exec (.wfe m) st = .next (st.setMe { k with sleep := some .wfe }).wait) ∧
    (k.sideOf a = false → (2 ^ 13 < v → exec (.sev m a) st = .next (st.trapWith Cause.bounds v 0)) ∧
      (v ≤ 2 ^ 13 → k.inflight ≠ [] → exec (.sev m a) st = .next st.wait) ∧
      (v ≤ 2 ^ 13 → k.inflight = [] → st.Single → ∀ id u l, st.launchOf st.cur = some (id, u, l) →
        ∃ t, exec (.sev m a) st = .next t ∧ t.cur = st.cur ∧ k.Flows t.me ∧ t.mem = st.mem ∧ (∀ c, (t.core c).ls = (st.core c).ls) ∧
          (∀ r, t.me.x r = k.x r) ∧
          (v = 2 ^ 13 → ∀ c, ((t.core c).eventFlag = true ↔ flag c = true ∨ (squareOf c = squareOf st.cur ∧ runs c l.ctx))) ∧
          (v < 2 ^ 13 → ∀ c, ((t.core c).eventFlag = true ↔
            flag c = true ∨ (st.coreOfVirtual id v l = some c ∧ runs c l.ctx))))) ∧
    (∀ id u l, st.launchOf st.cur = some (id, u, l) → k.inflight = [] → k.cmds = [] → k.saWait = none → k.gangWait = none →
      (st.square (squareOf st.cur)).gang = none →
      (∀ f ∈ st.followersOf st.cur, (∃ u', st.launchOf f = some (id, u', l)) ∧ (st.core f).inbox = [] ∧ (st.core f).inflight = [] ∧ (st.core f).cmds = []) →
      ∃ t l', exec (.halt m) st = .next t ∧ (t.core st.cur).task = none ∧ (∀ f ∈ st.followersOf st.cur, (t.core f).task = none) ∧
        t.launch? id = some l' ∧ l'.record = l.record ∧ (l'.task u).ended = true ∧ (l'.task u).cause = 0 ∧
        (t.core st.cur).arch = k.arch ∧ (t.core st.cur).ls = k.ls)

/-- An issued engine command performs: its effect, then its timeline. A command that no older one of the scoreboard
holds back, and no REL, performs; one whose local ranges lie in a layer that is off stops its core with the layer's
fault, one in a layer on its way waits. LMZERO zeroes and LMCOPY copies its range, LMCMP writes 0 or the number of
the first differing or poisoned byte and frees its slot, TLADV waits for every older command, REDSEND gives its
elements to its reduction, MEPI writes its staged rows once the gang operations before it, and those that write its
accumulator, have passed their checks, and a CPY that is one piece writes at its destination what its source held;
one that meets a fault stops its core instead. A command that has performed leaves, its flags enter RMODE, and its
timeline's counter moves over the complete prefix of the numbers performed. An MCRD whose lines are present sends
from each line's home slice one message to the masked cores with a bound task, and XSEND holds its message for its
slot; both stay until their messages have ended. (REDSEND, XSEND, CPY to memory: of a task not doubled.) No other
timeline's counter, no other core's local store and, but for a CPY to memory, no byte of device memory changes.
(R145, R224, R383, R385, R388, R389, R391, R435, R443, R93, R129.) The model's choice or reading, no rule's: what
goes on beside trailing checks, and that MEPI writes when it performs (notes/assumptions/17.md); the order in which
commands perform, and what waits for the scoreboard's room (notes/assumptions/18.md); how a doubled task's copies
run and what their hashes cover (notes/assumptions/36.md). -/
def Obligations.EngineCommandsPerform : Prop :=
  ∀ (st : State) (c id : Nat) (hint : BitVec 12) (x : Cmd), let k := st.core c
    List.find? (fun y => y.id == id) k.cmds = some x → k.conflicts x = false → k.relHolds x = false → st.errors = [] → x.sent = 0 →
    let i := Instr.engineCommandPerform c { no := id, hint := hint }
    let ends (p : State → Prop) : Prop := ∃ t, exec i st = .next t ∧ t.cur = st.cur ∧ k.CmdDone (t.core c) x ∧
      (∀ j, j ≠ c → (t.core j).ls = (st.core j).ls) ∧ p t
    let still (t : State) : Prop := t.mem = st.mem ∧ t.memPois = st.memPois ∧ (∀ r, (t.core c).x r = k.x r)
    let range (a n y : Nat) : Bool := decide (a ≤ y) && decide (y < a + n)
    let granule (a n y : Nat) : Bool := decide (a ≤ 32 * (y / 32)) && decide (32 * (y / 32) + 32 ≤ a + n)
    let whole : Prop := k.rangesServe x = .ok () ∧ x.staged = none ∧ x.got = []
    (∀ a n, x.word = .lmzero a n → whole → let a' := a % 2 ^ 21
      ends (fun t => still t ∧ ∀ y, (t.core c).lsRd y = (if range a' n y then 0 else k.lsRd y) ∧
        (t.core c).lsRdPois y = if granule a' n y then false else k.lsRdPois y)) ∧
    (∀ a b n, x.word = .lmcopy a b n → whole → let a' := a % 2 ^ 21; let b' := b % 2 ^ 21
      ends (fun t => still t ∧ (∀ y, (t.core c).lsRd y = if range a' n y then k.lsRd (b' + (y - a')) else k.lsRd y) ∧
        (a' % 32 = 0 → b' % 32 = 0 → n % 32 = 0 →
          ∀ y, (t.core c).lsRdPois y = if range a' n y then k.lsRdPois (b' + (y - a')) else k.lsRdPois y))) ∧
    (∀ a b n r, x.word = .lmcmp a b n r → whole → r < 32 → r ≠ 0 →
      ∀ m, x.slot = some m → Map.find? k.pend r = some m →
      let differ (y : Nat) : Bool := k.lsRd (a % 2 ^ 21 + y) != k.lsRd (b % 2 ^ 21 + y) || k.lsRdPois (a % 2 ^ 21 + y) ||
        k.lsRdPois (b % 2 ^ 21 + y)
      ∀ v : Nat, ((v = 0 ∧ ∀ y < n, differ y = false) ∨ (∃ y < n, v = y + 1 ∧ differ y = true ∧ ∀ z < y, differ z = false)) →
      ∃ t, exec i st = .next t ∧ t.mem = st.mem ∧ (∀ j, (t.core j).ls = (st.core j).ls) ∧
        (∀ q, (t.core c).x q = if q = BitVec.ofNat 5 r then BitVec.ofNat 64 v else k.x q) ∧
        (t.core c).sideOf (BitVec.ofNat 5 r) = false ∧ Map.find? (t.core c).loads m = none ∧
        Map.find? (t.core c).pend r = none ∧ (t.core c).cmds = k.cmds.filter (fun y => y.id != id)) ∧
    (x.word.isInLayer = true → (k.rangesServe x = .hold → exec i st = .next st) ∧
      ∀ f, k.rangesServe x = .fault f → ∃ t, exec i st = .next t ∧ t.mem = st.mem ∧ (t.core c).ls = k.ls ∧
        (t.core c).cmds = k.cmds.filter (fun y => y.id != id) ∧
        (t.core c).stopReq = k.stopReq ++ [.engine (BitVec.ofNat 8 f.code) f.walk f.faddr x.pc]) ∧
    (x.word = .tladv → k.cmds.head? = some x → ends (fun t => still t ∧ (t.core c).ls = k.ls)) ∧
    (∀ n rop a cnt o j u l, x.word = .redsend n rop a cnt o → st.launchOf c = some (j, u, l) → l.dbl = false →
      k.rangesServe x = .ok () →
      let tr := st.tree l c n
      let es := k.redElems rop (a % 2 ^ 21) cnt
      let p : Partial := { mask := BitVec.twoPow 64 (l.memberNo tr (l.instOf tr.lvl u) u), vals := es.1, pois := es.2 }
      (st.redFind j n (l.instOf tr.lvl u) o = none → ends (fun t => still t ∧ (t.core c).ls = k.ls ∧
        Map.find? t.reds st.redId = some
          { launch := j, tree := n, inst := l.instOf tr.lvl u, ordinal := o, given := [(u, (rop, p))], sent := [],
            flushed := [], flushing := false, timedOut := false, isOver := false } ∧
        ∀ y, y ≠ st.redId → Map.find? t.reds y = Map.find? st.reds y)) ∧
      (∀ m r, st.redFind j n (l.instOf tr.lvl u) o = some (m, r) → Map.has r.given u = false → r.isOver = false →
        Map.has r.sent (l.vcore u / 4) = false → ends (fun t => still t ∧ (t.core c).ls = k.ls ∧
          Map.find? t.reds m = some { r with given := Map.put r.given u (rop, p) }))) ∧
    let free (acc : Nat) : Prop := ∀ g, (st.square (squareOf c)).gang = some g → g.isBefore c x = false ∧ acc ∉ g.op.accs
    (∀ acc a L, x.word = .mepi acc a → x.staged = some L → free acc →
      (∀ r ∈ L, k.checkLocal r.1 r.2.length = .ok ()) →
      ends (fun t => still t ∧ ∀ y, (t.core c).lsRd y =
        match (L.reverse.find? (fun r => range (r.1 % 2 ^ 21) r.2.length y)) with
        | some r => ((r.2.map (·.1)).getD (y - r.1 % 2 ^ 21) 0)
        | none => k.lsRd y)) ∧
    (∀ a ofs len mask bx by' bz ca ps j u l, x.word = .mcrd a ofs len mask bx by' bz ca → x.got = [] → 0 < len →
      x.refusals = [] → st.check2 (st.cmdWho c x) .load ca a len 0 = .ok ps →
      st.launchOf c = some (j, u, l) → l.scr = 0 →
      let lines := mcrdLines a len
      let parts (e : Nat × Nat × Nat × Nat) : List Part :=
        ps.filter (fun p => decide (e.2.1 ≤ p.va) && decide (p.va < e.2.1 + e.2.2.1))
      let at' (e : Nat × Nat × Nat × Nat) : Nat := ((parts e).map (·.pa)).headD 0
      (∀ e ∈ lines, st.refuses c x.id (at' e) = false ∧ st.mcastFills (at' e / 1024) = false ∧
        sectorsOf (at' e) ((parts e).foldl (fun n p => n + p.size) 0) &&& ~~~(st.line (at' e / 1024)).valid = 0) →
      let ts := (l.masked mask bx by' bz).filterMap (fun d => d)
      ts ≠ [] → ∃ t, exec i st = .next t ∧ t.mem = st.mem ∧ (∀ y, (t.core y).ls = (st.core y).ls) ∧
        (∃ y ∈ (t.core c).cmds, y = { x with got := lines.map (·.1) }) ∧ t.msgId = st.msgId + lines.length ∧
        (∀ y, (y < st.msgId ∨ st.msgId + lines.length ≤ y) → Map.find? t.msgs y = Map.find? st.msgs y) ∧
        ∀ y e, lines[y]? = some e → let src := st.homeOf (at' e / 1024)
          let bs := (parts e).flatMap (fun p => st.rdBytes p.pa p.size)
          Map.find? t.msgs (st.msgId + y) = some
            { cls := 2, launch := j, task := u, superstep := x.step, number := x.number + y, ctx := l.ctx,
              src := src, here := src, dst := src, waypoint := none, vc := 0,
              body := .mcast j (ts.map (fun d => { task := d, here := src, waypoint := none, vc := 0 })) (ofs + e.2.2.2)
                (PBytes.data bs) (PBytes.granules bs) c id }) ∧
    (∀ cls a len peer ofs j u l, x.word = .xsend cls a len peer ofs → st.launchOf c = some (j, u, l) → l.dbl = false →
      k.rangesServe x = .ok () →
      let bs := k.lsBytes (a % 2 ^ 21) len
      ∃ t, exec i st = .next t ∧ t.mem = st.mem ∧ (∀ y, (t.core y).ls = (st.core y).ls) ∧
        ({ x with sent := 1 } : Cmd) ∈ (t.core c).cmds ∧ (t.square (squareOf c)).slotMsgs = (st.square (squareOf c)).slotMsgs ++
          [{ core := c, cmd := id, launch := j, task := u, step := x.step, number := x.number, cls := cls, peer := peer, ofs := ofs, data := PBytes.data bs,
             pois := PBytes.granules bs, missed := 0, hashes := none }]) ∧
    (∀ d sp a b n ps qs, x.word = .cpy d sp a b n → d < 3 → sp < 2 → x.word.steps k = x.word.moves k →
      (∀ j u l, st.launchOf c = some (j, u, l) → l.scr = 0 ∧ l.dbl = false) → st.behindRefused c x = false →
      let w := st.cmdWho c x
      let ss := if d = 0 then 1 else spSpace sp
      let ds := if d = 1 then 1 else spSpace sp
      st.rangeCheck w ss .load false b n = .ok ps → st.rangeCheck w ds .store false a n = .ok qs →
      (∀ p ∈ ps, ss ≠ 1 → st.refuses c id p.pa = false) → (∀ q ∈ qs, ds ≠ 1 → st.refuses c id q.pa = false) →
      (2 ≤ ss → 2 ≤ ds → partsMeet ps qs = false) → (partAddrs ps).length = n → (partAddrs qs).length = n →
      (partAddrs qs).Nodup →
      ends (fun t => (∀ r, (t.core c).x r = k.x r) ∧
        let old (y : Nat) : Byte := if ss = 1 then k.lsRd y else st.rd y
        (∀ y, (if ds = 1 then (t.core c).lsRd y else t.rd y) =
          match (partAddrs qs).idxOf? y with
          | some m => ((partAddrs ps)[m]?.map old).getD 0
          | none => if ds = 1 then k.lsRd y else st.rd y) ∧
        (if ds = 1 then t.mem = st.mem else (t.core c).ls = k.ls))) ∧
    (∀ acc a r f, x.word = .mepi acc a → x.staged = some [r] → free acc →
      k.checkLocal r.1 r.2.length = .fault f →
      ∃ t, exec i st = .next t ∧ t.mem = st.mem ∧ (t.core c).ls = k.ls ∧ (t.core c).cmds = k.cmds.filter (fun y => y.id != id) ∧
        (t.core c).stopReq = k.stopReq ++ [.engine (BitVec.ofNat 8 f.code) f.walk f.faddr x.pc])

/-- Home slices refuse, fill and serve requests; exchange-buffer entries perform. In its exchange phase a square's
oldest entry of a core performs and leaves the buffer and the counters of R204: a store writes its bytes, an atomic
its result; one that faults ends its task and its later entries, at once where the task waits at a barrier. A
request for a busy line, or one behind another's reservation, is refused, and a fourth refusal takes a place among
the waiting reservations, of which a slice holds 32; a missing sector may start a fill; otherwise the access is
tried. A response that the host gives, or that the delivered frames of another device hold, binds its bytes to the
load's register and ends the access; one that has not come changes nothing. A finished fill or write-back frees its
line; with no request waiting nothing else changes but the poison of bad granules. Re-homing a region that one
context maps drops its clean lines and gives it the group's slices; while a dirty line of it is written back,
requests for it are refused. No byte of memory changes but those that an entry stores. (R203, R276, R87, R89, R90,
R91, R92, R105, R137, R79.) The model's choice or reading, no rule's: when an access performs is an input
(notes/assumptions/6.md); which line or TLB entry a full set gives up (notes/assumptions/12.md); when an
exchange-buffer entry may perform (notes/assumptions/31.md). -/
def Obligations.SlicesServeRequests : Prop :=
  (∀ (st : State) (sq c : Nat) (hint : BitVec 12) (e : XEntry) (l : Launch), st.entryHead sq c = some e →
    st.launch? e.launch = some l → st.entryMay e = true → l.scr = 0 → st.errors = [] →
    let who : Who := { core := e.core, unit := 0, ctx := l.ctx, privileged := e.privileged, leases := l.leases }
    let i := Instr.exchangeEntryPerform sq { no := c, hint := hint }
    let ends (t : State) : Prop := (t.square sq).xbuf = (st.square sq).xbuf.filter (fun x => x.core != e.core || x.id != e.id) ∧
      t.cur = st.cur ∧ t.launch? e.launch = some (l.pendSub e.task e.size) ∧ ∀ y, (t.core y).ls = (st.core y).ls
    (∀ space data pois ps, e.kind = .store space data pois → st.checkSpace who space .store e.cache e.va e.size 0 = .ok ps →
      (∀ p ∈ ps, st.refuses e.core e.id p.pa = false ∧ p.idx + p.size ≤ data.length) → (partAddrs ps).Nodup →
      ∃ t, exec i st = .next t ∧ ends t ∧ (∀ p ∈ ps, ∀ j < p.size, t.rd (p.pa + j) = data.getD (p.idx + j) 0 ∧
        (pois = true → t.rdPois (p.pa + j) = true)) ∧ ∀ y, y ∉ partAddrs ps → t.rd y = st.rd y) ∧
    (∀ op w b d pois p, e.kind = .atomic op w b d pois → st.checkSpace who 2 .atomic e.cache e.va e.size 0 = .ok [p] →
      st.refuses e.core e.id p.pa = false → (st.square (squareOf e.core)).revocable = false → (w = 4 ∨ w = 8) →
      op ≠ .fadd → let m := bytesNat ((st.rdBytes p.pa w).map (·.1))
      ∃ t, exec i st = .next t ∧ ends t ∧
        (∀ y, t.rd y = if p.pa ≤ y ∧ y < p.pa + w then BitVec.ofNat 8
          (op.eval (8 * w) m (b.toNat % 2 ^ (8 * w)) (d.toNat % 2 ^ (8 * w)) / 256 ^ (y - p.pa)) else st.rd y)) ∧
    (∀ space data pois f, e.kind = .store space data pois → st.checkSpace who space .store e.cache e.va e.size 0 = .fault f →
      (l.task e.task).ended = false → (st.core e.core).task = some (e.launch, e.task) →
      let xbuf := (st.square sq).xbuf.filter (fun x => !(x.launch == e.launch && x.task == e.task))
      ((st.core e.core).stopped = none → (∀ n, (l.task e.task).phase ≠ .wait n) → ∃ t, exec i st = .next t ∧
        (t.square sq).xbuf = xbuf ∧ t.mem = st.mem ∧ (t.core e.core).stopReq = (st.core e.core).stopReq ++
          [.deferred (BitVec.ofNat 8 f.code) f.walk e.pc f.faddr (BitVec.ofNat 64 e.start)]) ∧
      (((st.core e.core).stopped ≠ none ∨ ∃ n, (l.task e.task).phase = .wait n) → ∃ t, exec i st = .next t ∧
        (t.core e.core).task = none ∧ ∃ l', t.launch? e.launch = some l' ∧ (l'.task e.task).ended = true ∧
          (l'.task e.task).cause = BitVec.ofNat 8 f.code))) ∧
  (∀ (st : State) (c acc : Nat) (hint : BitVec 12) (a : Access) (p : Part), st.access? c acc = some a →
    (∀ id u l, st.launchOf c = some (id, u, l) → l.scr = 0) → memoryOf a.space = 2 → st.mayPerform c a = true →
    a.pending = some p → 0 < p.size → st.joins a p = false → st.errors = [] → a.kind ≠ .rel →
    let n := p.pa / 1024
    let held := (st.modCore c (fun k => k.setAccess (a.setPart { p with refusals := p.refusals + 1 }))).reservedAt (st.homeOf n)
    let refused (i : Instr) : Prop := ∃ t, exec i st = .next t ∧ t.mem = st.mem ∧
      t.core c = (st.core c).setAccess (a.setPart { p with refusals := p.refusals + 1 }) ∧
      (∀ y, y ≠ c → t.core y = st.core y) ∧
      (t.slice (st.homeOf n)).reservations = if 3 ≤ p.refusals ∧ (n, c, a.id) ∉ held ∧ held.length < 32 then held ++ [(n, c, a.id)]
        else (st.slice (st.homeOf n)).reservations
    (st.refuses c acc p.pa = true → refused (.homeSliceRequest c acc hint) ∧ refused (.refusalRetry c { no := acc, hint := hint })) ∧
    (st.refuses c acc p.pa = false →
      let bit := p.pa / 128 % 8
      let fills := (st.line n).valid.getLsbD bit = false ∧ (a.kind ≠ .store ∨ p.size < 128) ∧ p.ca ≠ 3 ∧
        (Map.has st.lines n = true ∨ (st.victim n).1 ≠ 16) ∧ hint ≠ 0
      (fills → ∃ t, exec (.homeSliceRequest c acc hint) st = .next t ∧ (t.line n).filling.getLsbD bit = true ∧
        t.mem = st.mem ∧ t.cores = st.cores) ∧
      (¬fills → exec (.homeSliceRequest c acc hint) st = .next ((st.tryAccess c a).freeGrant (sliceReserve (st.homeOf n)))) ∧
      (a.sent = false → exec (.refusalRetry c { no := acc, hint := hint }) st = .next (st.tryAccess c a)))) ∧
  (∀ (st : State) (c acc : Nat) (a : Access) (data : List Byte) (r : Nat) (p : Part) (m : Nat), st.access? c acc = some a →
    a.sent = true → a.kind = .load → a.parts = [p] → p.isDone = false → a.dest = .reg r → r < 32 → r ≠ 0 →
    a.slot = some m → Map.find? (st.core c).pend r = some m → let k := st.core c
    (∀ e ∈ k.early, e.acc.id ≠ a.id) →
    let came : Option (List Byte × Bool × List Delivered) := takeAnswers (a.requests.flatMap Outgoing.pieces) st.delivered
    (a.requests.all (fun o => o.dev == 2 ^ 18) = false → came = none → exec (.accessResponse c acc data) st = .next st) ∧
    ((a.requests.all (fun o => o.dev == 2 ^ 18) = true ∨ ∃ ds, came = some (data, false, ds)) →
    let now := ((data.take p.ask.2).drop (p.pa - p.ask.1)).take p.size
    ∃ t, exec (.accessResponse c acc data) st = .next t ∧ t.mem = st.mem ∧ (t.core c).ls = k.ls ∧
      (t.core c).inflight = dropRel (k.inflight.filter (fun b => b.id != acc)) ∧ Map.find? (t.core c).loads m = none ∧
      (∀ q, (t.core c).x q = if q = BitVec.ofNat 5 r then BitVec.ofNat 64 (bytesNat now) else k.x q) ∧
      (t.core c).sideOf (BitVec.ofNat 5 r) = false ∧ (t.core c).arch.pc = k.arch.pc)) ∧
  (∀ (st : State) (n : Nat) (bad : BitVec 32), let l := st.line n
    ((st.slice (st.homeOf n)).reservations.filter (fun r => r.1 == n)) = [] →
    (∀ e ∈ st.cores, ∀ a ∈ e.2.inflight, memoryOf a.space = 2 → ∀ p ∈ a.parts, p.isDone = true ∨ p.pa / 1024 ≠ n) →
    Map.find? st.moving (n / 2048) = none → st.inbound = [] → l.mcast = false →
    let frees (i : Instr) (l' : Line) (bads : Nat → Bool) : Prop := ∃ t, exec i st = .next t ∧ t.mem = st.mem ∧ t.cores = st.cores ∧
      t.line n = l' ∧ (∀ j, j ≠ n → t.line j = st.line j) ∧
      ∀ y, t.rdPois y = (st.rdPois y || (decide (y / 1024 = n) && bads (y / 32 % 32)))
    (l.filling ≠ 0 → l.way ≠ 16 → frees (.sliceFillDone n { bad := bad, mended := [] }) { l with valid := l.valid ||| l.filling, filling := 0 }
      (fun g => bad.getLsbD g && l.filling.getLsbD (g / 4))) ∧
    (l.writing ≠ 0 → frees (.writeBackDone { line := n, link := { bad := bad, mended := [] } }) (if l.way = 16 then Line.reset else { l with writing := 0 })
      (fun g => bad.getLsbD g && l.writing.getLsbD (g / 4) && !l.valid.getLsbD (g / 4)))) ∧
  (∀ (st : State) (region g : Nat) (group : List Nat), g < 12 → group.length = 2 ^ g → (∀ q ∈ group, q < Config.squares) →
    (∀ u ∈ st.undo, ∀ sl sq pa w op b d old, u = .atomic sl sq pa w op b d old → pa / 1024 / 2048 ≠ region) →
    ((List.range Config.contexts).filter (st.ctxMaps region)).length = 1 → st.inbound = [] →
    (∀ sl, ∀ r ∈ (st.slice sl).reservations, r.1 / 2048 ≠ region) → Map.find? st.moving region = none →
    (∀ e ∈ st.lines, e.1 / 2048 = region → e.2.busy = false ∧ e.2.way ≠ 16) → Map.sortedFrom 0 st.lines = true →
    ∃ t, exec (.rehome region group) st = .next t ∧ t.mem = st.mem ∧ t.cores = st.cores ∧
      (∀ n, n / 2048 ≠ region → t.line n = st.line n ∧ t.homeOf n = st.homeOf n) ∧
      ((∀ e ∈ st.lines, e.1 / 2048 = region → e.2.dirty = 0) →
        ∀ n, n / 2048 = region → t.line n = Line.reset ∧ t.homeOf n ∈ group) ∧
      ((∃ e ∈ st.lines, e.1 / 2048 = region ∧ e.2.dirty ≠ 0) →
        ∀ c id pa, pa / 1024 / 2048 = region → t.refuses c id pa = true ∧ t.homeOf (pa / 1024) = st.homeOf (pa / 1024)))

/-- Rejections, accesses from other devices and the host, translations and their invalidation. A rejected access ends
with a poisoned value or no effect, counted and posted in the context that issued it. The oldest delivered request
of a device whose key an export holds, within the export, its context's leases and its permissions, stores its bytes
or is answered with those at the translated address; one to a physical address is served for a device that this one
admits; any other is rejected. The host's access, of at most 512 bytes written or 4,096 read, reaches device memory
at HAPB's base; it waits during a checkpoint, and one past the memory has no effect. A TLB takes a leaf it does not
hold, in its oldest entry's place when it is full. A unit that receives an invalidation drops every overlapping
entry of its ASID and acknowledges once what it resolved has performed; a revocation is acknowledged when received.
(R30, R31, R42, R45, R46, R260, R461, R263, R254.) The model's choice or reading, no rule's: a value that the spec
leaves open is free (notes/assumptions/3.md); which line or TLB entry a full set gives up (notes/assumptions/12.md);
the numbers of registers for which the spec gives no offset (notes/assumptions/24.md); requests and answers beyond
the device as payloads and events (notes/assumptions/33.md); which units take part in an invalidation and when they
acknowledge (notes/assumptions/34.md); what fills the export table (notes/assumptions/56.md). -/
def Obligations.OutsideAccessesAndTranslations : Prop :=
  (∀ (st : State) (c acc : Nat) (a : Access) (p : Part) (r m : Nat), st.access? c acc = some a → a.sent = true →
    a.parts = [p] → p.isDone = false → a.kind = .load → a.dest = .reg r → r < 32 → r ≠ 0 → a.slot = some m →
    Map.find? (st.core c).pend r = some m → (∀ e ∈ (st.core c).early, e.acc.id ≠ a.id) →
    ((a.space ≠ 3 ∧ a.requests.all (fun o => o.dev == 2 ^ 18) = true) ∨
      ∃ bs ds, takeAnswers (a.requests.flatMap Outgoing.pieces) st.delivered = some (bs, true, ds)) →
    ∃ t, exec (.remoteRejection c acc) st = .next t ∧ t.mem = st.mem ∧ (t.core c).ls = (st.core c).ls ∧
      (t.core c).inflight = dropRel ((st.core c).inflight.filter (fun b => b.id != acc)) ∧
      (t.core c).sideOf (BitVec.ofNat 5 r) = true ∧
      (∀ q, q ≠ BitVec.ofNat 5 r → (t.core c).x q = (st.core c).x q) ∧
      (t.context a.ctx).remoteErrors = (st.context a.ctx).remoteErrors + 1 ∧
      (2 ^ (st.heqctl.extractLsb' 20 4).toNat > (((st.heqctl.extractLsb' 48 16).toNat + 65536 -
          (st.heqctl.extractLsb' 32 16).toNat) % 65536) →
        t.hostEvents = st.hostEvents ++ [{ code := 0x09, ctx := BitVec.ofNat 6 a.ctx, arg := BitVec.ofNat 64 p.va,
                                           clock := st.clock }])) ∧
  (∀ (st : State) (dev : Nat) (q : Payload), let i := Instr.remoteAccess dev q.key q.ofs q.kind q.size q.data
    (∀ e, List.find? (fun (e : Delivered) => e.dev == dev && e.what.kind != .answer && e.what.kind != .reject) st.delivered = some e →
      e.what ≠ q) → exec i st = .next st) ∧
  (∀ (st : State) (dev : Nat) (e : Delivered),
    List.find? (fun (e : Delivered) => e.dev == dev && e.what.kind != .answer && e.what.kind != .reject) st.delivered = some e →
    st.inbound = [] → st.checkpointing = false → dev < 2 ^ 18 → st.errors = [] →
    let q := e.what
    let i := Instr.remoteAccess dev q.key q.ofs q.kind q.size q.data
    let writes : Bool := match q.kind with | .load => false | _ => true
    let after (p : State → Prop) : Prop := ∃ t, exec i st = .next t ∧ t.cores = st.cores ∧ t.delivered = st.delivered.erase e ∧
      t.inbound = [] ∧ p t
    let rejected : Prop := after (fun t => t.mem = st.mem ∧ t.outbox = st.outbox ++
      [{ dev := dev, what := { kind := .reject, key := q.key, ofs := q.ofs, size := 0, data := [] } }])
    let answer (data : List Byte) : Outgoing :=
      { dev := dev, what := { kind := .answer, key := 0, ofs := q.ofs, size := data.length, data := data } }
    let phys : Bool := q.kind == .physLoad || q.kind == .physStore
    (phys = true → (dev ∉ st.admitted ∨ Config.memTop < q.ofs + q.size) → rejected) ∧
    (phys = true → dev ∈ st.admitted → q.ofs + q.size ≤ Config.memTop → q.size ≤ 4096 →
      (∀ y, q.ofs ≤ y → y < q.ofs + q.size → st.refuses Config.cores st.inboundNo y = false) →
      (q.kind = .physStore → q.data.length = q.size → after (fun t => t.outbox = st.outbox ++ [answer []] ∧
        ∀ y, t.rd y = if q.ofs ≤ y ∧ y < q.ofs + q.size then q.data.getD (y - q.ofs) 0 else st.rd y)) ∧
      (q.kind = .physLoad → after (fun t => t.mem = st.mem ∧
        t.outbox = st.outbox ++ [answer ((List.range q.size).map (fun j => st.rd (q.ofs + j)))]))) ∧
    (phys = false → (∀ x ∈ st.exports, x.2.key ≠ q.key) → rejected) ∧
    (∀ n x, phys = false → List.find? (fun (x : Nat × Export) => x.2.key == q.key) st.exports = some (n, x) → let ls := st.ctxLeases x.ctx
      let revs := st.revokedFor walkerUnit x.ctx
      ((x.len < q.ofs + q.size ∨ (writes = true ∧ x.writes = false) ∨ leasesHold ls revs .load x.base x.len = false) → rejected) ∧
      (q.ofs + q.size ≤ x.len → (writes = true → x.writes = true) → leasesHold ls revs .load x.base x.len = true →
        let w : Who := { core := walkerUnit, unit := 4, ctx := x.ctx, privileged := false, leases := ls }
        let chk := st.check2 w (match q.kind with | .load => .load | .atomic .. => .atomic | _ => .store) 0 (x.base + q.ofs) q.size 0
        (∀ f, chk = .fault f → rejected) ∧ (chk = .hold → exec i st = .next (st.keepHeld w (pagesOf (x.base + q.ofs) q.size))) ∧
        (∀ ps, chk = .ok ps → (∀ p ∈ ps, st.refuses Config.cores st.inboundNo p.pa = false) → (partAddrs ps).Nodup →
          (q.kind = .store → (∀ p ∈ ps, p.idx + p.size ≤ q.data.length) → after (fun t => t.outbox = st.outbox ++ [answer []] ∧
            (∀ p ∈ ps, ∀ j < p.size, t.rd (p.pa + j) = q.data.getD (p.idx + j) 0) ∧ ∀ y, y ∉ partAddrs ps → t.rd y = st.rd y)) ∧
          (q.kind = .load → (partAddrs ps).length ≤ 4096 → after (fun t => t.mem = st.mem ∧
            t.outbox = st.outbox ++ [answer ((partAddrs ps).map st.rd)])))))) ∧
  (∀ (st : State) (ofs size : Nat) (store : Bool) (data : List Byte), let pa := st.hapb.toNat / 2 ^ 36 * 2 ^ 36 + ofs
    let i := Instr.hostAccess { bar := 2, ofs := ofs } store size data
    ((st.bootFailed = true ∨ 2 ^ 36 < ofs + size ∨ Config.memTop < pa + size ∨ (if store = true then 512 else 4096) < size) →
      exec i st = .next st) ∧
    (st.bootFailed = false → size ≤ (if store = true then 512 else 4096) → st.errors = [] → ofs + size ≤ 2 ^ 36 → pa + size ≤ Config.memTop → st.inbound = [] →
      (st.checkpointing = true → ∃ t, exec i st = .next t ∧ t = { st with inbound := t.inbound, inboundNo := st.inboundNo + 1 } ∧
        t.inbound.length = 1) ∧
      (st.checkpointing = false → (∀ y, pa ≤ y → y < pa + size → st.refuses Config.cores st.inboundNo y = false) →
        (store = true → data.length = size → ∃ t, exec i st = .next t ∧ t.cores = st.cores ∧ t.outbox = st.outbox ∧
          ∀ y, t.rd y = if pa ≤ y ∧ y < pa + size then data.getD (y - pa) 0 else st.rd y) ∧
        (store = false → ∃ t, exec i st = .next t ∧ t.cores = st.cores ∧ t.mem = st.mem ∧
          t.outbox = st.outbox ++ ({ dev := 2 ^ 18, what := (⟨.answer, 0, pa, size, (List.range size).map (fun j => st.rd (pa + j))⟩ : Payload) } : Outgoing).pieces)))) ∧
  (∀ (st : State) (kind own ctx p n : Nat) (va : Dword), st.asid ctx ≠ 0 → canonical va.toNat = true → kind < 4 →
    st.walk ctx va.toNat = .leaf p n →
    let es := if kind = 3 then (st.square own).tlb else (st.core own).tlb
    let new : TlbEntry := { unit := kind, asid := st.asid ctx, va := va.toNat / n * n, size := n, leaf := BitVec.ofNat 64 p }
    let mine := es.filter (fun e => e.unit == kind)
    let size := if kind = 0 then 32 else if kind = 1 then 16 else if kind = 2 then 8 else 2048
    let kept := if size ≤ mine.length then (match mine.head? with | some e => es.erase e | none => es) else es
    let es' := if (tlbFind es kind (st.asid ctx) va.toNat).isSome = true then es else kept ++ [new]
    exec (.tlbFill kind own ctx va) st = .next (if kind = 3 then st.setSquare own { st.square own with tlb := es' }
      else st.setCore own { st.core own with tlb := es' })) ∧
  (∀ (st : State) (id unit : Nat) (v : Inval), Map.find? st.invals id = some v →
    (v.revoke = false → unit ∈ v.toReach → ∃ t, exec (.invalidationRequest id unit) st = .next t ∧ t.mem = st.mem ∧
      Map.find? t.invals id = some { v with toReach := v.toReach.erase unit, toAck := v.toAck ++ [unit] } ∧
      let drops (es es' : List TlbEntry) : Prop := es' = es.filter (fun e =>
        decide (e.asid ≠ v.asid) || decide (v.base + v.len ≤ e.va) || decide (e.va + e.size ≤ v.base))
      (unit < 8192 → drops (st.core unit).tlb (t.core unit).tlb ∧ ((∀ x ∈ (st.core unit).cmds, ∀ e ∈ x.via, pteM e.2.2 = false) →
        t.core unit = { st.core unit with tlb := (t.core unit).tlb })) ∧
      (8192 ≤ unit → unit < 10240 → drops (st.square (unit - 8192)).tlb (t.square (unit - 8192)).tlb) ∧
      (10240 ≤ unit → drops st.heldLeaves t.heldLeaves)) ∧
    (unit ∈ v.toAck → let cores := if unit < 8192 then [unit] else if unit < 10240 then
        (List.range 4).map (fun i => 4 * (unit - 8192) + i) else []
      let done : Prop := ∀ c ∈ cores, st.drained c v.asid v.base v.len = true
      (¬done → exec (.invalidationAck id unit) st = .next st) ∧
      (done → ∃ t, exec (.invalidationAck id unit) st = .next t ∧
        t.mem = st.mem ∧ t.cores = st.cores ∧
        Map.find? t.invals id = if v.core = Config.cores ∧ v.toReach = [] ∧ v.toAck.erase unit = [] then none
          else some { v with toAck := v.toAck.erase unit })) ∧
    (v.revoke = true → unit ∈ v.toReach → ∃ t, exec (.revocationRequest id unit) st = .next t ∧ t.mem = st.mem ∧
      t.cores = st.cores ∧ Map.find? t.invals id = if v.core = Config.cores ∧ v.toReach.erase unit = [] ∧ v.toAck = [] then none
        else some { v with toReach := v.toReach.erase unit }))

/-- Messages are routed and delivered, reductions combine and flush, exchange slots transmit. A router moves a message,
and every copy of a multicast, one hop along its class's order, the shorter way round, towards its destination or
the waypoint of a fault entry that its route meets, on virtual channel 1 once it crosses a dateline. An arrived
channel message is written into the receiver's next ring slot, a multicast copy or an exchange message at its
offset; its bytes leave the counters, and its command ends once all it sends has ended; a duplicate is discarded and
its slot returned. A slot return raises the sender's count. A combine point with every input sends one partial, the
root ends the reduction; a time-out at the root flushes, and a flushed point sends what it holds; a square where
nothing combines passes the flush on. From a slot's start plus GUARD to its end a square transmits the messages held
for it; out of its guard at the slot's start, or with a hash of a message not compared, it misses the slot, and its
clock is resynchronised. No other byte of a local store or of memory changes. (R204, R209, R235, R236, R240, R242,
R243, R244, R247, R248, R233, R93.) The model's choice or reading, no rule's: a value that the spec leaves open is
free (notes/assumptions/3.md); a time-out is an event that may come at any time (notes/assumptions/7.md); which
traffic is held as packets (notes/assumptions/32.md); how a doubled task's copies run and what their hashes cover
(notes/assumptions/36.md). -/
def Obligations.MessagesReductionsAndExchange : Prop :=
  (∀ (o here dst d : Nat) (pre post : List Nat), dimOrder o = pre ++ d :: post →
    (∀ e ∈ pre, coord here e = coord dst e) → coord here d ≠ coord dst d →
    let size := if d = 2 then 8 else 16
    let up := (coord dst d + size - coord here d) % size
    coord (nextHop o here dst) d = (coord here d + if 2 * up ≤ size then 1 else size - 1) % size ∧
    ∀ e < 3, e ≠ d → coord (nextHop o here dst) e = coord here e) ∧
  (∀ (st : State) (id : Nat) (m : Msg), Map.find? st.msgs id = some m →
    let order := st.orderOf m.ctx m.cls
    let hits (e : Nat × Dword) : Bool := (routeFrom order m.dst 20 m.here).any (faultHits e.2 m.cls)
    let faults := (st.square m.here).faults
    let crosses (a b : Nat) : Bool := (List.range 3).any (fun d => decide (1 < max (coord a d) (coord b d) - min (coord a d) (coord b d)))
    ((∀ q ∈ st.reserves, 64 ≤ q % 128) →
      ((∀ j cs ofs data pois sc si, m.body ≠ .mcast j cs ofs data pois sc si) → m.here ≠ m.dst →
        ∀ (goal : Nat) (wp : Option Nat),
        ((m.waypoint = none ∧ (∀ e ∈ faults, hits e = false) ∧ goal = m.dst ∧ wp = none) ∨
          (∃ w, m.waypoint = some w ∧ 2048 ≤ w ∧ goal = m.dst ∧ wp = some w) ∨
          (∃ w, (m.waypoint = some w ∨ (m.waypoint = none ∧ ∃ e, List.find? hits faults = some e ∧ w = faultWaypoint e.2)) ∧
            w < 2048 ∧ goal = w ∧ wp = if nextHop order m.here w = w then some 2048 else some w)) →
        let next := nextHop order m.here goal
        exec (.routerForward id) st = .next { st with
          msgs := Map.put st.msgs id { m with here := next, waypoint := wp, vc := if crosses m.here next then 1 else m.vc } }) ∧
      (∀ j cs ofs data pois sc si l, m.body = .mcast j cs ofs data pois sc si → st.launch? j = some l →
        let dst (x : Copy) : Nat := squareOf (l.pcore x.task)
        let next (x : Copy) : Nat := nextHop (st.orderOf m.ctx 2) x.here (dst x)
        (∃ x ∈ cs, x.here ≠ dst x) → (∀ x ∈ cs, x.waypoint = none ∧ (st.square x.here).faults = []) →
        exec (.routerForward id) st = .next { st with
          msgs := Map.put st.msgs id { m with body := .mcast j (cs.map (fun x => if x.here = dst x then x
            else { x with here := next x, vc := if crosses x.here (next x) then 1 else x.vc })) ofs data pois sc si } })) ∧
    (∀ l u, st.launch? m.body.target.1 = some l → (l.task u).bound = true →
      let c := l.pcore u
      let k := st.core c
      let got (i : Instr) (a : Nat) (data : List Byte) (p : State → Prop) : Prop := ∃ t, exec i st = .next t ∧ t.cur = st.cur ∧
        t.mem = st.mem ∧ (∀ y, (t.core c).lsRd y = if a ≤ y ∧ y < a + data.length then data.getD (y - a) 0 else k.lsRd y) ∧
        (∀ j, j ≠ c → (t.core j).ls = (st.core j).ls) ∧ (t.core c).seen m = true ∧
        t.launch? m.launch = (st.launch? m.launch).map (fun l => l.pendSub m.task data.length) ∧ p t
      let gone (t : State) : Prop := ∀ j, Map.find? t.msgs j = if j = id then none else Map.find? st.msgs j
      let ends (t : State) (sc si : Nat) : Prop := gone t ∧ (t.core sc).cmds =
        if ({ st with msgs := Map.erase st.msgs id } : State).messagesOf sc si = true ∨
            (∃ y, List.find? (fun y => y.id == si) (st.core sc).cmds = some y ∧ y.allSent = false)
        then (st.core sc).cmds else (st.core sc).cmds.filter (fun y => y.id != si)
      (∀ j ch data pois, m.body = .chan j u ch data pois → st.arrived id m = true →
        (∀ i v x, st.launchOf c = some (i, v, x) → x.scr = 0) →
        let e := st.chEntry l c u ch
        let r := k.chan ch
        (k.seen m = false → k.takes (e.base + (r.count + r.waiting) % e.slots * e.size) data.length = true →
          got (.messageDelivery id) (e.base + (r.count + r.waiting) % e.slots * e.size) data (fun t => gone t ∧
            (∀ n, (t.core c).chan n = if n = ch then { r with waiting := r.waiting + 1 } else k.chan n))) ∧
        (k.seen m = true → ∃ t, exec (.messageDelivery id) st = .next t ∧ t.mem = st.mem ∧ t.cores = st.cores ∧
          Map.find? t.msgs st.msgId = some { m with cls := 4, src := m.dst, here := m.dst, dst := m.src, waypoint := none, vc := 0,
                                                    task := u, body := .slotReturn m.launch m.task e.pch })) ∧
      (∀ j x rest ofs data pois sc si, m.body = .mcast j (x :: rest) ofs data pois sc si → x.task = u → x.here = squareOf c →
        st.inTurn id m u = true → k.seen m = false → k.checkLocal ofs data.length = .ok () →
        (rest = [] → got (.messageDelivery id) ofs data (fun t => ends t sc si)) ∧
        (rest ≠ [] → (∀ y ∈ rest, y.here ≠ squareOf (l.pcore y.task)) → got (.messageDelivery id) ofs data (fun t =>
          Map.find? t.msgs id = some { m with body := .mcast j rest ofs data pois sc si }))) ∧
      (∀ j cls ofs data pois sc si, m.body = .xslot j u cls ofs data pois sc si → st.arrived id m = true → k.seen m = false →
        k.checkLocal ofs data.length = .ok () → got (.messageDelivery id) ofs data (fun t => ends t sc si ∧
          ∀ n, Map.get 0 (t.core c).xbytes n = Map.get 0 k.xbytes n + if n = cls then data.length else 0)) ∧
      (∀ j ch, m.body = .slotReturn j u ch → st.arrived id m = true → ∃ t, exec (.slotReturn id) st = .next t ∧ gone t ∧
        t.mem = st.mem ∧ t.core c = k.setChan ch { k.chan ch with count := (k.chan ch).count + 1 } ∧
        ∀ j, j ≠ c → t.core j = st.core j))) ∧
  (∀ (rop i : Nat) (p q : Partial) (x y : BitVec 32), p.vals[i]? = some x → q.vals[i]? = some y → p.pois[i]? = some false →
    q.pois[i]? = some false → let f := Fmt.f32
    (Partial.combine rop p q).pois[i]? = some false ∧ (Partial.combine rop p q).vals[i]? = some
      (if rop = 0 then BitVec.ofNat 32 (f.round .rne (FVal.add .rne (f.val x.toNat) (f.val y.toNat))).bits
       else if rop = 1 then BitVec.ofNat 32 (f.minMax true x.toNat y.toNat).bits
       else if rop = 2 then BitVec.ofNat 32 (f.minMax false x.toNat y.toNat).bits else x + y)) ∧
  (∀ (st : State) (id node : Nat) (r : Red) (l : Launch) (tr : Tree) (ms : List Nat) (root : Nat),
    Map.find? st.reds id = some r → st.redTree r = some (l, tr, ms, root) → r.isOver = false →
    let squares := l.treeSquares tr ms root
    let p := r.holds l tr ms root node
    let only (i : Instr) (r' : Red) : Prop := ∃ t, exec i st = .next t ∧ t.mem = st.mem ∧ t.cores = st.cores ∧
      ∀ j, Map.find? t.reds j = if j = id then some r' else Map.find? st.reds j
    (Map.has r.sent node = false → node ∉ r.flushed → r.mixed = false → node ∈ squares → r.ready l tr ms root node = true →
      only (.reductionCombine id node) { r with sent := Map.put r.sent node p, isOver := decide (node = root) }) ∧
    (r.flushing = true → node ∈ squares → node ≠ root → node ∉ r.flushed →
      (nextHop tr.ord node root = root ∨ nextHop tr.ord node root ∈ r.flushed) →
      only (.flushArrive id node) { r with
        flushed := r.flushed ++ [node], sent := if Map.has r.sent node = true ∨ isCombine l tr ms root node = false then r.sent else Map.put r.sent node p }) ∧
    (r.flushing = true → root ∈ squares → (∀ n ∈ treeInputs tr.ord squares root root, Map.has r.sent n = true) →
      only (.flushArrive id root) { r with sent := Map.put r.sent root (r.holds l tr ms root root), isOver := true })) ∧
  (∀ (st : State) (c n o id u : Nat) (l : Launch), (st.core c).redWait = some (n, o) → st.launchOf c = some (id, u, l) →
    let tr := st.tree l c n
    l.rootOf tr u = some u →
    (∀ i r, st.redFind id n (l.instOf tr.lvl u) o = some (i, r) → r.isOver = false →
      exec (.redwaitTimeout c) st = .next { st with reds := Map.put st.reds i { r with flushing := true, timedOut := true } }) ∧
    (st.redFind id n (l.instOf tr.lvl u) o = none → ∃ t, exec (.redwaitTimeout c) st = .next t ∧ t.cores = st.cores ∧
      t.mem = st.mem ∧ Map.find? t.reds st.redId = some
        { launch := id, tree := n, inst := l.instOf tr.lvl u, ordinal := o, given := [], sent := [], flushed := [],
          flushing := true, timedOut := true, isOver := false })) ∧
  (∀ (st : State) (sq c id u guard slots frame i start stop : Nat) (l : Launch),
    List.find? (fun c => (st.core c).task.isSome) ((List.range 4).map (4 * sq + ·)) = some c → st.launchOf c = some (id, u, l) →
    l.scr = 0 → l.sxc = true → st.schedule l c = (true, guard, slots, frame) →
    slotAt frame slots (st.clockOf sq).toNat = some (i, start, stop) →
    let q := st.square sq
    let now := (st.clockOf sq).toNat
    let base := now / frame * frame
    let due := q.slotMsgs.filter (st.slotDue i)
    let judged : Bool := q.slotEnd == base + stop
    ¬(base + stop < q.slotEnd ∧ q.slotEnd ≤ base + stop + frame) →
    ((∀ m ∈ due, m.hashes = none) → ((judged = false ∧ q.offset.natAbs ≤ guard) ∨ (judged = true ∧ q.slotOut = false)) →
      (base + start + guard ≤ now → ∃ t, exec (.slotStart sq) st = .next t ∧ t.mem = st.mem ∧ t.cores = st.cores ∧
        t.msgId = st.msgId + due.length ∧ (t.square sq).slotMsgs = q.slotMsgs.filter (fun m => !due.contains m) ∧
        ∀ j m x, due[j]? = some m → st.launch? m.launch = some x → Map.find? t.msgs (st.msgId + j) = some
          { cls := 5, launch := m.launch, task := m.task, superstep := m.step, number := m.number, ctx := x.ctx,
            src := sq, here := sq, dst := squareOf (x.pcore m.peer), waypoint := none, vc := 0,
            body := .xslot m.launch m.peer m.cls m.ofs m.data m.pois m.core m.cmd }) ∧
      (now < base + start + guard → ∃ t, exec (.slotStart sq) st = .next t ∧ t.msgs = st.msgs ∧ t.cores = st.cores ∧
        (t.square sq).slotMsgs = q.slotMsgs)) ∧
    (judged = false → (guard < q.offset.natAbs ∨ ∃ m ∈ due, m.hashes ≠ none) → ∃ t, exec (.slotStart sq) st = .next t ∧ t.mem = st.mem ∧ t.msgs = st.msgs ∧
      (t.square sq).offset = 0 ∧ (t.square sq).clockAdj = q.clockAdj - q.offset ∧ (t.square sq).slotOut = true ∧
      (t.square sq).slotMsgs.length = q.slotMsgs.length ∧
      ∀ (j : Nat) (m : SlotMsg), q.slotMsgs[j]? = some m → m ∈ due → let second : Prop := 1 ≤ m.missed ∧ (st.core m.core).task = some (m.launch, m.task)
        (t.core m.core).xstat = BitVec.ofNat 64 (1 + 2 ^ 32 * min ((st.core m.core).xstat.toNat / 2 ^ 32 + 1) (2 ^ 32 - 1)) ∧
        (second → StopReq.slotMiss i ∈ (t.core m.core).stopReq) ∧ ∃ m' : SlotMsg, (t.square sq).slotMsgs[j]? = some m' ∧
          m' = { m with missed := m'.missed } ∧ (m.missed = 0 → m'.missed = 1) ∧ (second → m'.missed = m.missed + 1)))

/-- Clocks, tempo, the thermal ceiling, the lane-group arbiter, probes and failed links. CLOCK_DISCIPLINE sets a
square's clock to the base die's time, PTP_SYNC the time of a device that is not the grandmaster from a device to
which a lit circuit leads. A nanosecond sends the Sync messages due on every lit circuit and raises every column's
LEVEL by its rate under the thermal ceiling, up to 4,096 tokens, and ages the records at the queues' heads and the
saved launches by 1.2 cycles. A thermal sample sets the ceiling and lowers columns that are not frozen by 10 mV,
down to 0.44 V; outside the limits the ceiling is 0 and THERMAL is posted. The arbiter binds a core's head that its
deficit affords to the lowest aligned set of free groups, and otherwise raises the deficits by 64 times the weight.
A blocked queue sends a probe; one that returns to its origin grants the reserve entry unless it is in use; one that
has made 64 hops, comes to a queue twice or meets one that is not blocked ends; others go on. A deadlock stops its
contexts. A withheld square holds no valid vector; a failed link writes its fault entries. (R245, R262, R229, R218,
R268, R222, R227, R228, R156, R236, R10.) The model's choice or reading, no rule's: a value that the spec leaves
open is free (notes/assumptions/3.md); a time-out is an event that may come at any time (notes/assumptions/7.md);
which traffic is held as packets (notes/assumptions/32.md); the micro-operation queue beside the result
(notes/assumptions/42.md); which withheld vectors post an event, and what a withholding waits for
(notes/assumptions/49.md); when a supply is lowered (notes/assumptions/59.md). -/
def Obligations.ClocksTempoArbiterAndProbes : Prop :=
  (∀ (st : State) (sq : Nat) (time : Dword) (off : Int), ∃ t, exec (.clockDiscipline sq time off) st = .next t ∧
    t.clockOf sq = time ∧ (t.square sq).offset = off ∧ (∀ q, q ≠ sq → t.square q = st.square q) ∧ t.mem = st.mem ∧
    t.cores = st.cores ∧ t.clock = st.clock) ∧
  (∀ (st : State) (src : Nat) (time : Dword) (off : Int),
    let takes : Prop := st.grandmaster ≠ Config.deviceNo ∧ ∃ p < 32, (st.port p).lit = true ∧ (st.port p).circuit = some src
    (takes → exec (.ptpSync src { time := time, offset := off }) st =
      .next { st with clock := time, offset := off, timeSource := some src }) ∧
    (¬takes → exec (.ptpSync src { time := time, offset := off }) st = .next st)) ∧
  (∀ st : State, ∃ t, exec .tempoAccrue st = .next t ∧ t.clock = st.clock + 1 ∧ t.mem = st.mem ∧ t.cores = st.cores ∧
    (∀ c, t.column c = { st.column c with
      milli := min 4096000 ((st.column c).milli + min (st.column c).rate st.ceiling) }) ∧
    (∀ i < 16, (t.head i).age = (st.head i).age + if (st.lqueue i).head = (st.lqueue i).tail then 0 else 12) ∧
    (∀ id, t.launch? id = (st.launch? id).map (fun l => { l with age := if l.saved then l.age + 12 else l.age })) ∧
    (∀ p at', (p, at') ∈ t.sentSyncs ↔ (p, at') ∈ st.sentSyncs ∨ (p < 32 ∧ (st.port p).lit = true ∧ at' = st.clock + 1 ∧
      t.clock.toNat * 8192 / 1000000000 ≠ st.clock.toNat * 8192 / 1000000000)) ∧
    t.offset = if st.timed then st.offset else if st.offset < 0 then st.offset - Config.drift st.clock.toNat
      else st.offset + Config.drift st.clock.toNat) ∧
  (∀ (st : State) (ceil : BitVec 12) (col : Nat) (lower : List Nat),
    (lower.Nodup → ∃ t, exec (.thermalSample ceil true lower) st = .next t ∧ t.ceiling = ceil.toNat ∧ t.cores = st.cores ∧
      t.mem = st.mem ∧ ∀ c, t.column c = if c ∈ lower ∧ (st.column c).frozen = false ∧ 450 ≤ (st.column c).volts
        then { st.column c with volts := (st.column c).volts - 10 } else st.column c) ∧
    exec (.thermalSample ceil false (col :: lower)) st = .next (({ st with ceiling := 0 } : State).post 0x0B 0 (BitVec.ofNat 64 col))) ∧
  (∀ (st : State) (sq c : Nat) (h : Uop) (rest : List Uop), c < 4 → let n := 4 * sq + c; let k := st.core n
    k.uops = h :: rest → (∀ d < 4, d ≠ c → (st.core (4 * sq + d)).uops = [] ∧ (st.core (4 * sq + d)).deficit = 0) →
    (∀ i < 4, (st.square sq).groupBusy i ≤ 1) → h.groups ∈ [1, 2, 4] → h.cost / h.groups < 256 →
    let p := ((st.square sq).arbP + 1) % 4
    (h.cost ≤ k.deficit → ∃ t, exec (.laneGroupArbitration sq) st = .next t ∧ (t.core n).uops = rest ∧ t.mem = st.mem ∧
      (∀ i < 4, (t.square sq).groupBusy i = if i < h.groups then h.cost / h.groups else 0) ∧
      (rest = [] → (t.core n).deficit = k.deficit - h.cost ∧ (t.square sq).arbP = p)) ∧
    (k.deficit < h.cost → ∃ t, exec (.laneGroupArbitration sq) st = .next t ∧
      t.core n = { k with deficit := k.deficit + 64 * st.weightOf n } ∧ (t.square sq).arbP = p ∧ t.mem = st.mem ∧
      ∀ i < 4, (t.square sq).groupBusy i = 0)) ∧
  (∀ (st : State) (q w : Nat), (st.reserveUsed q = false → st.blocked q = true → exec (.probeOriginate q w) st = .next { st with
      probes := Map.put st.probes st.probeId { origin := q, here := w, hops := 1, seen := [] }, probeId := st.probeId + 1 }) ∧
    ((st.reserveUsed q = true ∨ st.blocked q = false) → exec (.probeOriginate q w) st = .next st)) ∧
  (∀ (st : State) (id : Nat) (p : Probe) (w : Option Nat), Map.find? st.probes id = some p →
    let gone : State := { st with probes := Map.erase st.probes id }
    (p.hops < 64 → p.here = p.origin → st.reserveUsed p.origin = true → exec (.probeArrive id w) st = .next gone) ∧
    (p.hops < 64 → p.here = p.origin → st.reserveUsed p.origin = false →
      (∀ i u l, gone.launchOf (gone.firstBound (p.origin / 128)) = some (i, u, l) → l.scr = 0) →
      exec (.probeArrive id w) st = .next { gone with reserves := st.reserves ++ [p.origin] }) ∧
    ((64 ≤ p.hops ∨ (p.here ≠ p.origin ∧ (p.here ∈ p.seen ∨ w = none ∨ st.blocked p.here = false))) → exec (.probeArrive id w) st = .next gone) ∧
    (p.here ≠ p.origin → p.hops < 64 → p.here ∉ p.seen → st.blocked p.here = true → ∀ q, w = some q → exec (.probeArrive id w) st = .next { st with
      probes := Map.put st.probes id { p with here := q, hops := p.hops + 1, seen := p.seen ++ [p.here] } })) ∧
  (∀ (st : State) (q : Nat) (cs : List Nat), ∃ t, exec (.queueDeadlock q cs) st = .next t ∧ t.mem = st.mem ∧
    ∀ c, ((st.core c).task.isSome = true → st.ctxOf c ∈ cs → StopReq.preempt true false ∈ (t.core c).stopReq) ∧
      (st.ctxOf c ∉ cs → t.core c = st.core c)) ∧
  (∀ (st : State) (sq : Nat), let is := ((st.slice sq).vecs.filter (fun e => e.2.valid)).map (·.1)
    (∀ s, st.evictEach sq is = (s, none) → exec (.squareWithhold sq) st = .next s) ∧
    (∀ s ends, st.evictEach sq is = (s, some ends) → (∀ i, (st.vec sq i).st ≠ 1) → ∃ t, exec (.squareWithhold sq) st = .next t ∧
      (t.square sq).withheld = true ∧ (∀ i, (t.vec sq i).valid = false) ∧ (∀ q i, q ≠ sq → t.vec q i = st.vec q i) ∧
      t.cores = st.cores ∧ t.mem = st.mem) ∧
    (∀ s ends, st.evictEach sq is = (s, some ends) → ∃ t, exec (.squareWithhold sq) st = .next t ∧
      (t.square sq).withheld = true ∧ t.mem = s.mem ∧ (∀ e ∈ ends, (t.vec sq e.1).valid = false) ∧
      ∀ q i, q ≠ sq → t.vec q i = s.vec q i)) ∧
  (∀ (st : State) (link q i : Nat) (e : Dword), i < 16 → ((Map.get 0 (st.square q).faults i).getLsbD 63 = false) →
    (∀ j < i, (Map.get 0 (st.square q).faults j).getLsbD 63 = true) →
    ∃ t, exec (.torusLinkFailure link [(q, e)] []) st = .next t ∧ link ∈ t.failedLinks ∧ t.mem = st.mem ∧ t.cores = st.cores ∧
      (∀ j, Map.get 0 (t.square q).faults j = if j = i then e else Map.get 0 (st.square q).faults j) ∧
      ∀ y, y ≠ q → t.square y = st.square y)

/-- Layer power, bank promotion, buses, error windows and the scrubber. The host's LPWR asks for layers and starts the
transitions that are due. A power-down once what the layer had accepted has performed loses the layer's bytes; a
finished power-up gives zeros. A bank is demoted only while no task runs, and a waiting promotion starts once its
own reserve holds no journal entry. A corrected word counts in the bank that holds it: with a threshold of 0 or not
yet passed nothing more happens; past it an undervolted column is raised by 10 mV and frozen, once in a window, else
the bank is promoted, or waits for its reserve. An uncorrectable word poisons its granule; a slice's sector is
dropped when clean; in HBM the granule is poisoned, which shows once no slice holds it. A bus with a spare is
repaired and retrained; without one it fails, and once older loads have performed the task ends with LAYER_BUS. An
error window starts again, and a freeze is cleared. (R56, R57, R62, R65, R72, R74, R75, R77, R107, R108, R50, R66.)
The model's choice or reading, no rule's: the address of the LAYER_BUS record (notes/assumptions/53.md). -/
def Obligations.LayersPromotionAndScrubbing : Prop :=
  (∀ (st : State) (c : Nat) (v : Dword), (v.toNat < 16 → ∃ t, exec (.lpwr c v) st = .next t ∧ t.mem = st.mem ∧
      (t.core c).ls = (st.core c).ls ∧ (∀ b : Bool, let l := (st.core c).layer b
        let w := v.getLsbD (if b then 1 else 0)
        ((t.core c).layer b).want = w ∧ ((t.core c).layer b).on = l.on ∧ ((t.core c).layer b).busy = (l.busy || w != l.on) ∧
        (l.busy = false → w ≠ l.on → ((t.core c).layer b).down = !w))) ∧
    (16 ≤ v.toNat → exec (.lpwr c v) st = .next st)) ∧
  (∀ (st : State) (c : Nat) (b : Bool), let k := st.core c
    let l := k.layer b
    let mine (y : Nat) : Bool := decide (2 ^ 20 ≤ y) == b
    let lost (t : State) (l' : Layer) : Prop := (t.core c).layer b = l' ∧ (t.core c).layer (!b) = k.layer (!b) ∧ t.mem = st.mem ∧
      (∀ y, (t.core c).lsRd y = if mine y then 0 else k.lsRd y) ∧
      (∀ y, (t.core c).lsRdPois y = if mine y then false else k.lsRdPois y) ∧ (∀ j, j ≠ c → (t.core j).ls = (st.core j).ls)
    let listed := Memory.wf none k.ls = true ∧ Map.sortedFrom 0 k.lsPois = true
    (l.busy = true → l.down = true → l.on = true → k.layerOwes b = false → listed →
      ∃ t, exec (.layerPowerDown c b) st = .next t ∧ lost t { l with on := false }) ∧
    (l.busy = true → l.down = false → l.want = true → listed →
      ∃ t, exec (.layerTransitionDone c b) st = .next t ∧ lost t { l with on := true, busy := false, down := false }) ∧
    (l.busy = true → l.down = true → l.on = false → l.want = false → ∃ t, exec (.layerTransitionDone c b) st = .next t ∧
      (t.core c).layer b = { l with busy := false, down := false } ∧ (t.core c).ls = k.ls ∧ t.mem = st.mem)) ∧
  (∀ (st : State) (c i : Nat), let k := st.core c
    let b := k.bank i
    let now (t : State) (b' : Bank) : Prop := (∀ j, (t.core c).bank j = if j = i then b' else k.bank j) ∧
      t.core c = { k with banks := (t.core c).banks } ∧ t.mem = st.mem ∧ ∀ j, j ≠ c → t.core j = st.core j
    (k.task = none → ∃ t, exec (.bankDemote c i) st = .next t ∧ now t { b with promoted := false, waiting := false }) ∧
    (k.task.isSome = true → exec (.bankDemote c i) st = .next st) ∧
    (b.waiting = true → k.reserveHolds i = 0 → ∃ t, exec (.bankPromotionStart c i) st = .next t ∧
      now t { b with promoted := true, waiting := false }) ∧
    ((b.waiting = false ∨ k.reserveHolds i ≠ 0) → exec (.bankPromotionStart c i) st = .next st) ∧
    (∃ t, exec (.errorWindowStart 1 c i) st = .next t ∧ now t { b with count := 0, fresh := false }) ∧
    (∀ (loc : Nat) (syn : BitVec 8), k.bankAt loc = i → (st.err 1).escr.getLsbD 0 = true →
      let thr := (k.lsecc.extractLsb' 0 16).toNat
      let n := b.count + 1
      let quiet := thr = 0 ∨ b.promoted = true ∨ b.waiting = true ∨ n ≠ thr + 1
      (quiet → ∃ t, exec (.scrub 1 c loc 1 syn) st = .next t ∧ now t { b with count := n } ∧
        (t.err 1).cor = min ((st.err 1).cor + 1) (2 ^ 32 - 1)) ∧
      (¬quiet → (st.column (columnOf (squareOf c))).volts < 500 → b.fresh = false → let col := columnOf (squareOf c)
        ∃ t, exec (.scrub 1 c loc 1 syn) st = .next t ∧ now t { b with count := 0, fresh := true } ∧
          t.column col = { st.column col with
            volts := if st.columnFresh col then (st.column col).volts else (st.column col).volts + 10, frozen := true }) ∧
      (¬quiet → (500 ≤ (st.column (columnOf (squareOf c))).volts ∨ b.fresh = true) → k.reserveHolds i ≠ 0 →
        ∃ t, exec (.scrub 1 c loc 1 syn) st = .next t ∧
          (t.core c).bank i = { b with count := n, waiting := true, fresh := false } ∧ t.mem = st.mem) ∧
      (¬quiet → (500 ≤ (st.column (columnOf (squareOf c))).volts ∨ b.fresh = true) → k.journal = [] →
        ∃ t, exec (.scrub 1 c loc 1 syn) st = .next t ∧ now t { b with count := n, promoted := true, waiting := false, fresh := false }) ∧
      (∃ t, exec (.scrub 1 c loc 2 syn) st = .next t ∧ (t.core c).ls = k.ls ∧ t.mem = st.mem ∧
        (t.err 1).unc = min ((st.err 1).unc + 1) (2 ^ 32 - 1) ∧
        ∀ y, (t.core c).lsRdPois y = (k.lsRdPois y || decide (y / 32 = loc / 32))))) ∧
  (∀ (st : State) (own loc : Nat) (syn : BitVec 8), (st.err 3).escr.getLsbD 0 = true → let n := loc / 1024
    let bit := loc / 128 % 8
    Map.has st.lines n = true → (st.line n).valid.getLsbD bit = true →
    ((st.line n).dirty.getLsbD bit = false → ∃ t, exec (.scrub 3 own loc 2 syn) st = .next t ∧
      t.line n = { st.line n with valid := (t.line n).valid } ∧ (∀ j, (t.line n).valid.getLsbD j =
        (decide (j ≠ bit) && (st.line n).valid.getLsbD j)) ∧ t.mem = st.mem ∧
      ∀ y, t.rdPois y = (st.rdPois y || (decide (y / 128 = loc / 128) && st.hbmPois.any (fun e => e.1 == y / 32)))) ∧
    ((st.line n).dirty.getLsbD bit = true → ∃ t, exec (.scrub 3 own loc 2 syn) st = .next t ∧ t.mem = st.mem ∧
      ∀ y, t.rdPois y = (st.rdPois y || decide (y / 128 = loc / 128)))) ∧
  (∀ (st : State) (own loc : Nat) (syn : BitVec 8), (st.err 5).escr.getLsbD 0 = true →
    let held := (st.line (loc / 1024)).valid.getLsbD (loc / 128 % 8)
    ∃ t, exec (.scrub 5 own loc 2 syn) st = .next t ∧ t.mem = st.mem ∧ t.cores = st.cores ∧
      ∀ y, t.rdPois y = (st.rdPois y || (!held && decide (y / 32 = loc / 32)))) ∧
  (∀ (st : State) (l own i : Nat),
    (∃ t, exec (.errorWindowStart 2 own i) st = .next t ∧ ∀ j, Map.get 0 (t.core own).l1Errors j =
      if j = i then 0 else Map.get 0 (st.core own).l1Errors j) ∧
    (∃ t, exec (.errorWindowStart 3 own i) st = .next t ∧ t.cores = st.cores ∧ ∀ j, Map.get 0 (t.slice own).wayErrors j =
      if j = i then 0 else Map.get 0 (st.slice own).wayErrors j) ∧
    (∃ t, exec (.freezeClear l) st = .next t ∧ t.column l = { st.column l with frozen := false } ∧
      (∀ j, j ≠ l → t.column j = st.column j) ∧ t.mem = st.mem ∧ t.cores = st.cores)) ∧
  (∀ (st : State) (c i : Nat) (ok : Bool), let k := st.core c
    let b := k.bus i
    let fails (e : Instr) : Prop := (k.loadsOut = true → exec e st = .next st) ∧
      ∀ id u l, st.launchOf c = some (id, u, l) → k.loadsOut = false → ∃ t l', exec e st = .next t ∧
      (t.core c).task = none ∧ t.launch? id = some l' ∧ (l'.task u).ended = true ∧ (l'.task u).cause = 0x1F ∧
      ((t.core c).layer (decide (4 ≤ i))).live.getLsbD (i % 4) = false ∧ ((t.core c).layer (decide (4 ≤ i))).carvePending = true ∧
      ((t.core c).mcRecord.extractLsb' 112 16).toNat % 256 = 3
    (b.repairing = false → b.spares ≠ 0 → ∃ t, exec (.busRepair c i) st = .next t ∧ t.mem = st.mem ∧ (t.core c).ls = k.ls ∧
      (t.core c).bus i = { lanes := b.lanes + 1, spares := b.spares - 1, repairing := true } ∧
      ∀ j, j ≠ i → (t.core c).bus j = k.bus j) ∧
    (b.repairing = true → exec (.busRepair c i) st = .next st) ∧
    (b.repairing = true → ok = true → ∃ t, exec (.busRetrainDone c i ok) st = .next t ∧ t.mem = st.mem ∧
      (t.core c).ls = k.ls ∧ (t.core c).bus i = { b with repairing := false } ∧ ∀ j, j ≠ i → (t.core c).bus j = k.bus j) ∧
    (b.repairing = false → b.spares = 0 → fails (.busRepair c i)) ∧
    (b.repairing = true → ok = false → fails (.busRetrainDone c i ok)))

/-- The scheduler walks leases, starts launches, binds tasks and fills remote tensors. A record whose checks fail leaves
its queue and LAUNCH_FAIL is posted with its address, context or lease index; an unmapped page posts RESIDENCY and
the walk waits for RSIG, a migrating one waits; pinned leases and good tables resolve the head. The head that the
scheduler selects, with none before it that pre-empts, starts: its record leaves the queue and becomes a launch at
its squares, and each task with its buffers ready and its core idle is bound in the state of R267; one whose context
has lost its ASID or window fails. TASK_BIND binds a task, here not doubled, later. RSIG restarts the walks that its
context's residency requests hold. The host's LNQCTL sets a queue's fields, and its TAIL unless that would pass the
ring. A remote tensor's bytes arrive in its buffer, which is full where the circuit to their device is lit. (R21,
R33, R196, R200, R216, R217, R218, R219, R267, R474, R258.) The model's choice or reading, no rule's: what becomes
of the record of a launch that fails (notes/assumptions/15.md); what a task finds of the core's last one
(notes/assumptions/29.md); a stream-accumulator operation as one step of its slice (notes/assumptions/30.md); the
placement as an input (notes/assumptions/39.md); which resumable launch goes first (notes/assumptions/61.md); the
check of an undeclared channel entry (notes/assumptions/62.md). -/
def Obligations.SchedulerRuns : Prop :=
  (∀ (st : State) (q : Nat), (st.lqueue q).active = true → (st.head q).leases ≠ some true → (st.head q).asked = false →
    let l := st.headLaunch q
    let h := st.head q
    let i := Instr.leaseWalk q
    let room := ((st.heqctl.extractLsb' 48 16).toNat + 65536 - (st.heqctl.extractLsb' 32 16).toNat) % 65536 <
      2 ^ (st.heqctl.extractLsb' 20 4).toNat
    let posts (t : State) (code : Nat) (arg : Nat) : Prop := room → t.hostEvents = st.hostEvents ++
      [{ code := BitVec.ofNat 8 code, ctx := BitVec.ofNat 6 l.ctx, arg := BitVec.ofNat 64 arg, clock := st.clock }]
    let same (t : State) : Prop := t.mem = st.mem ∧ t.cores = st.cores ∧ t.launches = st.launches
    let fails (arg : Nat) : Prop := ∃ t, exec i st = .next t ∧ same t ∧ posts t 0x02 arg ∧
      t.lqueue q = { st.lqueue q with head := ((st.lqueue q).head + 1) % 65536 } ∧ Map.find? t.heads q = none
    let waits (h' : Head) (p : State → Prop) : Prop := ∃ t, exec i st = .next t ∧ same t ∧ t.queues = st.queues ∧ t.head q = h' ∧
      (∀ j, j ≠ q → t.head j = st.head j) ∧ p t
    (st.recordOk l = false → fails (st.lqueue q).headAt) ∧
    (st.recordOk l = true → st.contextOk l.ctx = false → fails l.ctx) ∧
    (st.recordOk l = true → st.contextOk l.ctx = true →
      (∀ n < 8, l.leaseOk n = false → (∀ m < n, l.leaseOk m = true) → fails n) ∧
      ((∀ n < 8, l.leaseOk n = true) →
        let w := st.walkLeases l (List.range 8)
        (∀ n, w = some (n, .malformed) → fails n) ∧
        (∀ n va, w = some (n, .unmapped va) → waits { h with leases := some false, waitsCtx := some l.ctx, waitsVa := va, asked := true }
          (fun t => posts t 0x01 va)) ∧
        (∀ n va, w = some (n, .migrating va) →
          waits { h with leases := some false, waitsCtx := some l.ctx, waitsVa := va } (fun t => t.hostEvents = st.hostEvents)) ∧
        (w = none → (st.chTableOk l 0 && (List.range 4).all (st.rtOk l 0) && st.poolOk l) = true →
          waits { h with leases := some true, waitsCtx := none } (fun t => t.hostEvents = st.hostEvents)) ∧
        (w = none → (st.chTableOk l 0 && (List.range 4).all (st.rtOk l 0) && st.poolOk l) = false → fails (st.lqueue q).headAt)))) ∧
  (∀ (st : State) (place : List Nat) (q : Nat),
    st.selected = some (q, .fresh q, st.headLaunch q) →
    (∀ i ∈ st.candidates.takeWhile (fun i => !st.firstFits i), (st.lqueue i).pre = false) → st.placeable (st.headLaunch q) place = true →
    let l := { st.headLaunch q with place := place }
    (st.contextOk l.ctx = false → exec (.schedulerSelect place) st = .next (st.failHead q l.ctx l.ctx)) ∧
    (st.contextOk l.ctx = true → (∀ e ∈ st.slices, ∀ v ∈ e.2.vecs, v.2.st ≠ 1) →
    ∃ t l', exec (.schedulerSelect place) st = .next t ∧ t.launch? st.launchId = some l' ∧ t.launchId = st.launchId + 1 ∧
      l'.record = l.record ∧ l'.queue = q ∧ l'.place = place ∧ t.lastQueue = q ∧ (t.lqueue q).head = ((st.lqueue q).head + 1) % 65536 ∧
      (∀ id, id ≠ st.launchId → t.launch? id = st.launch? id) ∧
      ∀ u < l.count, let c := l.pcore u
        l.buffersReady u = true → (st.core c).task = none → (st.core c).inflight = [] → (st.core c).cmds = [] → let k := t.core c
        k.task = some (st.launchId, u) ∧ (l'.task u).bound = true ∧ (l'.task u).begun = true ∧ k.level = 0 ∧
        k.arch.pc = BitVec.ofNat 64 l.entry ∧ k.x 16 = BitVec.ofNat 64 l.arg ∧ k.x 17 = BitVec.ofNat 64 u ∧
        k.x 18 = BitVec.ofNat 64 (l.vcore u))) ∧
  (∀ (st : State) (id u : Nat) (l : Launch), st.launch? id = some l → u < l.count → l.saved = false → l.preempting = false → l.dbl = false →
    (l.task u).bound = false → (l.task u).begun = false → (l.task u).ended = false → l.buffersReady u = true →
    (∀ e ∈ st.slices, ∀ v ∈ e.2.vecs, v.2.st ≠ 1) → let c := l.pcore u
    (st.core c).task = none → (st.core c).inflight = [] → (st.core c).cmds = [] →
    ∃ t l', exec (.taskBind id u) st = .next t ∧ t.launch? id = some l' ∧ (l'.task u).bound = true ∧ (l'.task u).begun = true ∧
      (∀ v, v ≠ u → l'.task v = l.task v) ∧ l'.record = l.record ∧ (∀ j, j ≠ c → t.core j = st.core j) ∧ let k := t.core c
      k.task = some (id, u) ∧ k.level = 0 ∧ k.arch.pc = BitVec.ofNat 64 l.entry ∧ k.x 16 = BitVec.ofNat 64 l.arg ∧
      k.x 17 = BitVec.ofNat 64 u ∧ k.x 18 = BitVec.ofNat 64 (l.vcore u) ∧
      (∀ r, r ≠ 16 → r ≠ 17 → r ≠ 18 → k.x r = 0) ∧ (∀ r, k.sideOf r = false) ∧ (∀ r, k.row r = 0) ∧ (∀ j, k.queue j = []) ∧
      k.arch.mdef = 0xC0 ∧ k.arch.rmode = 0 ∧ k.l1 = (st.core c).l1 ∧
      ((st.core c).layerA.carvePending = false → (st.core c).layerB.carvePending = false → (st.core c).lastCtx = some l.ctx →
        k.ls = (st.core c).ls)) ∧
  (∀ (st : State) (v : Dword), (64 ≤ v.toNat → exec (.rsig v) st = .next st) ∧
    (v.toNat < 64 → ∃ t, exec (.rsig v) st = .next t ∧ t.mem = st.mem ∧ t.cores = st.cores ∧ t.queues = st.queues ∧ ∀ i,
      t.head i = if (st.head i).asked = true ∧ (st.head i).waitsCtx = some v.toNat then
        { st.head i with leases := none, waitsCtx := none, asked := false } else st.head i)) ∧
  (∀ (st : State) (q : Nat) (v : Dword), q < 16 → crAccepts (0x90 + q) v = true → let o := st.lqueue q
    let x := (v.extractLsb' 48 16).toNat
    ∃ t, exec (.lnqctl q v) st = .next t ∧ t.mem = st.mem ∧ t.cores = st.cores ∧ (∀ j, j ≠ q → t.lqueue j = st.lqueue j) ∧
      let n := t.lqueue q
      n = { o with enabled := v.getLsbD 0, prio := (v.extractLsb' 16 3).toNat, pre := v.getLsbD 19,
                   logd := (v.extractLsb' 20 4).toNat, tail := n.tail } ∧
      n.tail = if x ≠ o.tail ∧ (n.usable = false ∨ 2 ^ n.logd < (x + 65536 - o.head) % 65536) then o.tail else x) ∧
  (∀ (st : State) (id u b : Nat) (data : List Byte) (l : Launch), st.launch? id = some l → u < l.count → b < 4 →
    l.tbRem b = true → (l.task u).begun = false → data.length = l.tbLen b → let c := l.pcore u
    let dev := (st.remoteWindow l.ctx (bitsOf (st.rtEntry l c b) 8 6)).dev
    let lit := st.litTo dev
    ∃ t l', exec (.remoteTensorFill id u b dev data []) st = .next t ∧ t.mem = st.mem ∧ t.launch? id = some l' ∧
      (∀ y, (t.core c).lsRd y = if l.tbBase b ≤ y ∧ y < l.tbBase b + data.length then data.getD (y - l.tbBase b) 0
        else (st.core c).lsRd y) ∧ (∀ j, j ≠ c → (t.core j).ls = (st.core j).ls) ∧
      ∀ j, Map.get false l'.full j = if lit = true ∧ j = 4 * u + b then true else Map.get false l.full j)

/-- Stop requests, core stops, saves and restores. A pre-emption request marks a launch whose context has save slots and
asks each of its cores; a deadline makes the request due, and a further one lets it discard the level-0 loops. A due
stop falls between instructions: a pre-emption stops the core whole, a slot miss, a scrub's machine check or an
engine's fault enters the handler at that boundary, a deferred fault ends the task. With every bound core stopped,
SAVE writes the image, whose header holds the sequence number, pc, RMODE, MDEF and live registers, unbinds the task
and leaves the launch saved; SAVE_RESUME goes on after a fault. RESTORE of the saved launch that the scheduler
selects, whose image checks good, no block of it waiting, loads the task at its new core; a bad block posts
RESTORE_INTEGRITY with its address and loads nothing. (R248, R270, R276, R277, R285, R287, R289, R291, R292, R293,
R357, R444.) The model's choice or reading, no rule's: a value that the spec leaves open is free
(notes/assumptions/3.md); a time-out is an event that may come at any time (notes/assumptions/7.md); FADDR or FSTART
0 where no rule states a value, and STR of a stop (notes/assumptions/10.md); what a launch keeps beside its save
image (notes/assumptions/22.md); the placement as an input (notes/assumptions/39.md). -/
def Obligations.StopsSavesAndRestores : Prop :=
  (∀ (st : State) (id : Nat) (l : Launch), st.launch? id = some l →
    ((st.savn l.ctx = 0 ∨ l.isOver = true ∨ l.saved = true ∨ l.preempting = true) → exec (.preemptionRequest id) st = .next st) ∧
    (st.savn l.ctx ≠ 0 → l.isOver = false → l.saved = false → l.preempting = false →
      ∃ t, exec (.preemptionRequest id) st = .next t ∧ t.mem = st.mem ∧ t.launch? id = some { l with preempting := true } ∧
        (∀ c u, (st.core c).task = some (id, u) → StopReq.preempt false false ∈ (t.core c).stopReq ∧
          t.core c = { st.core c with stopReq := (t.core c).stopReq }) ∧
        (∀ c, (∀ e ∈ st.cores, e.1 = c → ∀ u, e.2.task ≠ some (id, u)) → t.core c = st.core c))) ∧
  (∀ (st : State) (c : Nat) (pre post : List StopReq) (due late : Bool), let k := st.core c
    k.stopReq = pre ++ .preempt due late :: post → (∀ r ∈ pre ++ post, r.isPreempt = false) →
    exec (.preemptionDeadline c) st = .next (st.setCore c { k with stopReq := pre ++ .preempt true late :: post }) ∧
    exec (.loopContextDiscard c) st = .next (st.setCore c { k with stopReq := pre ++ .preempt due (due || late) :: post })) ∧
  (∀ (st : State) (c : Nat) (r : StopReq), st.dueStop c = some r → let k := st.core c
    let i := Instr.coreStop c
    let handles (cause : Nat) (engine walk : Bool) (fa fs : Dword) : Prop :=
      cause ≠ Cause.poison → cause ≠ Cause.mismatch → cause ≠ Cause.lease → st.tvec c ≠ 0 → k.level ≠ 2 →
      ∃ t, exec i st = .next t ∧ t.mem = st.mem ∧ let k' := t.core c
        k'.level.val = k.level.val + 1 ∧ k'.arch.pc = st.tvec c ∧ k'.epc = k.arch.pc ∧
        (k'.ecause.extractLsb' 0 8).toNat = cause % 256 ∧ k'.faddr = fa ∧ k'.fstart = fs ∧
        k'.ecause.getLsbD 12 = engine ∧ k'.ecause.getLsbD 14 = walk ∧ k'.stopReq = k.stopReq.erase r ∧
        (∀ x, k'.x x = k.x x) ∧ (∀ x, k'.row x = k.row x) ∧ k'.ls = k.ls ∧ k'.task = k.task
    (∀ due late, r = .preempt due late → ∃ t, exec i st = .next t ∧ t.mem = st.mem ∧ let k' := t.core c
      k'.stopped = some { live := none, ranges := [], cause := 0x12 } ∧ k'.stopReq = k.stopReq.filter (fun x => !x.isPreempt) ∧
      k'.arch = { k.arch with seq0 := if late then SeqCtx.reset else k.arch.seq0 } ∧ k'.ls = k.ls ∧ k'.task = k.task) ∧
    (∀ cls, r = .slotMiss cls → handles Cause.slotMiss false false (BitVec.ofNat 64 cls) 0) ∧
    (∀ a, r = .scrub a → handles Cause.machineCheck false false 0 0) ∧
    (∀ (cause : BitVec 8) walk fa fs, r = .engine cause walk fa fs → cause.toNat < 0x1A → handles cause.toNat true walk fa fs) ∧
    (∀ (cause : BitVec 8) walk epc fa fs id u l, r = .deferred cause walk epc fa fs → st.launchOf c = some (id, u, l) →
      ∃ t l', exec i st = .next t ∧ (t.core c).task = none ∧ (t.core c).epc = epc ∧ t.launch? id = some l' ∧
        (l'.task u).ended = true ∧ (l'.task u).cause = cause)) ∧
  (∀ (st : State) (c id u seq : Nat) (p : Stopped) (l : Launch), let k := st.core c
    p.live = none → ∃ h rest, st.image c id u seq p l = h :: rest ∧ h.length = 4096 ∧ headAt h 8 8 = seq % 2 ^ 48 ∧
      headAt h 16 8 = k.arch.pc.toNat ∧ headAt h 32 8 = k.arch.rmode.toNat ∧ headAt h 40 8 = k.arch.mdef.toNat ∧
      headAt h 64 8 = l.logPosOf u % 2 ^ 64 ∧ ∀ x : R5, headAt h (256 + 8 * x.toNat) 8 = (k.x x).toNat) ∧
  (∀ (st s' : State) (id u c : Nat) (l : Launch) (p : Stopped), st.launch? id = some l → st.saveReady l = true →
    st.errors = [] → l.boundTasks = [u] → c = l.pcore u → (st.core c).stopped = some p → (st.core c).task = some (id, u) →
    (∀ e ∈ st.slices, ∀ v ∈ e.2.vecs, v.2.st ≠ 1) →
    let saved (t : State) : Prop := (t.core c).task = none ∧ t.mem = s'.mem ∧ ∃ l', t.launch? id = some l' ∧ l'.saved = true ∧
      l'.preempting = false ∧ l'.saving = none ∧ (l'.task u).bound = false ∧ (l'.task u).ended = false ∧ l'.record = l.record
    (l.saving = none → State.putBlocks { st with saveSeq := st.saveSeq + 1 } l.ctx c (st.slotAddr l u) 0
        (st.image c id u (st.saveSeq + 1) p l) = (s', none) →
      ∃ t, exec (.save id) st = .next t ∧ saved t ∧ t.saveSeq = st.saveSeq + 1) ∧
    (∀ g, l.saving = some g → g.image = 0 → g.faulted = true →
      let st1 := st.modLaunch id (fun l => { l with saving := some { g with faulted := false } })
      st1.putBlocks l.ctx c (st1.slotAddr l u + 4096 * g.block) g.block ((st1.image c id u g.seq p l).drop g.block) = (s', none) →
      ∃ t, exec (.saveResume id) st = .next t ∧ saved t)) ∧
  (∀ (st : State) (ctx c va n : Nat) (b : PBytes) (ps : List Part), st.check2 (State.deviceWho ctx c) .store 0 va 4096 0 = .ok ps →
    b.length = 4096 → (∀ p ∈ ps, p.idx + p.size ≤ 4096 ∧ st.lineRefused p.pa p.size = false) →
    ps.Pairwise (fun p q => p.pa + p.size ≤ q.pa ∨ q.pa + q.size ≤ p.pa) →
    ∃ t, st.putBlocks ctx c va n [b] = (t, none) ∧ t.cores = st.cores ∧ (∀ y, y ∉ partAddrs ps → t.rd y = st.rd y) ∧
      ∀ p ∈ ps, ∀ j < p.size, t.rd (p.pa + j) = (b.getD (p.idx + j) (0, false)).1) ∧
  (∀ (st : State) (id u q : Nat) (place : List Nat) (l : Launch), st.launch? id = some l →
    st.errors = [] → st.selected = some (q, .resumed id, l) → st.placeable l place = true → (∀ e ∈ st.slices, ∀ v ∈ e.2.vecs, v.2.st ≠ 1) →
    (List.range l.count).filter (fun v => Map.has l.kept v) = [u] → let c := ({ l with place := place } : Launch).pcore u
    let chk := st.checkImage l.ctx c (st.slotAddr l u) (((Map.find? l.kept u).map (fun k => k.ranges)).getD [])
    (∀ a ∈ imageBlocks ((st.getBlock l.ctx c (st.slotAddr l u)).getD []) (st.slotAddr l u)
        (((Map.find? l.kept u).map (fun k => k.ranges)).getD []), st.blockWaits l.ctx c a = false) →
    (∀ h rest, chk = .ok (h :: rest) → ∃ t l', exec (.restore id place) st = .next t ∧ t.launch? id = some l' ∧ l'.place = place ∧
      l'.saved = false ∧ (l'.task u).bound = true ∧ l'.record = l.record ∧ let k := t.core c
      k.task = some (id, u) ∧ k.level = 0 ∧ k.arch.pc = BitVec.ofNat 64 (headAt h 16 8) ∧
      k.arch.rmode = BitVec.ofNat 64 (headAt h 32 8) ∧ k.arch.mdef = BitVec.ofNat 64 (headAt h 40 8) ∧
      (∀ x : R5, x ≠ 0 → k.x x = BitVec.ofNat 64 (headAt h (256 + 8 * x.toNat) 8)) ∧ k.armed = l.gang ∧ k.stopReq = ((Map.find? l.kept u).map (fun k => k.stops)).getD [] ∧
      k.stopped = none) ∧
    (∀ a, chk = .error a → ∃ t, exec (.restore id place) st = .next t ∧ t.mem = st.mem ∧ t.cores = st.cores ∧
      t.launches = st.launches ∧ (t.context l.ctx).unrestorable = true ∧
      (((st.heqctl.extractLsb' 48 16).toNat + 65536 - (st.heqctl.extractLsb' 32 16).toNat) % 65536 <
          2 ^ (st.heqctl.extractLsb' 20 4).toNat → t.hostEvents = st.hostEvents ++
        [{ code := 0x04, ctx := BitVec.ofNat 6 l.ctx, arg := BitVec.ofNat 64 a, clock := st.clock }])))

/-- Circuits, tokens, frames and watchdogs; doubled execution, replay time-outs and forwarding. At a window boundary an
in-time device grants and accepts in four rounds, the largest count first, and its ports take the circuits accepted,
by it and of its grants; a changed one goes dark. After 2 µs it is lit, and what is unacknowledged goes again with
the next token. A stale token is dropped; a newer one sets the generation; the reader passes its own on or holds it
while its buffer lacks a burst; a writer with frames for the reader sends within BURST and the replay window,
numbered on, and passes it on. The frame awaited, intact, is delivered and acknowledged, a duplicate acknowledged, a
bad one reported; an acknowledgement empties the window up to its number. A watchdog darkens its port, and a third
reset within a second disables it and posts PORT_DOWN. A matching hash that the shadow has sent lets a doubled
core's message pass, a held exchange message too; a differing or missing one is MISMATCH at its sending instruction.
A forced replay time-out posts REPLAY_DIVERGE and stops the context. A forwarded instruction reaches its follower.
(R187, R211, R212, R214, R250, R252, R253, R254, R255, R259, R263.) The model's choice or reading, no rule's: a
value that the spec leaves open is free (notes/assumptions/3.md); a time-out is an event that may come at any time
(notes/assumptions/7.md); device numbers, places and poison of checkpoint blocks, and what a burst counts
(notes/assumptions/23.md); when an instruction is forwarded (notes/assumptions/27.md); requests and answers beyond
the device as payloads and events (notes/assumptions/33.md); how a doubled task's copies run and what their hashes
cover (notes/assumptions/36.md). -/
def Obligations.OpticalFabricAndDoubledRuns : Prop :=
  (∀ (st : State) (rounds : List (List (Nat × Nat) × List Nat)) (accepts abstain : List Nat),
    let i := Instr.matchingWindow { rounds := rounds, accepts := accepts, abstain := abstain }
    let window := 1000 * (st.afmw.extractLsb' 0 16).toNat
    let inTime := st.offset.natAbs ≤ (st.afmw.extractLsb' 16 10).toNat
    let free := ((List.range 22).filter (fun i => (st.port i).cfg.getLsbD 0 && !(st.port i).down)).length
    let r := (rounds.take 4).foldl (st.matchRound free) ([], [])
    let agreed := r.2 ++ r.1.filter (fun d => accepts.contains d && !r.2.contains d)
    ((st.clock.toNat % window ≠ 0 ∨ ¬inTime) → exec i st = .next st) ∧
    (st.clock.toNat % window = 0 → inTime → ∃ t, exec i st = .next t ∧ t.mem = st.mem ∧
      t.cores = st.cores ∧ t.sentGrants = r.1.mapIdx (fun i d => (i, d)) ∧
      ∀ p, let new := (List.find? (fun (e : Nat × Nat) => e.1 == p) (st.matched agreed)).map (fun e => e.2)
        let out (c : Option Nat) : Prop := ∃ d ∈ abstain, c = some d
        ∃ dark, (dark = if out new ∨ out (st.port p).circuit then window - 2000 else 0) ∧
        t.port p = if p < 22 ∧ new ≠ (st.port p).circuit then
          { st.port p with circuit := new, lit := false, changed := st.clock + BitVec.ofNat 64 dark } else st.port p)) ∧
  (∀ (st : State) (free : Nat) (granted accepted : List Nat) (asks : List (Nat × Nat)) (gives : List Nat),
    let r := st.matchRound free (granted, accepted) (asks, gives)
    (r.1 = granted ∨ ∃ q ∈ asks, q.1 ∉ granted ∧ r.1 = granted ++ [q.1] ∧
      ∀ a ∈ asks, a.1 ∉ granted → a.2 < q.2 ∨ (a.2 = q.2 ∧ q.1 ≤ a.1)) ∧
    (∃ new, r.2 = accepted ++ new ∧ accepted.length + new.length ≤ max free accepted.length ∧
      ∀ d ∈ new, d ∈ gives ∧ d ∉ accepted ∧ d ∈ st.wanted)) ∧
  (∀ (st : State) (p d : Nat),
    let again (t : State) : Prop := t.peer d = { st.peer d with again := (st.peer d).window } ∧ t.mem = st.mem ∧
      t.cores = st.cores ∧ (∀ e, e ≠ d → t.peer e = st.peer e) ∧ t.sentFrames = st.sentFrames
    (p < 32 → (st.port p).cfg.getLsbD 0 = true → (st.port p).down = false → (st.port p).changed.toNat + 2000 ≤ st.clock.toNat →
      ((p < 22 ∧ (st.port p).circuit = some d) ∨ (22 ≤ p ∧ d = 2 ^ 19 + p)) →
      ∃ t, exec (.circuitLit p) st = .next t ∧ again t ∧ t.port p = { st.port p with circuit := some d, lit := true } ∧
        ∀ q, q ≠ p → t.port q = st.port q) ∧
    (∃ t, exec (.replayTimeout d) st = .next t ∧ again t ∧ t.ports = st.ports)) ∧
  (∀ (st : State) (p : Nat) (gen : BitVec 16) (cut : Option Nat), let k := st.port p
    let burst := 1024 * (k.cfg.extractLsb' 16 16).toNat
    (2 ^ 15 ≤ (gen - k.gen).toNat → exec (.tokenArrive p { reader := none, gen := gen } cut) st = .next st) ∧
    ((gen - k.gen).toNat < 2 ^ 15 → ∃ t, exec (.tokenArrive p { reader := none, gen := gen } cut) st = .next t ∧ t.mem = st.mem ∧ t.cores = st.cores ∧
      t.port p = { k with gen := gen, held := decide (st.receiveRoom p < burst) } ∧
      t.sentTokens = st.sentTokens ++ if st.receiveRoom p < burst then [] else [(p, none, gen)]) ∧
    (k.held = true → exec (.tokenLoss p) st = .next st) ∧
    (k.held = false → exec (.tokenLoss p) st = .next { st with
      ports := Map.put st.ports p { k with gen := k.gen + 1 }, sentTokens := st.sentTokens ++ [(p, none, k.gen + 1)] })) ∧
  (∀ (st : State) (p d : Nat) (gen : BitVec 16) (cut : Option Nat), let k := st.port p; let q := st.peer d
    let i := Instr.tokenArrive p { reader := some d, gen := gen } cut
    let burst := 1024 * (k.cfg.extractLsb' 16 16).toNat
    let all := st.toSend d
    let bytes (n : Nat) : Nat := (all.take n).foldl (fun a f => a + f.2.data.length) 0
    let stale := 2 ^ 15 ≤ (gen - q.gen).toNat
    let writes := k.lit = true ∧ k.circuit = some d ∧ all ≠ []
    (stale → exec i st = .next st) ∧
    (¬stale → ¬writes → ∃ t, exec i st = .next t ∧ t.peer d = { q with gen := gen } ∧ t.sentFrames = st.sentFrames ∧
      t.outbox = st.outbox ∧ t.mem = st.mem ∧ t.sentTokens = st.sentTokens ++ [(p, some d, gen)]) ∧
    (¬stale → writes → st.loggedCores = [] → ∃ (t : State) (n : Nat) (sent : List (BitVec 32 × Payload)), exec i st = .next t ∧
      n ≤ all.length ∧ bytes n ≤ burst ∧ (cut = none → n < all.length → burst < bytes (n + 1)) ∧
      (∀ m, cut = some m → n ≤ m) ∧ sent.length = n ∧ t.sentFrames = st.sentFrames ++ sent.map (fun f => (d, f.1, f.2)) ∧
      (∀ (j : Nat) (f : Option (BitVec 32) × Payload), (all.take n)[j]? = some f → ∃ m, sent[j]? = some (m, f.2) ∧
        (∀ x, f.1 = some x → m = x) ∧ (f.1 = none → m = q.nextSend + BitVec.ofNat 32 (j - q.again.length))) ∧
      (let new := sent.drop q.again.length;
        t.peer d = { q with gen := gen, again := q.again.drop n, nextSend := q.nextSend + BitVec.ofNat 32 new.length,
                            window := q.window ++ new } ∧
        (t.outbox.filter (fun o => o.dev == d)) = (st.outbox.filter (fun o => o.dev == d)).drop new.length) ∧
      t.outbox.filter (fun o => o.dev != d) = st.outbox.filter (fun o => o.dev != d) ∧ t.mem = st.mem ∧ t.cores = st.cores ∧
      t.sentTokens = st.sentTokens ++ if cut = none then [(p, some d, gen)] else [])) ∧
  (∀ (st : State) (d : Nat) (n : BitVec 32) (ok : Bool) (f : Payload), let next := (st.peer d).nextRecv
    let i := Instr.frameReceive d n ok f
    let acks (m : BitVec 32) (bad : Bool) : State := { st with sentAcks := st.sentAcks ++ [(d, m, bad)] }
    (st.checkpointing = true → exec i st = .next st) ∧
    (st.checkpointing = false → (ok = false → exec i st = .next (acks (next - 1) true)) ∧
      (ok = true → n ≠ next → exec i st = .next (if 2 ^ 31 ≤ (n - next).toNat then acks (next - 1) false else st)) ∧
      (ok = true → n = next → ∃ t, exec i st = .next t ∧ t.mem = st.mem ∧ t.cores = st.cores ∧
        t.delivered = st.delivered ++ [{ port := st.portOf d, dev := d, what := f }] ∧
        t.peer d = { st.peer d with nextRecv := n + 1 } ∧ (∀ e, e ≠ d → t.peer e = st.peer e) ∧
        t.sentAcks = st.sentAcks ++ [(d, n, false)])) ∧
    (∀ bad : Bool, let left (l : List (BitVec 32 × Payload)) := l.filter (fun f => decide (2 ^ 31 ≤ (n - f.1).toNat))
      ∃ t, exec (.frameAck d { seqNo := n, crcError := bad }) st = .next t ∧ t.mem = st.mem ∧ t.cores = st.cores ∧
        t.peer d = { st.peer d with window := left (st.peer d).window,
                                    again := left (if bad then (st.peer d).window else (st.peer d).again) } ∧
        ∀ e, e ≠ d → t.peer e = st.peer e)) ∧
  (∀ (st : State) (p : Nat), let k := st.port p
    let recent := k.resets.filter (fun x => decide ((st.clock - x).toNat < 1000000000))
    (recent.length < 2 → ∃ t, exec (.watchdogReset p) st = .next t ∧ t.mem = st.mem ∧ t.cores = st.cores ∧
      t.port p = { k with lit := false, held := false, resets := st.clock :: recent } ∧
      (∀ q, q ≠ p → t.port q = st.port q) ∧ (p < 22 → t.outbox = st.outbox ∧ t.peers = st.peers)) ∧
    (2 ≤ recent.length → ∃ t, exec (.watchdogReset p) st = .next t ∧ t.mem = st.mem ∧ (t.port p).lit = false ∧
      (t.port p).down = true ∧ (t.port p).cfg.getLsbD 0 = false ∧ (∀ j, j ≠ 0 → (t.port p).cfg.getLsbD j = k.cfg.getLsbD j) ∧
      (((st.heqctl.extractLsb' 48 16).toNat + 65536 - (st.heqctl.extractLsb' 32 16).toNat) % 65536 <
        2 ^ (st.heqctl.extractLsb' 20 4).toNat → t.hostEvents = st.hostEvents ++
          [{ code := 0x0A, ctx := 0, arg := BitVec.ofNat 64 p, clock := st.clock }]))) ∧
  (∀ (st : State) (c : Nat) (h x : Dword), let k := st.core c
    let passes (p : Bool) : State := st.setCore c { k with hashWait := none, hashPass := some p }
    let sq := squareOf c
    (k.hashWait = some h → (st.hashSent c x = true → exec (.doubledHashCompare c x) st = .next (passes (h == x))) ∧
      (st.hashSent c x = false → exec (.doubledHashCompare c x) st = .next st) ∧
      exec (.doubledHashTimeout c) st = .next (passes false)) ∧
    (k.hashWait = none → (∀ m ∈ (st.square sq).slotMsgs, m.core = c → m.hashes = none) →
      exec (.doubledHashCompare c x) st = .next st ∧ exec (.doubledHashTimeout c) st = .next st) ∧
    (∀ m own shadow, k.hashWait = none → (st.square sq).slotMsgs = [m] → m.core = c → m.hashes = some (own, shadow) →
      let fails (i : Instr) : Prop := ∃ t pc, exec i st = .next t ∧ t.mem = st.mem ∧ (t.square sq).slotMsgs = [] ∧
        (t.core c).stopReq = k.stopReq ++ [.engine (BitVec.ofNat 8 Cause.mismatch) false 0 pc] ∧
        ∀ y, List.find? (fun y => y.id == m.cmd) k.cmds = some y → pc = y.pc
      (x ≠ shadow → exec (.doubledHashCompare c x) st = .next st) ∧
      (x = shadow → own = x → exec (.doubledHashCompare c x) st =
        .next (st.setSquare sq { st.square sq with slotMsgs := [{ m with hashes := none }] })) ∧
      (x = shadow → own ≠ x → fails (.doubledHashCompare c x)) ∧ fails (.doubledHashTimeout c))) ∧
  (∀ (st : State) (msg : List Nat) (f : State → State) (id u : Nat) (l : Launch), st.launchOf st.cur = some (id, u, l) →
    l.dbl = true →
    (st.me.hashPass = none → (st.sends msg f).stalled = true ∧ (st.sends msg f).me.hashWait = some (Config.messageHash msg)) ∧
    (st.me.hashPass = some true → st.sends msg f = f (st.setMe { st.me with hashPass := none, hashWait := none })) ∧
    (st.me.hashPass = some false → st.gangLoads (squareOf st.cur) = true → st.sends msg f = st.wait) ∧
    (st.me.hashPass = some false → st.gangLoads (squareOf st.cur) = false → st.sends msg f =
      (st.setMe { st.me with hashPass := none, hashWait := none }).gangError (squareOf st.cur) st.cur { code := Cause.mismatch })) ∧
  (∀ (st : State) (id sq u : Nat) (l : Launch), st.launch? id = some l → l.scr = 2 → u < l.count → l.sqIndex u = sq →
    (l.task u).bound = true → (l.task u).ended = false →
    (∀ v < u, l.sqIndex v = sq → (l.task v).bound = false ∨ (l.task v).ended = true) →
    StopReq.preempt true false ∉ (st.core (l.pcore u)).stopReq →
    ∃ t, exec (.replayForceTimeout id sq) st = .next t ∧ t.mem = st.mem ∧
      (((st.heqctl.extractLsb' 48 16).toNat + 65536 - (st.heqctl.extractLsb' 32 16).toNat) % 65536 <
        2 ^ (st.heqctl.extractLsb' 20 4).toNat → t.hostEvents = st.hostEvents ++
        [{ code := 0x06, ctx := BitVec.ofNat 6 l.ctx, arg := BitVec.ofNat 64 (l.logPosOf u),
           clock := st.clock }]) ∧
      ∀ c, (st.core c).task.isSome = true → st.ctxOf c = l.ctx → StopReq.preempt true false ∈ (t.core c).stopReq) ∧
  (∀ (st : State) (c : Nat) (here rest : List Forward) (f : Forward), let k := st.core c
    k.inbox = here ++ f :: rest → (∀ g ∈ here, g.arrived = true) → f.arrived = false →
    exec (.instructionForward c) st = .next (st.setCore c { k with inbox := here ++ { f with arrived := true } :: rest }))

/-- Cold reset, attestation, checkpoints and the registers that the host writes. A cold reset gives the state of reset
with its result code: verification, version against the fuses, self-test and memory in that order; failed buses
leave their layers carved. A report over its nonce uses the next one-time key, none after 2^20. A checkpoint begins
once every context has stopped and a tier port is lit, and sends its blocks with their tags; it ends with CKPT_DONE
once they are acknowledged. A restore replaces memory and local stores by its blocks, or with a bad one loses device
memory and leaves no context runnable. Writes clear XSTAT, error counts and logs, set ESCR with its least period, a
column's rate, a port with accepted values, and AFMW within its limits. The host writes every register of R457 with
an accepted value, and ESLC, HEQB, HEQCTL, HAPB and the grandmaster; BAR0 reads RSIG as zero, and after a failed
boot BOOTST alone. (R66, R109, R110, R111, R112, R229, R249, R251, R256, R263, R264, R474.) The model's choice or
reading, no rule's: a value that the spec leaves open is free (notes/assumptions/3.md); device numbers, places and
poison of checkpoint blocks, and what a burst counts (notes/assumptions/23.md); the numbers of registers for which
the spec gives no offset (notes/assumptions/24.md); what EN does to a port's light and to its third-reset mark
(notes/assumptions/25.md); HEQCTL's wrap and masks (notes/assumptions/63.md). -/
def Obligations.ManagementController : Prop :=
  (∀ (st : State) (e l : Bool) (v f : Nat) (s m : Bool) (bs : List Nat),
    let least := max st.fusedVersion f
    let code := if e = false then 1 else if l = false then 2 else if v < least then 3 else if s = false then 4 else if m = false then 5 else 0
    ∃ t, exec (.coldReset e l v f s m bs) st = .next t ∧ t.bootst.toNat % 256 = code ∧ t.bootFailed = decide (code ≠ 0) ∧
      t.fusedVersion = least ∧ t.coldResets = st.coldResets + 1 ∧ t.lmsIndex = st.lmsIndex ∧
      (∀ a, t.rd a = 0 ∧ t.rdPois a = false) ∧ t.launches = [] ∧ t.queues = [] ∧ t.contexts = [] ∧ t.ports = [] ∧
      (∀ c, (t.core c).task = none ∧ ∀ a, (t.core c).lsRd a = 0) ∧
      (∀ c b i, i < 4 → ((t.core c).layer b).live.getLsbD i = decide (code ≠ 0 ∨ 8 * c + (if b then 4 else 0) + i ∉ bs)) ∧
      ((code ≠ 0 ∨ bs = []) → t.cores = [])) ∧
  (∀ (st : State) (n : Nat), (2 ^ 20 ≤ st.lmsIndex → exec (.attestationReport n) st = .next st) ∧
    (st.lmsIndex < 2 ^ 20 → exec (.attestationReport n) st = .next { st with
      lmsIndex := st.lmsIndex + 1, reports := st.reports ++ [
        { nonce := n, identity := Config.deviceIdentity, stages := Config.measurements st.coldResets, index := st.lmsIndex,
          ecdsa := Config.ecdsaSignature n st.lmsIndex, lms := Config.lmsSignature n st.lmsIndex }] })) ∧
  (∀ st : State, let tier (p : Nat) : Prop := 22 ≤ p ∧ p < 32 ∧ (st.port p).lit = true
    let room := ((st.heqctl.extractLsb' 48 16).toNat + 65536 - (st.heqctl.extractLsb' 32 16).toNat) % 65536 <
      2 ^ (st.heqctl.extractLsb' 20 4).toNat
    let clear := (∀ o ∈ st.outbox, o.dev < 2 ^ 19) ∧ ∀ e ∈ st.peers, 2 ^ 19 ≤ e.1 → e.2.window = []
    let stored (t : State) (p ofs : Nat) (bs : List Byte) : Prop :=
      ({ dev := 2 ^ 19 + p, what := { kind := .store, key := 0, ofs := ofs, size := bs.length, data := bs } } : Outgoing) ∈ t.outbox
    (st.checkpointing = false → st.allStopped = true → (∃ p, tier p) → ∃ t, exec (.checkpoint false) st = .next t ∧
      t.checkpointing = true ∧ t.mem = st.mem ∧ t.cores = st.cores ∧ ∀ b ∈ st.ckptBlocks, b.2.length = 4096 → ∃ p, tier p ∧
        stored t p b.1 b.2 ∧ stored t p (ckptTag b.1) (natBytes 16 (Config.checkpointTag b.1 b.2).toNat)) ∧
    (∀ b ∈ listedBlocks st.mem, (4096 * b, (List.range 4096).map (fun i => st.rd (4096 * b + i))) ∈ st.ckptBlocks) ∧
    ((st.checkpointing = true ∨ st.allStopped = false ∨ ¬∃ p, tier p) → exec (.checkpoint false) st = .next st) ∧
    (st.checkpointing = true → clear → st.inbound = [] → ∃ t, exec (.checkpoint true) st = .next t ∧ t.checkpointing = false ∧
      t.mem = st.mem ∧ t.cores = st.cores ∧ (room → t.hostEvents = st.hostEvents ++
        [{ code := 0x0C, ctx := 0, arg := Config.ckptStatus 0, clock := st.clock }])) ∧
    ((st.checkpointing = false ∨ ¬clear) → exec (.checkpoint true) st = .next st)) ∧
  (∀ (st : State) (blocks : List (Nat × List Byte × BitVec 128)) (broken : Option Nat), st.allStopped = true →
    let i := Instr.checkpointRestore blocks broken
    let good (b : Nat × List Byte × BitVec 128) : Prop :=
      b.2.1.length = 4096 ∧ b.2.2 = Config.checkpointTag b.1 b.2.1 ∧ broken ≠ some b.1
    let byte (y : Nat) : Byte := ((List.find? (fun b => decide (b.1 ≤ y) && decide (y < b.1 + 4096)) blocks).map
      (fun b => b.2.1.getD (y - b.1) 0)).getD 0
    ((∀ b ∈ blocks, good b ∧ b.1 % 4096 = 0) → (blocks.map (·.1)).Nodup → Map.sortedFrom 0 st.cores = true →
      ∃ t, exec i st = .next t ∧ t.lines = [] ∧ (∀ y < 2 ^ 48, t.rd y = byte y ∧ t.rdPois y = false) ∧
        (∀ c < Config.cores, (∀ y < 2 ^ 24, (t.core c).lsRd y = byte (ckptStore c + y)) ∧
          (t.core c).arch = (st.core c).arch ∧ (t.core c).task = (st.core c).task) ∧
        ∀ n < 64, (t.context n).notRunnable = false ∧ (t.context n).unrestorable = false) ∧
    (∀ pre b post, blocks = pre ++ b :: post → (∀ x ∈ pre, good x) → ¬good b → ∃ t, exec i st = .next t ∧ t.cores = st.cores ∧
      t.mem = [] ∧ (∀ n < 64, (t.context n).notRunnable = true) ∧
      (((st.heqctl.extractLsb' 48 16).toNat + 65536 - (st.heqctl.extractLsb' 32 16).toNat) % 65536 <
        2 ^ (st.heqctl.extractLsb' 20 4).toNat → t.hostEvents = st.hostEvents ++
          [{ code := 0x04, ctx := 0, arg := BitVec.ofNat 64 b.1, clock := st.clock }]))) ∧
  (∀ (st : State) (c : Nat), exec (.xstat c) st = .next (st.setCore c { st.core c with xstat := 0 })) ∧
  (∀ (st : State) (lv : Nat) (v : Dword), let b := st.err lv
    let only (i : Instr) (b' : ErrBlock) : Prop := ∃ t, exec i st = .next t ∧ t = { st with errs := t.errs } ∧ t.err lv = b' ∧
      ∀ j, j ≠ lv → t.err j = st.err j
    let least := if lv = 1 ∨ lv = 3 then 16 else 1024
    let logm := if v.extractLsb' 4 2 = 3 then 0 else (v.extractLsb' 4 2).toNat
    only (.ecnt lv) { b with cor := 0, unc := 0 } ∧ only (.elog lv) { b with log := [] } ∧
    ((lv = 1 ∨ lv = 3 ∨ lv = 5) → only (.escr lv v) { b with escr := BitVec.ofNat 64 ((if v.getLsbD 0 then 1 else 0) + 16 * logm +
      2 ^ 16 * max least (v.extractLsb' 16 32).toNat) }) ∧
    (lv ≠ 1 → lv ≠ 3 → lv ≠ 5 → only (.escr lv v) { b with escr := BitVec.ofNat 64 (16 * logm) })) ∧
  (∀ (st : State) (col : Nat) (v : Dword), ∃ t, exec (.ctmp col v) st = .next t ∧ t.mem = st.mem ∧ t.cores = st.cores ∧
    t.column col = { st.column col with rate := (v.extractLsb' 32 12).toNat } ∧ (∀ j, j ≠ col → t.column j = st.column j) ∧
    ((st.column col).milli ≤ 4096000 → (st.ctmp col).toNat % 2 ^ 32 = (st.column col).milli / 1000 ∧
      ((st.column col).rate < 4096 → (st.ctmp col).toNat / 2 ^ 32 = min (st.column col).rate st.ceiling))) ∧
  (∀ (st : State) (p : Nat) (v : Dword), let burst := (v.extractLsb' 16 16).toNat
    let tloss := (v.extractLsb' 32 20).toNat
    let good := v.extractLsb' 52 12 = 0 ∧ v.extractLsb' 2 14 = 0 ∧ 4 ≤ burst ∧ burst ≤ 1024 ∧ 1000 ≤ tloss ∧ tloss ≤ 1000000 ∧
      1024 * burst + 100000 ≤ 100 * tloss
    ((32 ≤ p ∨ ¬good) → exec (.afpcfg p v) st = .next st) ∧
    (p < 32 → good → ∃ t, exec (.afpcfg p v) st = .next t ∧ t.mem = st.mem ∧ t.cores = st.cores ∧ (∀ q, q ≠ p → t.port q = st.port q) ∧
      let k := t.port p
      (∀ j, k.cfg.getLsbD j = if j = 1 then decide (22 ≤ p) else v.getLsbD j) ∧
      k = { st.port p with cfg := k.cfg, down := if v.getLsbD 0 then false else (st.port p).down,
                           lit := if v.getLsbD 0 then (st.port p).lit else false })) ∧
  (∀ (st : State) (v : Dword), let guard := (v.extractLsb' 16 10).toNat
    let window := (v.extractLsb' 0 16).toNat
    let good := v.toNat < 2 ^ 26 ∧ 1 ≤ guard ∧ 10 ≤ window ∧ window ≤ 10000
    (good → exec (.afmw v) st = .next { st with afmw := v }) ∧ (¬good → exec (.afmw v) st = .next st)) ∧
  (∀ (st : State) (n own : Nat) (v : Dword),
    (n < 0x300 → crListed n = true → n ≠ 0x09 → n ≠ 0x0A → n ≠ 0x4C → n ≠ 0x4E → n < 0x90 → crAccepts n v = true →
      ∃ t, exec (.registerWrite n own v) st = .next t ∧ t.readCr own own n = v ∧ t.mem = st.mem ∧
        (∀ i, crListed i = true → i ≠ n → t.readCr own own i = st.readCr own own i) ∧ ∀ c, (t.core c).ls = (st.core c).ls) ∧
    (n < 0x300 → (crListed n = false ∨ n = 0x0A ∨ n = 0x4E ∨ 0xA0 ≤ n ∨ crAccepts n v = false) →
      exec (.registerWrite n own v) st = .next st) ∧
    exec (.registerWrite regHeqb own v) st = .next { st with heqb := v } ∧
    exec (.registerWrite regHapb own v) st = .next { st with hapb := v } ∧
    exec (.registerWrite regGrandmaster own v) st = .next { st with grandmaster := v.toNat } ∧
    (∃ t, exec (.registerWrite regHeqctl own v) st = .next t ∧ t = { st with heqctl := t.heqctl } ∧ ∀ j, t.heqctl.getLsbD j =
      if (20 ≤ j ∧ j < 24) ∨ (32 ≤ j ∧ j < 48) then v.getLsbD j
      else decide ((1 ≤ j ∧ j < 16) ∨ (48 ≤ j ∧ j < 64)) && st.heqctl.getLsbD j) ∧
    (crAccepts 0x4D v = true → ∃ t, exec (.registerWrite regEslc own v) st = .next t ∧ t = { st with errs := t.errs } ∧
      t.err 3 = { st.err 3 with eslc := v } ∧ ∀ j, j ≠ 3 → t.err j = st.err j)) ∧
  (∀ (st : State) (data : List Byte),
    (st.bootFailed = false → exec (.hostAccess { bar := 0, ofs := 0x2000 } false 8 []) st = .next (st.answerHost 0x2000 (List.replicate 8 0)) ∧
      exec (.hostAccess { bar := 0, ofs := 0x2000 } true 8 data) st = exec (.rsig (BitVec.ofNat 64 (bytesNat data))) st) ∧
    (st.bootFailed = true → (∀ ofs, ofs / 8 ≠ regBootst / 8 → exec (.hostAccess { bar := 0, ofs := ofs } false 8 []) st = .next st) ∧
      exec (.hostAccess { bar := 0, ofs := regBootst } false 8 []) st = .next (st.answerHost regBootst (natBytes 8 st.bootst.toNat))))
end

