-- ==== Sys2Proof/Laws/Map.lean ====
section
/-! SUPPORT. Laws of the sparse maps: reads after writes hold of every map, in canonical form or not. -/

namespace Sys2Proof.Map

variable {α : Type}

theorem get_dropLe (d : α) (k : Nat) : ∀ (m : Map α) (j : Nat), k < j → get d (dropLe m k) j = get d m j
  | [], _, _ => rfl
  | (k', v) :: m, j, h => by
    simp only [dropLe, get]
    split
    · rw [get_dropLe d k m j h, if_neg (by omega), if_neg (by omega)]
    · rfl

theorem get_lt_dropLe (d : α) (k : Nat) : ∀ (m : Map α) (j : Nat), j ≤ k → get d (dropLe m k) j = d
  | [], _, _ => rfl
  | (k', v) :: m, j, h => by
    simp only [dropLe]
    split
    · exact get_lt_dropLe d k m j h
    · simp only [get]
      rw [if_neg (by omega), if_pos (by omega)]

/-- A read after `put`: the value put, or what was there. -/
theorem get_put (d : α) (v : α) (k : Nat) : ∀ (m : Map α) (j : Nat),
    get d (put m k v) j = if j = k then v else get d m j
  | [], j => by
    simp only [put, get]
    split <;> simp
  | (k', v') :: m, j => by
    simp only [put]
    split
    · subst k'
      simp only [get]
      by_cases h : j = k
      · simp [h]
      · simp only [h, if_false]
        split
        · rfl
        · exact get_dropLe d k m j (by omega)
    · split
      · simp only [get]
        by_cases h : j = k
        · simp [h]
        · simp only [h, if_false]
          split
          · rw [if_neg (by omega), if_pos (by omega)]
          · rfl
      · simp only [get]
        by_cases h : j = k
        · simp only [h, if_true]
          rw [if_neg (by omega), if_neg (by omega), get_put d v k m k, if_pos rfl]
        · simp only [h, if_false]
          rw [get_put d v k m j, if_neg h]

/-- A read after `erase`: the default at the erased key, and what was there elsewhere. -/
theorem get_erase (d : α) (k : Nat) : ∀ (m : Map α) (j : Nat),
    get d (erase m k) j = if j = k then d else get d m j
  | [], j => by simp [erase, get]
  | (k', v') :: m, j => by
    simp only [erase]
    split
    · subst k'
      by_cases h : j ≤ k
      · rw [get_lt_dropLe d k m j h]
        simp only [get]
        by_cases h' : j = k
        · simp [h']
        · rw [if_neg h', if_neg h', if_pos (by omega)]
      · rw [get_dropLe d k m j (by omega), if_neg (by omega)]
        simp only [get]
        rw [if_neg (by omega), if_neg (by omega)]
    · split
      · by_cases h : j = k
        · simp only [get, h, if_true]
          rw [if_neg (by omega), if_pos (by omega)]
        · simp only [h, if_false]
      · simp only [get]
        by_cases h : j = k
        · simp only [h, if_true]
          rw [if_neg (by omega), if_neg (by omega), get_erase d k m k, if_pos rfl]
        · simp only [h, if_false]
          rw [get_erase d k m j, if_neg h]

/-- A read after `set`. -/
theorem get_set [DecidableEq α] (d : α) (m : Map α) (k : Nat) (v : α) (j : Nat) :
    get d (set d m k v) j = if j = k then v else get d m j := by
  simp only [set]
  split
  · rename_i h; subst h; rw [get_erase]
  · rw [get_put]

@[simp] theorem get_set_same [DecidableEq α] (d : α) (m : Map α) (k : Nat) (v : α) : get d (set d m k v) k = v := by
  simp [get_set]

@[simp] theorem get_put_same (d : α) (m : Map α) (k : Nat) (v : α) : get d (put m k v) k = v := by
  simp [get_put]

theorem get_set_other [DecidableEq α] {d : α} {m : Map α} {k j : Nat} {v : α} (h : j ≠ k) :
    get d (set d m k v) j = get d m j := by
  simp [get_set, h]

theorem get_put_other {d : α} {m : Map α} {k j : Nat} {v : α} (h : j ≠ k) : get d (put m k v) j = get d m j := by
  simp [get_put, h]

@[simp] theorem get_nil (d : α) (k : Nat) : get d [] k = d := rfl

/-- `find?` after `put`. -/
theorem find?_dropLe (k : Nat) : ∀ (m : Map α) (j : Nat), k < j → find? (dropLe m k) j = find? m j
  | [], _, _ => rfl
  | (k', v) :: m, j, h => by
    simp only [dropLe, find?]
    split
    · rw [find?_dropLe k m j h, if_neg (by omega), if_neg (by omega)]
    · rfl

theorem find?_put (v : α) (k : Nat) : ∀ (m : Map α) (j : Nat),
    find? (put m k v) j = if j = k then some v else find? m j
  | [], j => by
    simp only [put, find?]
    split <;> simp
  | (k', v') :: m, j => by
    simp only [put]
    split
    · subst k'
      simp only [find?]
      by_cases h : j = k
      · simp [h]
      · simp only [h, if_false]
        split
        · rfl
        · exact find?_dropLe k m j (by omega)
    · split
      · simp only [find?]
        by_cases h : j = k
        · simp [h]
        · simp only [h, if_false]
          split
          · rw [if_neg (by omega), if_pos (by omega)]
          · rfl
      · simp only [find?]
        by_cases h : j = k
        · simp only [h, if_true]
          rw [if_neg (by omega), if_neg (by omega), find?_put v k m k, if_pos rfl]
        · simp only [h, if_false]
          rw [find?_put v k m j, if_neg h]

/-! ## The sorted form -/

theorem sortedFrom_mono : ∀ {m : Map α} {a b : Nat}, a ≤ b → sortedFrom b m = true → sortedFrom a m = true
  | [], _, _, _, _ => rfl
  | (k, v) :: m, a, b, h, hs => by
    simp only [sortedFrom, Bool.and_eq_true, decide_eq_true_eq] at hs ⊢
    exact ⟨by omega, hs.2⟩

theorem dropLe_sorted : ∀ {m : Map α} {a k : Nat}, sortedFrom a m = true → k < a → dropLe m k = m
  | [], _, _, _, _ => rfl
  | (k', v) :: m, a, k, hs, h => by
    simp only [sortedFrom, Bool.and_eq_true, decide_eq_true_eq] at hs
    simp only [dropLe]
    rw [if_neg (by omega)]

theorem sortedFrom_put (v : α) (k : Nat) : ∀ {m : Map α} {a : Nat}, sortedFrom a m = true → a ≤ k →
    sortedFrom a (put m k v) = true
  | [], a, _, h => by simp [put, sortedFrom, h]
  | (k', v') :: m, a, hs, h => by
    simp only [sortedFrom, Bool.and_eq_true, decide_eq_true_eq] at hs
    simp only [put]
    split
    · subst k'
      rw [dropLe_sorted hs.2 (by omega)]
      simp [sortedFrom, h, hs.2]
    · split
      · simp only [sortedFrom, Bool.and_eq_true, decide_eq_true_eq]
        exact ⟨h, by omega, hs.2⟩
      · simp only [sortedFrom, Bool.and_eq_true, decide_eq_true_eq]
        exact ⟨hs.1, sortedFrom_put v k hs.2 (by omega)⟩

theorem sortedFrom_erase (k : Nat) : ∀ {m : Map α} {a : Nat}, sortedFrom a m = true → sortedFrom a (erase m k) = true
  | [], _, _ => rfl
  | (k', v') :: m, a, hs => by
    have hs' := hs
    simp only [sortedFrom, Bool.and_eq_true, decide_eq_true_eq] at hs
    simp only [erase]
    split
    · subst k'
      rw [dropLe_sorted hs.2 (by omega)]
      exact sortedFrom_mono (by omega) hs.2
    · split
      · exact hs'
      · simp only [sortedFrom, Bool.and_eq_true, decide_eq_true_eq]
        exact ⟨hs.1, sortedFrom_erase k hs.2⟩

theorem sortedFrom_set [DecidableEq α] (d : α) {m : Map α} (k : Nat) (v : α) (hs : sortedFrom 0 m = true) :
    sortedFrom 0 (set d m k v) = true := by
  simp only [set]
  split
  · exact sortedFrom_erase k hs
  · exact sortedFrom_put v k hs (Nat.zero_le k)

theorem mem_dropLe {k : Nat} {e : Nat × α} : ∀ {m : Map α}, e ∈ dropLe m k → e ∈ m
  | [], h => h
  | (k', v) :: m, h => by
    simp only [dropLe] at h
    split at h
    · exact List.mem_cons_of_mem _ (mem_dropLe h)
    · exact h

theorem mem_put {k : Nat} {v : α} {e : Nat × α} : ∀ {m : Map α}, e ∈ put m k v → e = (k, v) ∨ e ∈ m
  | [], h => by simpa [put] using h
  | (k', v') :: m, h => by
    simp only [put] at h
    split at h
    · rcases List.mem_cons.1 h with h | h
      · exact .inl h
      · exact .inr (List.mem_cons_of_mem _ (mem_dropLe h))
    · split at h
      · rcases List.mem_cons.1 h with h | h
        · exact .inl h
        · exact .inr h
      · rcases List.mem_cons.1 h with h | h
        · exact .inr (h ▸ List.mem_cons_self)
        · rcases mem_put h with h | h
          · exact .inl h
          · exact .inr (List.mem_cons_of_mem _ h)

theorem mem_erase {k : Nat} {e : Nat × α} : ∀ {m : Map α}, e ∈ erase m k → e ∈ m
  | [], h => h
  | (k', v') :: m, h => by
    simp only [erase] at h
    split at h
    · exact List.mem_cons_of_mem _ (mem_dropLe h)
    · split at h
      · exact h
      · rcases List.mem_cons.1 h with h | h
        · exact h ▸ List.mem_cons_self
        · exact List.mem_cons_of_mem _ (mem_erase h)

/-- `set` keeps the canonical form. -/
theorem canonical_set [DecidableEq α] (d : α) {m : Map α} (k : Nat) (v : α) (h : canonical d m = true) :
    canonical d (set d m k v) = true := by
  simp only [canonical, Bool.and_eq_true, List.all_eq_true, decide_eq_true_eq] at h ⊢
  refine ⟨sortedFrom_set d k v h.1, fun e he => ?_⟩
  simp only [set] at he
  split at he
  · exact h.2 e (mem_erase he)
  · rename_i hv
    rcases mem_put he with rfl | he
    · exact hv
    · exact h.2 e he

/-! ## A put over a put (the state laws rest on these) -/

theorem dropLe_dropLe {k : Nat} : ∀ (m : Map α), dropLe (dropLe m k) k = dropLe m k
  | [] => rfl
  | (k', v) :: m => by
    simp only [dropLe]
    split
    · exact dropLe_dropLe m
    · rename_i h; simp [dropLe, h]

@[simp] theorem put_put (k : Nat) (v w : α) : ∀ (m : Map α), put (put m k v) k w = put m k w
  | [] => by simp [put, dropLe]
  | (k', v') :: m => by
    simp only [put]
    split
    · simp [put, dropLe_dropLe]
    · split
      · rename_i h1 h2
        simp [put, dropLe, show ¬ k' ≤ k by omega]
      · rename_i h1 h2
        simp only [put, h1, h2, if_false, put_put k v w m]

end Sys2Proof.Map
end

