-- ==== Sys2Proof/Laws/State.lean ====
section
/-! SUPPORT. What each named update of State and of a core leaves in each field: every equation is by unfolding the
update, so that no proof needs to. -/

namespace Sys2Proof.Machine


/-! ## `State.setCore` -/

@[simp] theorem State.setCore_cores (s : State) (c : Nat) (k : Core) : (s.setCore c k).cores = Map.put s.cores c k := rfl
@[simp] theorem State.setCore_squares (s : State) (c : Nat) (k : Core) : (s.setCore c k).squares = s.squares := rfl
@[simp] theorem State.setCore_contexts (s : State) (c : Nat) (k : Core) : (s.setCore c k).contexts = s.contexts := rfl
@[simp] theorem State.setCore_slices (s : State) (c : Nat) (k : Core) : (s.setCore c k).slices = s.slices := rfl
@[simp] theorem State.setCore_lending (s : State) (c : Nat) (k : Core) : (s.setCore c k).lending = s.lending := rfl
@[simp] theorem State.setCore_heldLeaves (s : State) (c : Nat) (k : Core) : (s.setCore c k).heldLeaves = s.heldLeaves := rfl
@[simp] theorem State.setCore_lines (s : State) (c : Nat) (k : Core) : (s.setCore c k).lines = s.lines := rfl
@[simp] theorem State.setCore_mem (s : State) (c : Nat) (k : Core) : (s.setCore c k).mem = s.mem := rfl
@[simp] theorem State.setCore_memPois (s : State) (c : Nat) (k : Core) : (s.setCore c k).memPois = s.memPois := rfl
@[simp] theorem State.setCore_hbmPois (s : State) (c : Nat) (k : Core) : (s.setCore c k).hbmPois = s.hbmPois := rfl
@[simp] theorem State.setCore_lost (s : State) (c : Nat) (k : Core) : (s.setCore c k).lost = s.lost := rfl
@[simp] theorem State.setCore_columns (s : State) (c : Nat) (k : Core) : (s.setCore c k).columns = s.columns := rfl
@[simp] theorem State.setCore_tempoQueue (s : State) (c : Nat) (k : Core) : (s.setCore c k).tempoQueue = s.tempoQueue := rfl
@[simp] theorem State.setCore_ceiling (s : State) (c : Nat) (k : Core) : (s.setCore c k).ceiling = s.ceiling := rfl
@[simp] theorem State.setCore_clock (s : State) (c : Nat) (k : Core) : (s.setCore c k).clock = s.clock := rfl
@[simp] theorem State.setCore_offset (s : State) (c : Nat) (k : Core) : (s.setCore c k).offset = s.offset := rfl
@[simp] theorem State.setCore_queues (s : State) (c : Nat) (k : Core) : (s.setCore c k).queues = s.queues := rfl
@[simp] theorem State.setCore_heads (s : State) (c : Nat) (k : Core) : (s.setCore c k).heads = s.heads := rfl
@[simp] theorem State.setCore_lastQueue (s : State) (c : Nat) (k : Core) : (s.setCore c k).lastQueue = s.lastQueue := rfl
@[simp] theorem State.setCore_launches (s : State) (c : Nat) (k : Core) : (s.setCore c k).launches = s.launches := rfl
@[simp] theorem State.setCore_launchId (s : State) (c : Nat) (k : Core) : (s.setCore c k).launchId = s.launchId := rfl
@[simp] theorem State.setCore_rehomed (s : State) (c : Nat) (k : Core) : (s.setCore c k).rehomed = s.rehomed := rfl
@[simp] theorem State.setCore_moving (s : State) (c : Nat) (k : Core) : (s.setCore c k).moving = s.moving := rfl
@[simp] theorem State.setCore_invals (s : State) (c : Nat) (k : Core) : (s.setCore c k).invals = s.invals := rfl
@[simp] theorem State.setCore_msgs (s : State) (c : Nat) (k : Core) : (s.setCore c k).msgs = s.msgs := rfl
@[simp] theorem State.setCore_msgId (s : State) (c : Nat) (k : Core) : (s.setCore c k).msgId = s.msgId := rfl
@[simp] theorem State.setCore_reds (s : State) (c : Nat) (k : Core) : (s.setCore c k).reds = s.reds := rfl
@[simp] theorem State.setCore_redId (s : State) (c : Nat) (k : Core) : (s.setCore c k).redId = s.redId := rfl
@[simp] theorem State.setCore_undo (s : State) (c : Nat) (k : Core) : (s.setCore c k).undo = s.undo := rfl
@[simp] theorem State.setCore_ports (s : State) (c : Nat) (k : Core) : (s.setCore c k).ports = s.ports := rfl
@[simp] theorem State.setCore_peers (s : State) (c : Nat) (k : Core) : (s.setCore c k).peers = s.peers := rfl
@[simp] theorem State.setCore_afmw (s : State) (c : Nat) (k : Core) : (s.setCore c k).afmw = s.afmw := rfl
@[simp] theorem State.setCore_errs (s : State) (c : Nat) (k : Core) : (s.setCore c k).errs = s.errs := rfl
@[simp] theorem State.setCore_heqb (s : State) (c : Nat) (k : Core) : (s.setCore c k).heqb = s.heqb := rfl
@[simp] theorem State.setCore_heqctl (s : State) (c : Nat) (k : Core) : (s.setCore c k).heqctl = s.heqctl := rfl
@[simp] theorem State.setCore_hapb (s : State) (c : Nat) (k : Core) : (s.setCore c k).hapb = s.hapb := rfl
@[simp] theorem State.setCore_bootst (s : State) (c : Nat) (k : Core) : (s.setCore c k).bootst = s.bootst := rfl
@[simp] theorem State.setCore_bootFailed (s : State) (c : Nat) (k : Core) : (s.setCore c k).bootFailed = s.bootFailed := rfl
@[simp] theorem State.setCore_fusedVersion (s : State) (c : Nat) (k : Core) : (s.setCore c k).fusedVersion = s.fusedVersion := rfl
@[simp] theorem State.setCore_hostEvents (s : State) (c : Nat) (k : Core) : (s.setCore c k).hostEvents = s.hostEvents := rfl
@[simp] theorem State.setCore_outbox (s : State) (c : Nat) (k : Core) : (s.setCore c k).outbox = s.outbox := rfl
@[simp] theorem State.setCore_sentFrames (s : State) (c : Nat) (k : Core) : (s.setCore c k).sentFrames = s.sentFrames := rfl
@[simp] theorem State.setCore_delivered (s : State) (c : Nat) (k : Core) : (s.setCore c k).delivered = s.delivered := rfl
@[simp] theorem State.setCore_sentAcks (s : State) (c : Nat) (k : Core) : (s.setCore c k).sentAcks = s.sentAcks := rfl
@[simp] theorem State.setCore_sentTokens (s : State) (c : Nat) (k : Core) : (s.setCore c k).sentTokens = s.sentTokens := rfl
@[simp] theorem State.setCore_inbound (s : State) (c : Nat) (k : Core) : (s.setCore c k).inbound = s.inbound := rfl
@[simp] theorem State.setCore_inboundNo (s : State) (c : Nat) (k : Core) : (s.setCore c k).inboundNo = s.inboundNo := rfl
@[simp] theorem State.setCore_msix (s : State) (c : Nat) (k : Core) : (s.setCore c k).msix = s.msix := rfl
@[simp] theorem State.setCore_grandmaster (s : State) (c : Nat) (k : Core) : (s.setCore c k).grandmaster = s.grandmaster := rfl
@[simp] theorem State.setCore_timeSource (s : State) (c : Nat) (k : Core) : (s.setCore c k).timeSource = s.timeSource := rfl
@[simp] theorem State.setCore_sentSyncs (s : State) (c : Nat) (k : Core) : (s.setCore c k).sentSyncs = s.sentSyncs := rfl
@[simp] theorem State.setCore_sentGrants (s : State) (c : Nat) (k : Core) : (s.setCore c k).sentGrants = s.sentGrants := rfl
@[simp] theorem State.setCore_exports (s : State) (c : Nat) (k : Core) : (s.setCore c k).exports = s.exports := rfl
@[simp] theorem State.setCore_admitted (s : State) (c : Nat) (k : Core) : (s.setCore c k).admitted = s.admitted := rfl
@[simp] theorem State.setCore_joined (s : State) (c : Nat) (k : Core) : (s.setCore c k).joined = s.joined := rfl
@[simp] theorem State.setCore_saveSeq (s : State) (c : Nat) (k : Core) : (s.setCore c k).saveSeq = s.saveSeq := rfl
@[simp] theorem State.setCore_coldResets (s : State) (c : Nat) (k : Core) : (s.setCore c k).coldResets = s.coldResets := rfl
@[simp] theorem State.setCore_lmsIndex (s : State) (c : Nat) (k : Core) : (s.setCore c k).lmsIndex = s.lmsIndex := rfl
@[simp] theorem State.setCore_reports (s : State) (c : Nat) (k : Core) : (s.setCore c k).reports = s.reports := rfl
@[simp] theorem State.setCore_checkpointing (s : State) (c : Nat) (k : Core) : (s.setCore c k).checkpointing = s.checkpointing := rfl
@[simp] theorem State.setCore_probes (s : State) (c : Nat) (k : Core) : (s.setCore c k).probes = s.probes := rfl
@[simp] theorem State.setCore_probeId (s : State) (c : Nat) (k : Core) : (s.setCore c k).probeId = s.probeId := rfl
@[simp] theorem State.setCore_reserves (s : State) (c : Nat) (k : Core) : (s.setCore c k).reserves = s.reserves := rfl
@[simp] theorem State.setCore_failedLinks (s : State) (c : Nat) (k : Core) : (s.setCore c k).failedLinks = s.failedLinks := rfl
@[simp] theorem State.setCore_agenda (s : State) (c : Nat) (k : Core) : (s.setCore c k).agenda = s.agenda := rfl
@[simp] theorem State.setCore_cur (s : State) (c : Nat) (k : Core) : (s.setCore c k).cur = s.cur := rfl
@[simp] theorem State.setCore_turns (s : State) (c : Nat) (k : Core) : (s.setCore c k).turns = s.turns := rfl
@[simp] theorem State.setCore_stalled (s : State) (c : Nat) (k : Core) : (s.setCore c k).stalled = s.stalled := rfl
@[simp] theorem State.setCore_delays (s : State) (c : Nat) (k : Core) : (s.setCore c k).delays = s.delays := rfl
@[simp] theorem State.setCore_errors (s : State) (c : Nat) (k : Core) : (s.setCore c k).errors = s.errors := rfl
@[simp] theorem State.setCore_shadowErrors (s : State) (c : Nat) (k : Core) : (s.setCore c k).shadowErrors = s.shadowErrors := rfl
@[simp] theorem State.setCore_peeks (s : State) (c : Nat) (k : Core) : (s.setCore c k).peeks = s.peeks := rfl
@[simp] theorem State.setCore_freeCount (s : State) (c : Nat) (k : Core) : (s.setCore c k).freeCount = s.freeCount := rfl

/-! ## `State.setMe` -/

@[simp] theorem State.setMe_cores (s : State) (k : Core) : (s.setMe k).cores = Map.put s.cores s.cur k := rfl
@[simp] theorem State.setMe_squares (s : State) (k : Core) : (s.setMe k).squares = s.squares := rfl
@[simp] theorem State.setMe_contexts (s : State) (k : Core) : (s.setMe k).contexts = s.contexts := rfl
@[simp] theorem State.setMe_slices (s : State) (k : Core) : (s.setMe k).slices = s.slices := rfl
@[simp] theorem State.setMe_lending (s : State) (k : Core) : (s.setMe k).lending = s.lending := rfl
@[simp] theorem State.setMe_heldLeaves (s : State) (k : Core) : (s.setMe k).heldLeaves = s.heldLeaves := rfl
@[simp] theorem State.setMe_lines (s : State) (k : Core) : (s.setMe k).lines = s.lines := rfl
@[simp] theorem State.setMe_mem (s : State) (k : Core) : (s.setMe k).mem = s.mem := rfl
@[simp] theorem State.setMe_memPois (s : State) (k : Core) : (s.setMe k).memPois = s.memPois := rfl
@[simp] theorem State.setMe_hbmPois (s : State) (k : Core) : (s.setMe k).hbmPois = s.hbmPois := rfl
@[simp] theorem State.setMe_lost (s : State) (k : Core) : (s.setMe k).lost = s.lost := rfl
@[simp] theorem State.setMe_columns (s : State) (k : Core) : (s.setMe k).columns = s.columns := rfl
@[simp] theorem State.setMe_tempoQueue (s : State) (k : Core) : (s.setMe k).tempoQueue = s.tempoQueue := rfl
@[simp] theorem State.setMe_ceiling (s : State) (k : Core) : (s.setMe k).ceiling = s.ceiling := rfl
@[simp] theorem State.setMe_clock (s : State) (k : Core) : (s.setMe k).clock = s.clock := rfl
@[simp] theorem State.setMe_offset (s : State) (k : Core) : (s.setMe k).offset = s.offset := rfl
@[simp] theorem State.setMe_queues (s : State) (k : Core) : (s.setMe k).queues = s.queues := rfl
@[simp] theorem State.setMe_heads (s : State) (k : Core) : (s.setMe k).heads = s.heads := rfl
@[simp] theorem State.setMe_lastQueue (s : State) (k : Core) : (s.setMe k).lastQueue = s.lastQueue := rfl
@[simp] theorem State.setMe_launches (s : State) (k : Core) : (s.setMe k).launches = s.launches := rfl
@[simp] theorem State.setMe_launchId (s : State) (k : Core) : (s.setMe k).launchId = s.launchId := rfl
@[simp] theorem State.setMe_rehomed (s : State) (k : Core) : (s.setMe k).rehomed = s.rehomed := rfl
@[simp] theorem State.setMe_moving (s : State) (k : Core) : (s.setMe k).moving = s.moving := rfl
@[simp] theorem State.setMe_invals (s : State) (k : Core) : (s.setMe k).invals = s.invals := rfl
@[simp] theorem State.setMe_msgs (s : State) (k : Core) : (s.setMe k).msgs = s.msgs := rfl
@[simp] theorem State.setMe_msgId (s : State) (k : Core) : (s.setMe k).msgId = s.msgId := rfl
@[simp] theorem State.setMe_reds (s : State) (k : Core) : (s.setMe k).reds = s.reds := rfl
@[simp] theorem State.setMe_redId (s : State) (k : Core) : (s.setMe k).redId = s.redId := rfl
@[simp] theorem State.setMe_undo (s : State) (k : Core) : (s.setMe k).undo = s.undo := rfl
@[simp] theorem State.setMe_ports (s : State) (k : Core) : (s.setMe k).ports = s.ports := rfl
@[simp] theorem State.setMe_peers (s : State) (k : Core) : (s.setMe k).peers = s.peers := rfl
@[simp] theorem State.setMe_afmw (s : State) (k : Core) : (s.setMe k).afmw = s.afmw := rfl
@[simp] theorem State.setMe_errs (s : State) (k : Core) : (s.setMe k).errs = s.errs := rfl
@[simp] theorem State.setMe_heqb (s : State) (k : Core) : (s.setMe k).heqb = s.heqb := rfl
@[simp] theorem State.setMe_heqctl (s : State) (k : Core) : (s.setMe k).heqctl = s.heqctl := rfl
@[simp] theorem State.setMe_hapb (s : State) (k : Core) : (s.setMe k).hapb = s.hapb := rfl
@[simp] theorem State.setMe_bootst (s : State) (k : Core) : (s.setMe k).bootst = s.bootst := rfl
@[simp] theorem State.setMe_bootFailed (s : State) (k : Core) : (s.setMe k).bootFailed = s.bootFailed := rfl
@[simp] theorem State.setMe_fusedVersion (s : State) (k : Core) : (s.setMe k).fusedVersion = s.fusedVersion := rfl
@[simp] theorem State.setMe_hostEvents (s : State) (k : Core) : (s.setMe k).hostEvents = s.hostEvents := rfl
@[simp] theorem State.setMe_outbox (s : State) (k : Core) : (s.setMe k).outbox = s.outbox := rfl
@[simp] theorem State.setMe_sentFrames (s : State) (k : Core) : (s.setMe k).sentFrames = s.sentFrames := rfl
@[simp] theorem State.setMe_delivered (s : State) (k : Core) : (s.setMe k).delivered = s.delivered := rfl
@[simp] theorem State.setMe_sentAcks (s : State) (k : Core) : (s.setMe k).sentAcks = s.sentAcks := rfl
@[simp] theorem State.setMe_sentTokens (s : State) (k : Core) : (s.setMe k).sentTokens = s.sentTokens := rfl
@[simp] theorem State.setMe_inbound (s : State) (k : Core) : (s.setMe k).inbound = s.inbound := rfl
@[simp] theorem State.setMe_inboundNo (s : State) (k : Core) : (s.setMe k).inboundNo = s.inboundNo := rfl
@[simp] theorem State.setMe_msix (s : State) (k : Core) : (s.setMe k).msix = s.msix := rfl
@[simp] theorem State.setMe_grandmaster (s : State) (k : Core) : (s.setMe k).grandmaster = s.grandmaster := rfl
@[simp] theorem State.setMe_timeSource (s : State) (k : Core) : (s.setMe k).timeSource = s.timeSource := rfl
@[simp] theorem State.setMe_sentSyncs (s : State) (k : Core) : (s.setMe k).sentSyncs = s.sentSyncs := rfl
@[simp] theorem State.setMe_sentGrants (s : State) (k : Core) : (s.setMe k).sentGrants = s.sentGrants := rfl
@[simp] theorem State.setMe_exports (s : State) (k : Core) : (s.setMe k).exports = s.exports := rfl
@[simp] theorem State.setMe_admitted (s : State) (k : Core) : (s.setMe k).admitted = s.admitted := rfl
@[simp] theorem State.setMe_joined (s : State) (k : Core) : (s.setMe k).joined = s.joined := rfl
@[simp] theorem State.setMe_saveSeq (s : State) (k : Core) : (s.setMe k).saveSeq = s.saveSeq := rfl
@[simp] theorem State.setMe_coldResets (s : State) (k : Core) : (s.setMe k).coldResets = s.coldResets := rfl
@[simp] theorem State.setMe_lmsIndex (s : State) (k : Core) : (s.setMe k).lmsIndex = s.lmsIndex := rfl
@[simp] theorem State.setMe_reports (s : State) (k : Core) : (s.setMe k).reports = s.reports := rfl
@[simp] theorem State.setMe_checkpointing (s : State) (k : Core) : (s.setMe k).checkpointing = s.checkpointing := rfl
@[simp] theorem State.setMe_probes (s : State) (k : Core) : (s.setMe k).probes = s.probes := rfl
@[simp] theorem State.setMe_probeId (s : State) (k : Core) : (s.setMe k).probeId = s.probeId := rfl
@[simp] theorem State.setMe_reserves (s : State) (k : Core) : (s.setMe k).reserves = s.reserves := rfl
@[simp] theorem State.setMe_failedLinks (s : State) (k : Core) : (s.setMe k).failedLinks = s.failedLinks := rfl
@[simp] theorem State.setMe_agenda (s : State) (k : Core) : (s.setMe k).agenda = s.agenda := rfl
@[simp] theorem State.setMe_cur (s : State) (k : Core) : (s.setMe k).cur = s.cur := rfl
@[simp] theorem State.setMe_turns (s : State) (k : Core) : (s.setMe k).turns = s.turns := rfl
@[simp] theorem State.setMe_stalled (s : State) (k : Core) : (s.setMe k).stalled = s.stalled := rfl
@[simp] theorem State.setMe_delays (s : State) (k : Core) : (s.setMe k).delays = s.delays := rfl
@[simp] theorem State.setMe_errors (s : State) (k : Core) : (s.setMe k).errors = s.errors := rfl
@[simp] theorem State.setMe_shadowErrors (s : State) (k : Core) : (s.setMe k).shadowErrors = s.shadowErrors := rfl
@[simp] theorem State.setMe_peeks (s : State) (k : Core) : (s.setMe k).peeks = s.peeks := rfl
@[simp] theorem State.setMe_freeCount (s : State) (k : Core) : (s.setMe k).freeCount = s.freeCount := rfl

/-! ## `State.setSquare` -/

@[simp] theorem State.setSquare_cores (s : State) (q : Nat) (k : Square) : (s.setSquare q k).cores = s.cores := rfl
@[simp] theorem State.setSquare_squares (s : State) (q : Nat) (k : Square) : (s.setSquare q k).squares = Map.put s.squares q k := rfl
@[simp] theorem State.setSquare_contexts (s : State) (q : Nat) (k : Square) : (s.setSquare q k).contexts = s.contexts := rfl
@[simp] theorem State.setSquare_slices (s : State) (q : Nat) (k : Square) : (s.setSquare q k).slices = s.slices := rfl
@[simp] theorem State.setSquare_lending (s : State) (q : Nat) (k : Square) : (s.setSquare q k).lending = s.lending := rfl
@[simp] theorem State.setSquare_heldLeaves (s : State) (q : Nat) (k : Square) : (s.setSquare q k).heldLeaves = s.heldLeaves := rfl
@[simp] theorem State.setSquare_lines (s : State) (q : Nat) (k : Square) : (s.setSquare q k).lines = s.lines := rfl
@[simp] theorem State.setSquare_mem (s : State) (q : Nat) (k : Square) : (s.setSquare q k).mem = s.mem := rfl
@[simp] theorem State.setSquare_memPois (s : State) (q : Nat) (k : Square) : (s.setSquare q k).memPois = s.memPois := rfl
@[simp] theorem State.setSquare_hbmPois (s : State) (q : Nat) (k : Square) : (s.setSquare q k).hbmPois = s.hbmPois := rfl
@[simp] theorem State.setSquare_lost (s : State) (q : Nat) (k : Square) : (s.setSquare q k).lost = s.lost := rfl
@[simp] theorem State.setSquare_columns (s : State) (q : Nat) (k : Square) : (s.setSquare q k).columns = s.columns := rfl
@[simp] theorem State.setSquare_tempoQueue (s : State) (q : Nat) (k : Square) : (s.setSquare q k).tempoQueue = s.tempoQueue := rfl
@[simp] theorem State.setSquare_ceiling (s : State) (q : Nat) (k : Square) : (s.setSquare q k).ceiling = s.ceiling := rfl
@[simp] theorem State.setSquare_clock (s : State) (q : Nat) (k : Square) : (s.setSquare q k).clock = s.clock := rfl
@[simp] theorem State.setSquare_offset (s : State) (q : Nat) (k : Square) : (s.setSquare q k).offset = s.offset := rfl
@[simp] theorem State.setSquare_queues (s : State) (q : Nat) (k : Square) : (s.setSquare q k).queues = s.queues := rfl
@[simp] theorem State.setSquare_heads (s : State) (q : Nat) (k : Square) : (s.setSquare q k).heads = s.heads := rfl
@[simp] theorem State.setSquare_lastQueue (s : State) (q : Nat) (k : Square) : (s.setSquare q k).lastQueue = s.lastQueue := rfl
@[simp] theorem State.setSquare_launches (s : State) (q : Nat) (k : Square) : (s.setSquare q k).launches = s.launches := rfl
@[simp] theorem State.setSquare_launchId (s : State) (q : Nat) (k : Square) : (s.setSquare q k).launchId = s.launchId := rfl
@[simp] theorem State.setSquare_rehomed (s : State) (q : Nat) (k : Square) : (s.setSquare q k).rehomed = s.rehomed := rfl
@[simp] theorem State.setSquare_moving (s : State) (q : Nat) (k : Square) : (s.setSquare q k).moving = s.moving := rfl
@[simp] theorem State.setSquare_invals (s : State) (q : Nat) (k : Square) : (s.setSquare q k).invals = s.invals := rfl
@[simp] theorem State.setSquare_msgs (s : State) (q : Nat) (k : Square) : (s.setSquare q k).msgs = s.msgs := rfl
@[simp] theorem State.setSquare_msgId (s : State) (q : Nat) (k : Square) : (s.setSquare q k).msgId = s.msgId := rfl
@[simp] theorem State.setSquare_reds (s : State) (q : Nat) (k : Square) : (s.setSquare q k).reds = s.reds := rfl
@[simp] theorem State.setSquare_redId (s : State) (q : Nat) (k : Square) : (s.setSquare q k).redId = s.redId := rfl
@[simp] theorem State.setSquare_undo (s : State) (q : Nat) (k : Square) : (s.setSquare q k).undo = s.undo := rfl
@[simp] theorem State.setSquare_ports (s : State) (q : Nat) (k : Square) : (s.setSquare q k).ports = s.ports := rfl
@[simp] theorem State.setSquare_peers (s : State) (q : Nat) (k : Square) : (s.setSquare q k).peers = s.peers := rfl
@[simp] theorem State.setSquare_afmw (s : State) (q : Nat) (k : Square) : (s.setSquare q k).afmw = s.afmw := rfl
@[simp] theorem State.setSquare_errs (s : State) (q : Nat) (k : Square) : (s.setSquare q k).errs = s.errs := rfl
@[simp] theorem State.setSquare_heqb (s : State) (q : Nat) (k : Square) : (s.setSquare q k).heqb = s.heqb := rfl
@[simp] theorem State.setSquare_heqctl (s : State) (q : Nat) (k : Square) : (s.setSquare q k).heqctl = s.heqctl := rfl
@[simp] theorem State.setSquare_hapb (s : State) (q : Nat) (k : Square) : (s.setSquare q k).hapb = s.hapb := rfl
@[simp] theorem State.setSquare_bootst (s : State) (q : Nat) (k : Square) : (s.setSquare q k).bootst = s.bootst := rfl
@[simp] theorem State.setSquare_bootFailed (s : State) (q : Nat) (k : Square) : (s.setSquare q k).bootFailed = s.bootFailed := rfl
@[simp] theorem State.setSquare_fusedVersion (s : State) (q : Nat) (k : Square) : (s.setSquare q k).fusedVersion = s.fusedVersion := rfl
@[simp] theorem State.setSquare_hostEvents (s : State) (q : Nat) (k : Square) : (s.setSquare q k).hostEvents = s.hostEvents := rfl
@[simp] theorem State.setSquare_outbox (s : State) (q : Nat) (k : Square) : (s.setSquare q k).outbox = s.outbox := rfl
@[simp] theorem State.setSquare_sentFrames (s : State) (q : Nat) (k : Square) : (s.setSquare q k).sentFrames = s.sentFrames := rfl
@[simp] theorem State.setSquare_delivered (s : State) (q : Nat) (k : Square) : (s.setSquare q k).delivered = s.delivered := rfl
@[simp] theorem State.setSquare_sentAcks (s : State) (q : Nat) (k : Square) : (s.setSquare q k).sentAcks = s.sentAcks := rfl
@[simp] theorem State.setSquare_sentTokens (s : State) (q : Nat) (k : Square) : (s.setSquare q k).sentTokens = s.sentTokens := rfl
@[simp] theorem State.setSquare_inbound (s : State) (q : Nat) (k : Square) : (s.setSquare q k).inbound = s.inbound := rfl
@[simp] theorem State.setSquare_inboundNo (s : State) (q : Nat) (k : Square) : (s.setSquare q k).inboundNo = s.inboundNo := rfl
@[simp] theorem State.setSquare_msix (s : State) (q : Nat) (k : Square) : (s.setSquare q k).msix = s.msix := rfl
@[simp] theorem State.setSquare_grandmaster (s : State) (q : Nat) (k : Square) : (s.setSquare q k).grandmaster = s.grandmaster := rfl
@[simp] theorem State.setSquare_timeSource (s : State) (q : Nat) (k : Square) : (s.setSquare q k).timeSource = s.timeSource := rfl
@[simp] theorem State.setSquare_sentSyncs (s : State) (q : Nat) (k : Square) : (s.setSquare q k).sentSyncs = s.sentSyncs := rfl
@[simp] theorem State.setSquare_sentGrants (s : State) (q : Nat) (k : Square) : (s.setSquare q k).sentGrants = s.sentGrants := rfl
@[simp] theorem State.setSquare_exports (s : State) (q : Nat) (k : Square) : (s.setSquare q k).exports = s.exports := rfl
@[simp] theorem State.setSquare_admitted (s : State) (q : Nat) (k : Square) : (s.setSquare q k).admitted = s.admitted := rfl
@[simp] theorem State.setSquare_joined (s : State) (q : Nat) (k : Square) : (s.setSquare q k).joined = s.joined := rfl
@[simp] theorem State.setSquare_saveSeq (s : State) (q : Nat) (k : Square) : (s.setSquare q k).saveSeq = s.saveSeq := rfl
@[simp] theorem State.setSquare_coldResets (s : State) (q : Nat) (k : Square) : (s.setSquare q k).coldResets = s.coldResets := rfl
@[simp] theorem State.setSquare_lmsIndex (s : State) (q : Nat) (k : Square) : (s.setSquare q k).lmsIndex = s.lmsIndex := rfl
@[simp] theorem State.setSquare_reports (s : State) (q : Nat) (k : Square) : (s.setSquare q k).reports = s.reports := rfl
@[simp] theorem State.setSquare_checkpointing (s : State) (q : Nat) (k : Square) : (s.setSquare q k).checkpointing = s.checkpointing := rfl
@[simp] theorem State.setSquare_probes (s : State) (q : Nat) (k : Square) : (s.setSquare q k).probes = s.probes := rfl
@[simp] theorem State.setSquare_probeId (s : State) (q : Nat) (k : Square) : (s.setSquare q k).probeId = s.probeId := rfl
@[simp] theorem State.setSquare_reserves (s : State) (q : Nat) (k : Square) : (s.setSquare q k).reserves = s.reserves := rfl
@[simp] theorem State.setSquare_failedLinks (s : State) (q : Nat) (k : Square) : (s.setSquare q k).failedLinks = s.failedLinks := rfl
@[simp] theorem State.setSquare_agenda (s : State) (q : Nat) (k : Square) : (s.setSquare q k).agenda = s.agenda := rfl
@[simp] theorem State.setSquare_cur (s : State) (q : Nat) (k : Square) : (s.setSquare q k).cur = s.cur := rfl
@[simp] theorem State.setSquare_turns (s : State) (q : Nat) (k : Square) : (s.setSquare q k).turns = s.turns := rfl
@[simp] theorem State.setSquare_stalled (s : State) (q : Nat) (k : Square) : (s.setSquare q k).stalled = s.stalled := rfl
@[simp] theorem State.setSquare_delays (s : State) (q : Nat) (k : Square) : (s.setSquare q k).delays = s.delays := rfl
@[simp] theorem State.setSquare_errors (s : State) (q : Nat) (k : Square) : (s.setSquare q k).errors = s.errors := rfl
@[simp] theorem State.setSquare_shadowErrors (s : State) (q : Nat) (k : Square) : (s.setSquare q k).shadowErrors = s.shadowErrors := rfl
@[simp] theorem State.setSquare_peeks (s : State) (q : Nat) (k : Square) : (s.setSquare q k).peeks = s.peeks := rfl
@[simp] theorem State.setSquare_freeCount (s : State) (q : Nat) (k : Square) : (s.setSquare q k).freeCount = s.freeCount := rfl

/-! ## `State.modContext` -/

@[simp] theorem State.modContext_cores (s : State) (n : Nat) (f : Context → Context) : (s.modContext n f).cores = s.cores := rfl
@[simp] theorem State.modContext_squares (s : State) (n : Nat) (f : Context → Context) : (s.modContext n f).squares = s.squares := rfl
@[simp] theorem State.modContext_contexts (s : State) (n : Nat) (f : Context → Context) : (s.modContext n f).contexts = Map.put s.contexts n (f (s.context n)) := rfl
@[simp] theorem State.modContext_slices (s : State) (n : Nat) (f : Context → Context) : (s.modContext n f).slices = s.slices := rfl
@[simp] theorem State.modContext_lending (s : State) (n : Nat) (f : Context → Context) : (s.modContext n f).lending = s.lending := rfl
@[simp] theorem State.modContext_heldLeaves (s : State) (n : Nat) (f : Context → Context) : (s.modContext n f).heldLeaves = s.heldLeaves := rfl
@[simp] theorem State.modContext_lines (s : State) (n : Nat) (f : Context → Context) : (s.modContext n f).lines = s.lines := rfl
@[simp] theorem State.modContext_mem (s : State) (n : Nat) (f : Context → Context) : (s.modContext n f).mem = s.mem := rfl
@[simp] theorem State.modContext_memPois (s : State) (n : Nat) (f : Context → Context) : (s.modContext n f).memPois = s.memPois := rfl
@[simp] theorem State.modContext_hbmPois (s : State) (n : Nat) (f : Context → Context) : (s.modContext n f).hbmPois = s.hbmPois := rfl
@[simp] theorem State.modContext_lost (s : State) (n : Nat) (f : Context → Context) : (s.modContext n f).lost = s.lost := rfl
@[simp] theorem State.modContext_columns (s : State) (n : Nat) (f : Context → Context) : (s.modContext n f).columns = s.columns := rfl
@[simp] theorem State.modContext_tempoQueue (s : State) (n : Nat) (f : Context → Context) : (s.modContext n f).tempoQueue = s.tempoQueue := rfl
@[simp] theorem State.modContext_ceiling (s : State) (n : Nat) (f : Context → Context) : (s.modContext n f).ceiling = s.ceiling := rfl
@[simp] theorem State.modContext_clock (s : State) (n : Nat) (f : Context → Context) : (s.modContext n f).clock = s.clock := rfl
@[simp] theorem State.modContext_offset (s : State) (n : Nat) (f : Context → Context) : (s.modContext n f).offset = s.offset := rfl
@[simp] theorem State.modContext_queues (s : State) (n : Nat) (f : Context → Context) : (s.modContext n f).queues = s.queues := rfl
@[simp] theorem State.modContext_heads (s : State) (n : Nat) (f : Context → Context) : (s.modContext n f).heads = s.heads := rfl
@[simp] theorem State.modContext_lastQueue (s : State) (n : Nat) (f : Context → Context) : (s.modContext n f).lastQueue = s.lastQueue := rfl
@[simp] theorem State.modContext_launches (s : State) (n : Nat) (f : Context → Context) : (s.modContext n f).launches = s.launches := rfl
@[simp] theorem State.modContext_launchId (s : State) (n : Nat) (f : Context → Context) : (s.modContext n f).launchId = s.launchId := rfl
@[simp] theorem State.modContext_rehomed (s : State) (n : Nat) (f : Context → Context) : (s.modContext n f).rehomed = s.rehomed := rfl
@[simp] theorem State.modContext_moving (s : State) (n : Nat) (f : Context → Context) : (s.modContext n f).moving = s.moving := rfl
@[simp] theorem State.modContext_invals (s : State) (n : Nat) (f : Context → Context) : (s.modContext n f).invals = s.invals := rfl
@[simp] theorem State.modContext_msgs (s : State) (n : Nat) (f : Context → Context) : (s.modContext n f).msgs = s.msgs := rfl
@[simp] theorem State.modContext_msgId (s : State) (n : Nat) (f : Context → Context) : (s.modContext n f).msgId = s.msgId := rfl
@[simp] theorem State.modContext_reds (s : State) (n : Nat) (f : Context → Context) : (s.modContext n f).reds = s.reds := rfl
@[simp] theorem State.modContext_redId (s : State) (n : Nat) (f : Context → Context) : (s.modContext n f).redId = s.redId := rfl
@[simp] theorem State.modContext_undo (s : State) (n : Nat) (f : Context → Context) : (s.modContext n f).undo = s.undo := rfl
@[simp] theorem State.modContext_ports (s : State) (n : Nat) (f : Context → Context) : (s.modContext n f).ports = s.ports := rfl
@[simp] theorem State.modContext_peers (s : State) (n : Nat) (f : Context → Context) : (s.modContext n f).peers = s.peers := rfl
@[simp] theorem State.modContext_afmw (s : State) (n : Nat) (f : Context → Context) : (s.modContext n f).afmw = s.afmw := rfl
@[simp] theorem State.modContext_errs (s : State) (n : Nat) (f : Context → Context) : (s.modContext n f).errs = s.errs := rfl
@[simp] theorem State.modContext_heqb (s : State) (n : Nat) (f : Context → Context) : (s.modContext n f).heqb = s.heqb := rfl
@[simp] theorem State.modContext_heqctl (s : State) (n : Nat) (f : Context → Context) : (s.modContext n f).heqctl = s.heqctl := rfl
@[simp] theorem State.modContext_hapb (s : State) (n : Nat) (f : Context → Context) : (s.modContext n f).hapb = s.hapb := rfl
@[simp] theorem State.modContext_bootst (s : State) (n : Nat) (f : Context → Context) : (s.modContext n f).bootst = s.bootst := rfl
@[simp] theorem State.modContext_bootFailed (s : State) (n : Nat) (f : Context → Context) : (s.modContext n f).bootFailed = s.bootFailed := rfl
@[simp] theorem State.modContext_fusedVersion (s : State) (n : Nat) (f : Context → Context) : (s.modContext n f).fusedVersion = s.fusedVersion := rfl
@[simp] theorem State.modContext_hostEvents (s : State) (n : Nat) (f : Context → Context) : (s.modContext n f).hostEvents = s.hostEvents := rfl
@[simp] theorem State.modContext_outbox (s : State) (n : Nat) (f : Context → Context) : (s.modContext n f).outbox = s.outbox := rfl
@[simp] theorem State.modContext_sentFrames (s : State) (n : Nat) (f : Context → Context) : (s.modContext n f).sentFrames = s.sentFrames := rfl
@[simp] theorem State.modContext_delivered (s : State) (n : Nat) (f : Context → Context) : (s.modContext n f).delivered = s.delivered := rfl
@[simp] theorem State.modContext_sentAcks (s : State) (n : Nat) (f : Context → Context) : (s.modContext n f).sentAcks = s.sentAcks := rfl
@[simp] theorem State.modContext_sentTokens (s : State) (n : Nat) (f : Context → Context) : (s.modContext n f).sentTokens = s.sentTokens := rfl
@[simp] theorem State.modContext_inbound (s : State) (n : Nat) (f : Context → Context) : (s.modContext n f).inbound = s.inbound := rfl
@[simp] theorem State.modContext_inboundNo (s : State) (n : Nat) (f : Context → Context) : (s.modContext n f).inboundNo = s.inboundNo := rfl
@[simp] theorem State.modContext_msix (s : State) (n : Nat) (f : Context → Context) : (s.modContext n f).msix = s.msix := rfl
@[simp] theorem State.modContext_grandmaster (s : State) (n : Nat) (f : Context → Context) : (s.modContext n f).grandmaster = s.grandmaster := rfl
@[simp] theorem State.modContext_timeSource (s : State) (n : Nat) (f : Context → Context) : (s.modContext n f).timeSource = s.timeSource := rfl
@[simp] theorem State.modContext_sentSyncs (s : State) (n : Nat) (f : Context → Context) : (s.modContext n f).sentSyncs = s.sentSyncs := rfl
@[simp] theorem State.modContext_sentGrants (s : State) (n : Nat) (f : Context → Context) : (s.modContext n f).sentGrants = s.sentGrants := rfl
@[simp] theorem State.modContext_exports (s : State) (n : Nat) (f : Context → Context) : (s.modContext n f).exports = s.exports := rfl
@[simp] theorem State.modContext_admitted (s : State) (n : Nat) (f : Context → Context) : (s.modContext n f).admitted = s.admitted := rfl
@[simp] theorem State.modContext_joined (s : State) (n : Nat) (f : Context → Context) : (s.modContext n f).joined = s.joined := rfl
@[simp] theorem State.modContext_saveSeq (s : State) (n : Nat) (f : Context → Context) : (s.modContext n f).saveSeq = s.saveSeq := rfl
@[simp] theorem State.modContext_coldResets (s : State) (n : Nat) (f : Context → Context) : (s.modContext n f).coldResets = s.coldResets := rfl
@[simp] theorem State.modContext_lmsIndex (s : State) (n : Nat) (f : Context → Context) : (s.modContext n f).lmsIndex = s.lmsIndex := rfl
@[simp] theorem State.modContext_reports (s : State) (n : Nat) (f : Context → Context) : (s.modContext n f).reports = s.reports := rfl
@[simp] theorem State.modContext_checkpointing (s : State) (n : Nat) (f : Context → Context) : (s.modContext n f).checkpointing = s.checkpointing := rfl
@[simp] theorem State.modContext_probes (s : State) (n : Nat) (f : Context → Context) : (s.modContext n f).probes = s.probes := rfl
@[simp] theorem State.modContext_probeId (s : State) (n : Nat) (f : Context → Context) : (s.modContext n f).probeId = s.probeId := rfl
@[simp] theorem State.modContext_reserves (s : State) (n : Nat) (f : Context → Context) : (s.modContext n f).reserves = s.reserves := rfl
@[simp] theorem State.modContext_failedLinks (s : State) (n : Nat) (f : Context → Context) : (s.modContext n f).failedLinks = s.failedLinks := rfl
@[simp] theorem State.modContext_agenda (s : State) (n : Nat) (f : Context → Context) : (s.modContext n f).agenda = s.agenda := rfl
@[simp] theorem State.modContext_cur (s : State) (n : Nat) (f : Context → Context) : (s.modContext n f).cur = s.cur := rfl
@[simp] theorem State.modContext_turns (s : State) (n : Nat) (f : Context → Context) : (s.modContext n f).turns = s.turns := rfl
@[simp] theorem State.modContext_stalled (s : State) (n : Nat) (f : Context → Context) : (s.modContext n f).stalled = s.stalled := rfl
@[simp] theorem State.modContext_delays (s : State) (n : Nat) (f : Context → Context) : (s.modContext n f).delays = s.delays := rfl
@[simp] theorem State.modContext_errors (s : State) (n : Nat) (f : Context → Context) : (s.modContext n f).errors = s.errors := rfl
@[simp] theorem State.modContext_shadowErrors (s : State) (n : Nat) (f : Context → Context) : (s.modContext n f).shadowErrors = s.shadowErrors := rfl
@[simp] theorem State.modContext_peeks (s : State) (n : Nat) (f : Context → Context) : (s.modContext n f).peeks = s.peeks := rfl
@[simp] theorem State.modContext_freeCount (s : State) (n : Nat) (f : Context → Context) : (s.modContext n f).freeCount = s.freeCount := rfl

/-! ## `State.modSlice` -/

@[simp] theorem State.modSlice_cores (s : State) (n : Nat) (f : Slice → Slice) : (s.modSlice n f).cores = s.cores := rfl
@[simp] theorem State.modSlice_squares (s : State) (n : Nat) (f : Slice → Slice) : (s.modSlice n f).squares = s.squares := rfl
@[simp] theorem State.modSlice_contexts (s : State) (n : Nat) (f : Slice → Slice) : (s.modSlice n f).contexts = s.contexts := rfl
@[simp] theorem State.modSlice_slices (s : State) (n : Nat) (f : Slice → Slice) : (s.modSlice n f).slices = Map.put s.slices n (f (s.slice n)) := rfl
@[simp] theorem State.modSlice_lending (s : State) (n : Nat) (f : Slice → Slice) : (s.modSlice n f).lending = s.lending := rfl
@[simp] theorem State.modSlice_heldLeaves (s : State) (n : Nat) (f : Slice → Slice) : (s.modSlice n f).heldLeaves = s.heldLeaves := rfl
@[simp] theorem State.modSlice_lines (s : State) (n : Nat) (f : Slice → Slice) : (s.modSlice n f).lines = s.lines := rfl
@[simp] theorem State.modSlice_mem (s : State) (n : Nat) (f : Slice → Slice) : (s.modSlice n f).mem = s.mem := rfl
@[simp] theorem State.modSlice_memPois (s : State) (n : Nat) (f : Slice → Slice) : (s.modSlice n f).memPois = s.memPois := rfl
@[simp] theorem State.modSlice_hbmPois (s : State) (n : Nat) (f : Slice → Slice) : (s.modSlice n f).hbmPois = s.hbmPois := rfl
@[simp] theorem State.modSlice_lost (s : State) (n : Nat) (f : Slice → Slice) : (s.modSlice n f).lost = s.lost := rfl
@[simp] theorem State.modSlice_columns (s : State) (n : Nat) (f : Slice → Slice) : (s.modSlice n f).columns = s.columns := rfl
@[simp] theorem State.modSlice_tempoQueue (s : State) (n : Nat) (f : Slice → Slice) : (s.modSlice n f).tempoQueue = s.tempoQueue := rfl
@[simp] theorem State.modSlice_ceiling (s : State) (n : Nat) (f : Slice → Slice) : (s.modSlice n f).ceiling = s.ceiling := rfl
@[simp] theorem State.modSlice_clock (s : State) (n : Nat) (f : Slice → Slice) : (s.modSlice n f).clock = s.clock := rfl
@[simp] theorem State.modSlice_offset (s : State) (n : Nat) (f : Slice → Slice) : (s.modSlice n f).offset = s.offset := rfl
@[simp] theorem State.modSlice_queues (s : State) (n : Nat) (f : Slice → Slice) : (s.modSlice n f).queues = s.queues := rfl
@[simp] theorem State.modSlice_heads (s : State) (n : Nat) (f : Slice → Slice) : (s.modSlice n f).heads = s.heads := rfl
@[simp] theorem State.modSlice_lastQueue (s : State) (n : Nat) (f : Slice → Slice) : (s.modSlice n f).lastQueue = s.lastQueue := rfl
@[simp] theorem State.modSlice_launches (s : State) (n : Nat) (f : Slice → Slice) : (s.modSlice n f).launches = s.launches := rfl
@[simp] theorem State.modSlice_launchId (s : State) (n : Nat) (f : Slice → Slice) : (s.modSlice n f).launchId = s.launchId := rfl
@[simp] theorem State.modSlice_rehomed (s : State) (n : Nat) (f : Slice → Slice) : (s.modSlice n f).rehomed = s.rehomed := rfl
@[simp] theorem State.modSlice_moving (s : State) (n : Nat) (f : Slice → Slice) : (s.modSlice n f).moving = s.moving := rfl
@[simp] theorem State.modSlice_invals (s : State) (n : Nat) (f : Slice → Slice) : (s.modSlice n f).invals = s.invals := rfl
@[simp] theorem State.modSlice_msgs (s : State) (n : Nat) (f : Slice → Slice) : (s.modSlice n f).msgs = s.msgs := rfl
@[simp] theorem State.modSlice_msgId (s : State) (n : Nat) (f : Slice → Slice) : (s.modSlice n f).msgId = s.msgId := rfl
@[simp] theorem State.modSlice_reds (s : State) (n : Nat) (f : Slice → Slice) : (s.modSlice n f).reds = s.reds := rfl
@[simp] theorem State.modSlice_redId (s : State) (n : Nat) (f : Slice → Slice) : (s.modSlice n f).redId = s.redId := rfl
@[simp] theorem State.modSlice_undo (s : State) (n : Nat) (f : Slice → Slice) : (s.modSlice n f).undo = s.undo := rfl
@[simp] theorem State.modSlice_ports (s : State) (n : Nat) (f : Slice → Slice) : (s.modSlice n f).ports = s.ports := rfl
@[simp] theorem State.modSlice_peers (s : State) (n : Nat) (f : Slice → Slice) : (s.modSlice n f).peers = s.peers := rfl
@[simp] theorem State.modSlice_afmw (s : State) (n : Nat) (f : Slice → Slice) : (s.modSlice n f).afmw = s.afmw := rfl
@[simp] theorem State.modSlice_errs (s : State) (n : Nat) (f : Slice → Slice) : (s.modSlice n f).errs = s.errs := rfl
@[simp] theorem State.modSlice_heqb (s : State) (n : Nat) (f : Slice → Slice) : (s.modSlice n f).heqb = s.heqb := rfl
@[simp] theorem State.modSlice_heqctl (s : State) (n : Nat) (f : Slice → Slice) : (s.modSlice n f).heqctl = s.heqctl := rfl
@[simp] theorem State.modSlice_hapb (s : State) (n : Nat) (f : Slice → Slice) : (s.modSlice n f).hapb = s.hapb := rfl
@[simp] theorem State.modSlice_bootst (s : State) (n : Nat) (f : Slice → Slice) : (s.modSlice n f).bootst = s.bootst := rfl
@[simp] theorem State.modSlice_bootFailed (s : State) (n : Nat) (f : Slice → Slice) : (s.modSlice n f).bootFailed = s.bootFailed := rfl
@[simp] theorem State.modSlice_fusedVersion (s : State) (n : Nat) (f : Slice → Slice) : (s.modSlice n f).fusedVersion = s.fusedVersion := rfl
@[simp] theorem State.modSlice_hostEvents (s : State) (n : Nat) (f : Slice → Slice) : (s.modSlice n f).hostEvents = s.hostEvents := rfl
@[simp] theorem State.modSlice_outbox (s : State) (n : Nat) (f : Slice → Slice) : (s.modSlice n f).outbox = s.outbox := rfl
@[simp] theorem State.modSlice_sentFrames (s : State) (n : Nat) (f : Slice → Slice) : (s.modSlice n f).sentFrames = s.sentFrames := rfl
@[simp] theorem State.modSlice_delivered (s : State) (n : Nat) (f : Slice → Slice) : (s.modSlice n f).delivered = s.delivered := rfl
@[simp] theorem State.modSlice_sentAcks (s : State) (n : Nat) (f : Slice → Slice) : (s.modSlice n f).sentAcks = s.sentAcks := rfl
@[simp] theorem State.modSlice_sentTokens (s : State) (n : Nat) (f : Slice → Slice) : (s.modSlice n f).sentTokens = s.sentTokens := rfl
@[simp] theorem State.modSlice_inbound (s : State) (n : Nat) (f : Slice → Slice) : (s.modSlice n f).inbound = s.inbound := rfl
@[simp] theorem State.modSlice_inboundNo (s : State) (n : Nat) (f : Slice → Slice) : (s.modSlice n f).inboundNo = s.inboundNo := rfl
@[simp] theorem State.modSlice_msix (s : State) (n : Nat) (f : Slice → Slice) : (s.modSlice n f).msix = s.msix := rfl
@[simp] theorem State.modSlice_grandmaster (s : State) (n : Nat) (f : Slice → Slice) : (s.modSlice n f).grandmaster = s.grandmaster := rfl
@[simp] theorem State.modSlice_timeSource (s : State) (n : Nat) (f : Slice → Slice) : (s.modSlice n f).timeSource = s.timeSource := rfl
@[simp] theorem State.modSlice_sentSyncs (s : State) (n : Nat) (f : Slice → Slice) : (s.modSlice n f).sentSyncs = s.sentSyncs := rfl
@[simp] theorem State.modSlice_sentGrants (s : State) (n : Nat) (f : Slice → Slice) : (s.modSlice n f).sentGrants = s.sentGrants := rfl
@[simp] theorem State.modSlice_exports (s : State) (n : Nat) (f : Slice → Slice) : (s.modSlice n f).exports = s.exports := rfl
@[simp] theorem State.modSlice_admitted (s : State) (n : Nat) (f : Slice → Slice) : (s.modSlice n f).admitted = s.admitted := rfl
@[simp] theorem State.modSlice_joined (s : State) (n : Nat) (f : Slice → Slice) : (s.modSlice n f).joined = s.joined := rfl
@[simp] theorem State.modSlice_saveSeq (s : State) (n : Nat) (f : Slice → Slice) : (s.modSlice n f).saveSeq = s.saveSeq := rfl
@[simp] theorem State.modSlice_coldResets (s : State) (n : Nat) (f : Slice → Slice) : (s.modSlice n f).coldResets = s.coldResets := rfl
@[simp] theorem State.modSlice_lmsIndex (s : State) (n : Nat) (f : Slice → Slice) : (s.modSlice n f).lmsIndex = s.lmsIndex := rfl
@[simp] theorem State.modSlice_reports (s : State) (n : Nat) (f : Slice → Slice) : (s.modSlice n f).reports = s.reports := rfl
@[simp] theorem State.modSlice_checkpointing (s : State) (n : Nat) (f : Slice → Slice) : (s.modSlice n f).checkpointing = s.checkpointing := rfl
@[simp] theorem State.modSlice_probes (s : State) (n : Nat) (f : Slice → Slice) : (s.modSlice n f).probes = s.probes := rfl
@[simp] theorem State.modSlice_probeId (s : State) (n : Nat) (f : Slice → Slice) : (s.modSlice n f).probeId = s.probeId := rfl
@[simp] theorem State.modSlice_reserves (s : State) (n : Nat) (f : Slice → Slice) : (s.modSlice n f).reserves = s.reserves := rfl
@[simp] theorem State.modSlice_failedLinks (s : State) (n : Nat) (f : Slice → Slice) : (s.modSlice n f).failedLinks = s.failedLinks := rfl
@[simp] theorem State.modSlice_agenda (s : State) (n : Nat) (f : Slice → Slice) : (s.modSlice n f).agenda = s.agenda := rfl
@[simp] theorem State.modSlice_cur (s : State) (n : Nat) (f : Slice → Slice) : (s.modSlice n f).cur = s.cur := rfl
@[simp] theorem State.modSlice_turns (s : State) (n : Nat) (f : Slice → Slice) : (s.modSlice n f).turns = s.turns := rfl
@[simp] theorem State.modSlice_stalled (s : State) (n : Nat) (f : Slice → Slice) : (s.modSlice n f).stalled = s.stalled := rfl
@[simp] theorem State.modSlice_delays (s : State) (n : Nat) (f : Slice → Slice) : (s.modSlice n f).delays = s.delays := rfl
@[simp] theorem State.modSlice_errors (s : State) (n : Nat) (f : Slice → Slice) : (s.modSlice n f).errors = s.errors := rfl
@[simp] theorem State.modSlice_shadowErrors (s : State) (n : Nat) (f : Slice → Slice) : (s.modSlice n f).shadowErrors = s.shadowErrors := rfl
@[simp] theorem State.modSlice_peeks (s : State) (n : Nat) (f : Slice → Slice) : (s.modSlice n f).peeks = s.peeks := rfl
@[simp] theorem State.modSlice_freeCount (s : State) (n : Nat) (f : Slice → Slice) : (s.modSlice n f).freeCount = s.freeCount := rfl

/-! ## `State.modColumn` -/

@[simp] theorem State.modColumn_cores (s : State) (n : Nat) (f : Column → Column) : (s.modColumn n f).cores = s.cores := rfl
@[simp] theorem State.modColumn_squares (s : State) (n : Nat) (f : Column → Column) : (s.modColumn n f).squares = s.squares := rfl
@[simp] theorem State.modColumn_contexts (s : State) (n : Nat) (f : Column → Column) : (s.modColumn n f).contexts = s.contexts := rfl
@[simp] theorem State.modColumn_slices (s : State) (n : Nat) (f : Column → Column) : (s.modColumn n f).slices = s.slices := rfl
@[simp] theorem State.modColumn_lending (s : State) (n : Nat) (f : Column → Column) : (s.modColumn n f).lending = s.lending := rfl
@[simp] theorem State.modColumn_heldLeaves (s : State) (n : Nat) (f : Column → Column) : (s.modColumn n f).heldLeaves = s.heldLeaves := rfl
@[simp] theorem State.modColumn_lines (s : State) (n : Nat) (f : Column → Column) : (s.modColumn n f).lines = s.lines := rfl
@[simp] theorem State.modColumn_mem (s : State) (n : Nat) (f : Column → Column) : (s.modColumn n f).mem = s.mem := rfl
@[simp] theorem State.modColumn_memPois (s : State) (n : Nat) (f : Column → Column) : (s.modColumn n f).memPois = s.memPois := rfl
@[simp] theorem State.modColumn_hbmPois (s : State) (n : Nat) (f : Column → Column) : (s.modColumn n f).hbmPois = s.hbmPois := rfl
@[simp] theorem State.modColumn_lost (s : State) (n : Nat) (f : Column → Column) : (s.modColumn n f).lost = s.lost := rfl
@[simp] theorem State.modColumn_columns (s : State) (n : Nat) (f : Column → Column) : (s.modColumn n f).columns = Map.put s.columns n (f (s.column n)) := rfl
@[simp] theorem State.modColumn_tempoQueue (s : State) (n : Nat) (f : Column → Column) : (s.modColumn n f).tempoQueue = s.tempoQueue := rfl
@[simp] theorem State.modColumn_ceiling (s : State) (n : Nat) (f : Column → Column) : (s.modColumn n f).ceiling = s.ceiling := rfl
@[simp] theorem State.modColumn_clock (s : State) (n : Nat) (f : Column → Column) : (s.modColumn n f).clock = s.clock := rfl
@[simp] theorem State.modColumn_offset (s : State) (n : Nat) (f : Column → Column) : (s.modColumn n f).offset = s.offset := rfl
@[simp] theorem State.modColumn_queues (s : State) (n : Nat) (f : Column → Column) : (s.modColumn n f).queues = s.queues := rfl
@[simp] theorem State.modColumn_heads (s : State) (n : Nat) (f : Column → Column) : (s.modColumn n f).heads = s.heads := rfl
@[simp] theorem State.modColumn_lastQueue (s : State) (n : Nat) (f : Column → Column) : (s.modColumn n f).lastQueue = s.lastQueue := rfl
@[simp] theorem State.modColumn_launches (s : State) (n : Nat) (f : Column → Column) : (s.modColumn n f).launches = s.launches := rfl
@[simp] theorem State.modColumn_launchId (s : State) (n : Nat) (f : Column → Column) : (s.modColumn n f).launchId = s.launchId := rfl
@[simp] theorem State.modColumn_rehomed (s : State) (n : Nat) (f : Column → Column) : (s.modColumn n f).rehomed = s.rehomed := rfl
@[simp] theorem State.modColumn_moving (s : State) (n : Nat) (f : Column → Column) : (s.modColumn n f).moving = s.moving := rfl
@[simp] theorem State.modColumn_invals (s : State) (n : Nat) (f : Column → Column) : (s.modColumn n f).invals = s.invals := rfl
@[simp] theorem State.modColumn_msgs (s : State) (n : Nat) (f : Column → Column) : (s.modColumn n f).msgs = s.msgs := rfl
@[simp] theorem State.modColumn_msgId (s : State) (n : Nat) (f : Column → Column) : (s.modColumn n f).msgId = s.msgId := rfl
@[simp] theorem State.modColumn_reds (s : State) (n : Nat) (f : Column → Column) : (s.modColumn n f).reds = s.reds := rfl
@[simp] theorem State.modColumn_redId (s : State) (n : Nat) (f : Column → Column) : (s.modColumn n f).redId = s.redId := rfl
@[simp] theorem State.modColumn_undo (s : State) (n : Nat) (f : Column → Column) : (s.modColumn n f).undo = s.undo := rfl
@[simp] theorem State.modColumn_ports (s : State) (n : Nat) (f : Column → Column) : (s.modColumn n f).ports = s.ports := rfl
@[simp] theorem State.modColumn_peers (s : State) (n : Nat) (f : Column → Column) : (s.modColumn n f).peers = s.peers := rfl
@[simp] theorem State.modColumn_afmw (s : State) (n : Nat) (f : Column → Column) : (s.modColumn n f).afmw = s.afmw := rfl
@[simp] theorem State.modColumn_errs (s : State) (n : Nat) (f : Column → Column) : (s.modColumn n f).errs = s.errs := rfl
@[simp] theorem State.modColumn_heqb (s : State) (n : Nat) (f : Column → Column) : (s.modColumn n f).heqb = s.heqb := rfl
@[simp] theorem State.modColumn_heqctl (s : State) (n : Nat) (f : Column → Column) : (s.modColumn n f).heqctl = s.heqctl := rfl
@[simp] theorem State.modColumn_hapb (s : State) (n : Nat) (f : Column → Column) : (s.modColumn n f).hapb = s.hapb := rfl
@[simp] theorem State.modColumn_bootst (s : State) (n : Nat) (f : Column → Column) : (s.modColumn n f).bootst = s.bootst := rfl
@[simp] theorem State.modColumn_bootFailed (s : State) (n : Nat) (f : Column → Column) : (s.modColumn n f).bootFailed = s.bootFailed := rfl
@[simp] theorem State.modColumn_fusedVersion (s : State) (n : Nat) (f : Column → Column) : (s.modColumn n f).fusedVersion = s.fusedVersion := rfl
@[simp] theorem State.modColumn_hostEvents (s : State) (n : Nat) (f : Column → Column) : (s.modColumn n f).hostEvents = s.hostEvents := rfl
@[simp] theorem State.modColumn_outbox (s : State) (n : Nat) (f : Column → Column) : (s.modColumn n f).outbox = s.outbox := rfl
@[simp] theorem State.modColumn_sentFrames (s : State) (n : Nat) (f : Column → Column) : (s.modColumn n f).sentFrames = s.sentFrames := rfl
@[simp] theorem State.modColumn_delivered (s : State) (n : Nat) (f : Column → Column) : (s.modColumn n f).delivered = s.delivered := rfl
@[simp] theorem State.modColumn_sentAcks (s : State) (n : Nat) (f : Column → Column) : (s.modColumn n f).sentAcks = s.sentAcks := rfl
@[simp] theorem State.modColumn_sentTokens (s : State) (n : Nat) (f : Column → Column) : (s.modColumn n f).sentTokens = s.sentTokens := rfl
@[simp] theorem State.modColumn_inbound (s : State) (n : Nat) (f : Column → Column) : (s.modColumn n f).inbound = s.inbound := rfl
@[simp] theorem State.modColumn_inboundNo (s : State) (n : Nat) (f : Column → Column) : (s.modColumn n f).inboundNo = s.inboundNo := rfl
@[simp] theorem State.modColumn_msix (s : State) (n : Nat) (f : Column → Column) : (s.modColumn n f).msix = s.msix := rfl
@[simp] theorem State.modColumn_grandmaster (s : State) (n : Nat) (f : Column → Column) : (s.modColumn n f).grandmaster = s.grandmaster := rfl
@[simp] theorem State.modColumn_timeSource (s : State) (n : Nat) (f : Column → Column) : (s.modColumn n f).timeSource = s.timeSource := rfl
@[simp] theorem State.modColumn_sentSyncs (s : State) (n : Nat) (f : Column → Column) : (s.modColumn n f).sentSyncs = s.sentSyncs := rfl
@[simp] theorem State.modColumn_sentGrants (s : State) (n : Nat) (f : Column → Column) : (s.modColumn n f).sentGrants = s.sentGrants := rfl
@[simp] theorem State.modColumn_exports (s : State) (n : Nat) (f : Column → Column) : (s.modColumn n f).exports = s.exports := rfl
@[simp] theorem State.modColumn_admitted (s : State) (n : Nat) (f : Column → Column) : (s.modColumn n f).admitted = s.admitted := rfl
@[simp] theorem State.modColumn_joined (s : State) (n : Nat) (f : Column → Column) : (s.modColumn n f).joined = s.joined := rfl
@[simp] theorem State.modColumn_saveSeq (s : State) (n : Nat) (f : Column → Column) : (s.modColumn n f).saveSeq = s.saveSeq := rfl
@[simp] theorem State.modColumn_coldResets (s : State) (n : Nat) (f : Column → Column) : (s.modColumn n f).coldResets = s.coldResets := rfl
@[simp] theorem State.modColumn_lmsIndex (s : State) (n : Nat) (f : Column → Column) : (s.modColumn n f).lmsIndex = s.lmsIndex := rfl
@[simp] theorem State.modColumn_reports (s : State) (n : Nat) (f : Column → Column) : (s.modColumn n f).reports = s.reports := rfl
@[simp] theorem State.modColumn_checkpointing (s : State) (n : Nat) (f : Column → Column) : (s.modColumn n f).checkpointing = s.checkpointing := rfl
@[simp] theorem State.modColumn_probes (s : State) (n : Nat) (f : Column → Column) : (s.modColumn n f).probes = s.probes := rfl
@[simp] theorem State.modColumn_probeId (s : State) (n : Nat) (f : Column → Column) : (s.modColumn n f).probeId = s.probeId := rfl
@[simp] theorem State.modColumn_reserves (s : State) (n : Nat) (f : Column → Column) : (s.modColumn n f).reserves = s.reserves := rfl
@[simp] theorem State.modColumn_failedLinks (s : State) (n : Nat) (f : Column → Column) : (s.modColumn n f).failedLinks = s.failedLinks := rfl
@[simp] theorem State.modColumn_agenda (s : State) (n : Nat) (f : Column → Column) : (s.modColumn n f).agenda = s.agenda := rfl
@[simp] theorem State.modColumn_cur (s : State) (n : Nat) (f : Column → Column) : (s.modColumn n f).cur = s.cur := rfl
@[simp] theorem State.modColumn_turns (s : State) (n : Nat) (f : Column → Column) : (s.modColumn n f).turns = s.turns := rfl
@[simp] theorem State.modColumn_stalled (s : State) (n : Nat) (f : Column → Column) : (s.modColumn n f).stalled = s.stalled := rfl
@[simp] theorem State.modColumn_delays (s : State) (n : Nat) (f : Column → Column) : (s.modColumn n f).delays = s.delays := rfl
@[simp] theorem State.modColumn_errors (s : State) (n : Nat) (f : Column → Column) : (s.modColumn n f).errors = s.errors := rfl
@[simp] theorem State.modColumn_shadowErrors (s : State) (n : Nat) (f : Column → Column) : (s.modColumn n f).shadowErrors = s.shadowErrors := rfl
@[simp] theorem State.modColumn_peeks (s : State) (n : Nat) (f : Column → Column) : (s.modColumn n f).peeks = s.peeks := rfl
@[simp] theorem State.modColumn_freeCount (s : State) (n : Nat) (f : Column → Column) : (s.modColumn n f).freeCount = s.freeCount := rfl

/-! ## `State.modLqueue` -/

@[simp] theorem State.modLqueue_cores (s : State) (q : Nat) (f : LaunchQueue → LaunchQueue) : (s.modLqueue q f).cores = s.cores := rfl
@[simp] theorem State.modLqueue_squares (s : State) (q : Nat) (f : LaunchQueue → LaunchQueue) : (s.modLqueue q f).squares = s.squares := rfl
@[simp] theorem State.modLqueue_contexts (s : State) (q : Nat) (f : LaunchQueue → LaunchQueue) : (s.modLqueue q f).contexts = s.contexts := rfl
@[simp] theorem State.modLqueue_slices (s : State) (q : Nat) (f : LaunchQueue → LaunchQueue) : (s.modLqueue q f).slices = s.slices := rfl
@[simp] theorem State.modLqueue_lending (s : State) (q : Nat) (f : LaunchQueue → LaunchQueue) : (s.modLqueue q f).lending = s.lending := rfl
@[simp] theorem State.modLqueue_heldLeaves (s : State) (q : Nat) (f : LaunchQueue → LaunchQueue) : (s.modLqueue q f).heldLeaves = s.heldLeaves := rfl
@[simp] theorem State.modLqueue_lines (s : State) (q : Nat) (f : LaunchQueue → LaunchQueue) : (s.modLqueue q f).lines = s.lines := rfl
@[simp] theorem State.modLqueue_mem (s : State) (q : Nat) (f : LaunchQueue → LaunchQueue) : (s.modLqueue q f).mem = s.mem := rfl
@[simp] theorem State.modLqueue_memPois (s : State) (q : Nat) (f : LaunchQueue → LaunchQueue) : (s.modLqueue q f).memPois = s.memPois := rfl
@[simp] theorem State.modLqueue_hbmPois (s : State) (q : Nat) (f : LaunchQueue → LaunchQueue) : (s.modLqueue q f).hbmPois = s.hbmPois := rfl
@[simp] theorem State.modLqueue_lost (s : State) (q : Nat) (f : LaunchQueue → LaunchQueue) : (s.modLqueue q f).lost = s.lost := rfl
@[simp] theorem State.modLqueue_columns (s : State) (q : Nat) (f : LaunchQueue → LaunchQueue) : (s.modLqueue q f).columns = s.columns := rfl
@[simp] theorem State.modLqueue_tempoQueue (s : State) (q : Nat) (f : LaunchQueue → LaunchQueue) : (s.modLqueue q f).tempoQueue = s.tempoQueue := rfl
@[simp] theorem State.modLqueue_ceiling (s : State) (q : Nat) (f : LaunchQueue → LaunchQueue) : (s.modLqueue q f).ceiling = s.ceiling := rfl
@[simp] theorem State.modLqueue_clock (s : State) (q : Nat) (f : LaunchQueue → LaunchQueue) : (s.modLqueue q f).clock = s.clock := rfl
@[simp] theorem State.modLqueue_offset (s : State) (q : Nat) (f : LaunchQueue → LaunchQueue) : (s.modLqueue q f).offset = s.offset := rfl
@[simp] theorem State.modLqueue_queues (s : State) (q : Nat) (f : LaunchQueue → LaunchQueue) : (s.modLqueue q f).queues = Map.put s.queues q (f (s.lqueue q)) := rfl
@[simp] theorem State.modLqueue_heads (s : State) (q : Nat) (f : LaunchQueue → LaunchQueue) : (s.modLqueue q f).heads = s.heads := rfl
@[simp] theorem State.modLqueue_lastQueue (s : State) (q : Nat) (f : LaunchQueue → LaunchQueue) : (s.modLqueue q f).lastQueue = s.lastQueue := rfl
@[simp] theorem State.modLqueue_launches (s : State) (q : Nat) (f : LaunchQueue → LaunchQueue) : (s.modLqueue q f).launches = s.launches := rfl
@[simp] theorem State.modLqueue_launchId (s : State) (q : Nat) (f : LaunchQueue → LaunchQueue) : (s.modLqueue q f).launchId = s.launchId := rfl
@[simp] theorem State.modLqueue_rehomed (s : State) (q : Nat) (f : LaunchQueue → LaunchQueue) : (s.modLqueue q f).rehomed = s.rehomed := rfl
@[simp] theorem State.modLqueue_moving (s : State) (q : Nat) (f : LaunchQueue → LaunchQueue) : (s.modLqueue q f).moving = s.moving := rfl
@[simp] theorem State.modLqueue_invals (s : State) (q : Nat) (f : LaunchQueue → LaunchQueue) : (s.modLqueue q f).invals = s.invals := rfl
@[simp] theorem State.modLqueue_msgs (s : State) (q : Nat) (f : LaunchQueue → LaunchQueue) : (s.modLqueue q f).msgs = s.msgs := rfl
@[simp] theorem State.modLqueue_msgId (s : State) (q : Nat) (f : LaunchQueue → LaunchQueue) : (s.modLqueue q f).msgId = s.msgId := rfl
@[simp] theorem State.modLqueue_reds (s : State) (q : Nat) (f : LaunchQueue → LaunchQueue) : (s.modLqueue q f).reds = s.reds := rfl
@[simp] theorem State.modLqueue_redId (s : State) (q : Nat) (f : LaunchQueue → LaunchQueue) : (s.modLqueue q f).redId = s.redId := rfl
@[simp] theorem State.modLqueue_undo (s : State) (q : Nat) (f : LaunchQueue → LaunchQueue) : (s.modLqueue q f).undo = s.undo := rfl
@[simp] theorem State.modLqueue_ports (s : State) (q : Nat) (f : LaunchQueue → LaunchQueue) : (s.modLqueue q f).ports = s.ports := rfl
@[simp] theorem State.modLqueue_peers (s : State) (q : Nat) (f : LaunchQueue → LaunchQueue) : (s.modLqueue q f).peers = s.peers := rfl
@[simp] theorem State.modLqueue_afmw (s : State) (q : Nat) (f : LaunchQueue → LaunchQueue) : (s.modLqueue q f).afmw = s.afmw := rfl
@[simp] theorem State.modLqueue_errs (s : State) (q : Nat) (f : LaunchQueue → LaunchQueue) : (s.modLqueue q f).errs = s.errs := rfl
@[simp] theorem State.modLqueue_heqb (s : State) (q : Nat) (f : LaunchQueue → LaunchQueue) : (s.modLqueue q f).heqb = s.heqb := rfl
@[simp] theorem State.modLqueue_heqctl (s : State) (q : Nat) (f : LaunchQueue → LaunchQueue) : (s.modLqueue q f).heqctl = s.heqctl := rfl
@[simp] theorem State.modLqueue_hapb (s : State) (q : Nat) (f : LaunchQueue → LaunchQueue) : (s.modLqueue q f).hapb = s.hapb := rfl
@[simp] theorem State.modLqueue_bootst (s : State) (q : Nat) (f : LaunchQueue → LaunchQueue) : (s.modLqueue q f).bootst = s.bootst := rfl
@[simp] theorem State.modLqueue_bootFailed (s : State) (q : Nat) (f : LaunchQueue → LaunchQueue) : (s.modLqueue q f).bootFailed = s.bootFailed := rfl
@[simp] theorem State.modLqueue_fusedVersion (s : State) (q : Nat) (f : LaunchQueue → LaunchQueue) : (s.modLqueue q f).fusedVersion = s.fusedVersion := rfl
@[simp] theorem State.modLqueue_hostEvents (s : State) (q : Nat) (f : LaunchQueue → LaunchQueue) : (s.modLqueue q f).hostEvents = s.hostEvents := rfl
@[simp] theorem State.modLqueue_outbox (s : State) (q : Nat) (f : LaunchQueue → LaunchQueue) : (s.modLqueue q f).outbox = s.outbox := rfl
@[simp] theorem State.modLqueue_sentFrames (s : State) (q : Nat) (f : LaunchQueue → LaunchQueue) : (s.modLqueue q f).sentFrames = s.sentFrames := rfl
@[simp] theorem State.modLqueue_delivered (s : State) (q : Nat) (f : LaunchQueue → LaunchQueue) : (s.modLqueue q f).delivered = s.delivered := rfl
@[simp] theorem State.modLqueue_sentAcks (s : State) (q : Nat) (f : LaunchQueue → LaunchQueue) : (s.modLqueue q f).sentAcks = s.sentAcks := rfl
@[simp] theorem State.modLqueue_sentTokens (s : State) (q : Nat) (f : LaunchQueue → LaunchQueue) : (s.modLqueue q f).sentTokens = s.sentTokens := rfl
@[simp] theorem State.modLqueue_inbound (s : State) (q : Nat) (f : LaunchQueue → LaunchQueue) : (s.modLqueue q f).inbound = s.inbound := rfl
@[simp] theorem State.modLqueue_inboundNo (s : State) (q : Nat) (f : LaunchQueue → LaunchQueue) : (s.modLqueue q f).inboundNo = s.inboundNo := rfl
@[simp] theorem State.modLqueue_msix (s : State) (q : Nat) (f : LaunchQueue → LaunchQueue) : (s.modLqueue q f).msix = s.msix := rfl
@[simp] theorem State.modLqueue_grandmaster (s : State) (q : Nat) (f : LaunchQueue → LaunchQueue) : (s.modLqueue q f).grandmaster = s.grandmaster := rfl
@[simp] theorem State.modLqueue_timeSource (s : State) (q : Nat) (f : LaunchQueue → LaunchQueue) : (s.modLqueue q f).timeSource = s.timeSource := rfl
@[simp] theorem State.modLqueue_sentSyncs (s : State) (q : Nat) (f : LaunchQueue → LaunchQueue) : (s.modLqueue q f).sentSyncs = s.sentSyncs := rfl
@[simp] theorem State.modLqueue_sentGrants (s : State) (q : Nat) (f : LaunchQueue → LaunchQueue) : (s.modLqueue q f).sentGrants = s.sentGrants := rfl
@[simp] theorem State.modLqueue_exports (s : State) (q : Nat) (f : LaunchQueue → LaunchQueue) : (s.modLqueue q f).exports = s.exports := rfl
@[simp] theorem State.modLqueue_admitted (s : State) (q : Nat) (f : LaunchQueue → LaunchQueue) : (s.modLqueue q f).admitted = s.admitted := rfl
@[simp] theorem State.modLqueue_joined (s : State) (q : Nat) (f : LaunchQueue → LaunchQueue) : (s.modLqueue q f).joined = s.joined := rfl
@[simp] theorem State.modLqueue_saveSeq (s : State) (q : Nat) (f : LaunchQueue → LaunchQueue) : (s.modLqueue q f).saveSeq = s.saveSeq := rfl
@[simp] theorem State.modLqueue_coldResets (s : State) (q : Nat) (f : LaunchQueue → LaunchQueue) : (s.modLqueue q f).coldResets = s.coldResets := rfl
@[simp] theorem State.modLqueue_lmsIndex (s : State) (q : Nat) (f : LaunchQueue → LaunchQueue) : (s.modLqueue q f).lmsIndex = s.lmsIndex := rfl
@[simp] theorem State.modLqueue_reports (s : State) (q : Nat) (f : LaunchQueue → LaunchQueue) : (s.modLqueue q f).reports = s.reports := rfl
@[simp] theorem State.modLqueue_checkpointing (s : State) (q : Nat) (f : LaunchQueue → LaunchQueue) : (s.modLqueue q f).checkpointing = s.checkpointing := rfl
@[simp] theorem State.modLqueue_probes (s : State) (q : Nat) (f : LaunchQueue → LaunchQueue) : (s.modLqueue q f).probes = s.probes := rfl
@[simp] theorem State.modLqueue_probeId (s : State) (q : Nat) (f : LaunchQueue → LaunchQueue) : (s.modLqueue q f).probeId = s.probeId := rfl
@[simp] theorem State.modLqueue_reserves (s : State) (q : Nat) (f : LaunchQueue → LaunchQueue) : (s.modLqueue q f).reserves = s.reserves := rfl
@[simp] theorem State.modLqueue_failedLinks (s : State) (q : Nat) (f : LaunchQueue → LaunchQueue) : (s.modLqueue q f).failedLinks = s.failedLinks := rfl
@[simp] theorem State.modLqueue_agenda (s : State) (q : Nat) (f : LaunchQueue → LaunchQueue) : (s.modLqueue q f).agenda = s.agenda := rfl
@[simp] theorem State.modLqueue_cur (s : State) (q : Nat) (f : LaunchQueue → LaunchQueue) : (s.modLqueue q f).cur = s.cur := rfl
@[simp] theorem State.modLqueue_turns (s : State) (q : Nat) (f : LaunchQueue → LaunchQueue) : (s.modLqueue q f).turns = s.turns := rfl
@[simp] theorem State.modLqueue_stalled (s : State) (q : Nat) (f : LaunchQueue → LaunchQueue) : (s.modLqueue q f).stalled = s.stalled := rfl
@[simp] theorem State.modLqueue_delays (s : State) (q : Nat) (f : LaunchQueue → LaunchQueue) : (s.modLqueue q f).delays = s.delays := rfl
@[simp] theorem State.modLqueue_errors (s : State) (q : Nat) (f : LaunchQueue → LaunchQueue) : (s.modLqueue q f).errors = s.errors := rfl
@[simp] theorem State.modLqueue_shadowErrors (s : State) (q : Nat) (f : LaunchQueue → LaunchQueue) : (s.modLqueue q f).shadowErrors = s.shadowErrors := rfl
@[simp] theorem State.modLqueue_peeks (s : State) (q : Nat) (f : LaunchQueue → LaunchQueue) : (s.modLqueue q f).peeks = s.peeks := rfl
@[simp] theorem State.modLqueue_freeCount (s : State) (q : Nat) (f : LaunchQueue → LaunchQueue) : (s.modLqueue q f).freeCount = s.freeCount := rfl

/-! ## `State.modErr` -/

@[simp] theorem State.modErr_cores (s : State) (l : Nat) (f : ErrBlock → ErrBlock) : (s.modErr l f).cores = s.cores := rfl
@[simp] theorem State.modErr_squares (s : State) (l : Nat) (f : ErrBlock → ErrBlock) : (s.modErr l f).squares = s.squares := rfl
@[simp] theorem State.modErr_contexts (s : State) (l : Nat) (f : ErrBlock → ErrBlock) : (s.modErr l f).contexts = s.contexts := rfl
@[simp] theorem State.modErr_slices (s : State) (l : Nat) (f : ErrBlock → ErrBlock) : (s.modErr l f).slices = s.slices := rfl
@[simp] theorem State.modErr_lending (s : State) (l : Nat) (f : ErrBlock → ErrBlock) : (s.modErr l f).lending = s.lending := rfl
@[simp] theorem State.modErr_heldLeaves (s : State) (l : Nat) (f : ErrBlock → ErrBlock) : (s.modErr l f).heldLeaves = s.heldLeaves := rfl
@[simp] theorem State.modErr_lines (s : State) (l : Nat) (f : ErrBlock → ErrBlock) : (s.modErr l f).lines = s.lines := rfl
@[simp] theorem State.modErr_mem (s : State) (l : Nat) (f : ErrBlock → ErrBlock) : (s.modErr l f).mem = s.mem := rfl
@[simp] theorem State.modErr_memPois (s : State) (l : Nat) (f : ErrBlock → ErrBlock) : (s.modErr l f).memPois = s.memPois := rfl
@[simp] theorem State.modErr_hbmPois (s : State) (l : Nat) (f : ErrBlock → ErrBlock) : (s.modErr l f).hbmPois = s.hbmPois := rfl
@[simp] theorem State.modErr_lost (s : State) (l : Nat) (f : ErrBlock → ErrBlock) : (s.modErr l f).lost = s.lost := rfl
@[simp] theorem State.modErr_columns (s : State) (l : Nat) (f : ErrBlock → ErrBlock) : (s.modErr l f).columns = s.columns := rfl
@[simp] theorem State.modErr_tempoQueue (s : State) (l : Nat) (f : ErrBlock → ErrBlock) : (s.modErr l f).tempoQueue = s.tempoQueue := rfl
@[simp] theorem State.modErr_ceiling (s : State) (l : Nat) (f : ErrBlock → ErrBlock) : (s.modErr l f).ceiling = s.ceiling := rfl
@[simp] theorem State.modErr_clock (s : State) (l : Nat) (f : ErrBlock → ErrBlock) : (s.modErr l f).clock = s.clock := rfl
@[simp] theorem State.modErr_offset (s : State) (l : Nat) (f : ErrBlock → ErrBlock) : (s.modErr l f).offset = s.offset := rfl
@[simp] theorem State.modErr_queues (s : State) (l : Nat) (f : ErrBlock → ErrBlock) : (s.modErr l f).queues = s.queues := rfl
@[simp] theorem State.modErr_heads (s : State) (l : Nat) (f : ErrBlock → ErrBlock) : (s.modErr l f).heads = s.heads := rfl
@[simp] theorem State.modErr_lastQueue (s : State) (l : Nat) (f : ErrBlock → ErrBlock) : (s.modErr l f).lastQueue = s.lastQueue := rfl
@[simp] theorem State.modErr_launches (s : State) (l : Nat) (f : ErrBlock → ErrBlock) : (s.modErr l f).launches = s.launches := rfl
@[simp] theorem State.modErr_launchId (s : State) (l : Nat) (f : ErrBlock → ErrBlock) : (s.modErr l f).launchId = s.launchId := rfl
@[simp] theorem State.modErr_rehomed (s : State) (l : Nat) (f : ErrBlock → ErrBlock) : (s.modErr l f).rehomed = s.rehomed := rfl
@[simp] theorem State.modErr_moving (s : State) (l : Nat) (f : ErrBlock → ErrBlock) : (s.modErr l f).moving = s.moving := rfl
@[simp] theorem State.modErr_invals (s : State) (l : Nat) (f : ErrBlock → ErrBlock) : (s.modErr l f).invals = s.invals := rfl
@[simp] theorem State.modErr_msgs (s : State) (l : Nat) (f : ErrBlock → ErrBlock) : (s.modErr l f).msgs = s.msgs := rfl
@[simp] theorem State.modErr_msgId (s : State) (l : Nat) (f : ErrBlock → ErrBlock) : (s.modErr l f).msgId = s.msgId := rfl
@[simp] theorem State.modErr_reds (s : State) (l : Nat) (f : ErrBlock → ErrBlock) : (s.modErr l f).reds = s.reds := rfl
@[simp] theorem State.modErr_redId (s : State) (l : Nat) (f : ErrBlock → ErrBlock) : (s.modErr l f).redId = s.redId := rfl
@[simp] theorem State.modErr_undo (s : State) (l : Nat) (f : ErrBlock → ErrBlock) : (s.modErr l f).undo = s.undo := rfl
@[simp] theorem State.modErr_ports (s : State) (l : Nat) (f : ErrBlock → ErrBlock) : (s.modErr l f).ports = s.ports := rfl
@[simp] theorem State.modErr_peers (s : State) (l : Nat) (f : ErrBlock → ErrBlock) : (s.modErr l f).peers = s.peers := rfl
@[simp] theorem State.modErr_afmw (s : State) (l : Nat) (f : ErrBlock → ErrBlock) : (s.modErr l f).afmw = s.afmw := rfl
@[simp] theorem State.modErr_errs (s : State) (l : Nat) (f : ErrBlock → ErrBlock) : (s.modErr l f).errs = Map.put s.errs l (f (s.err l)) := rfl
@[simp] theorem State.modErr_heqb (s : State) (l : Nat) (f : ErrBlock → ErrBlock) : (s.modErr l f).heqb = s.heqb := rfl
@[simp] theorem State.modErr_heqctl (s : State) (l : Nat) (f : ErrBlock → ErrBlock) : (s.modErr l f).heqctl = s.heqctl := rfl
@[simp] theorem State.modErr_hapb (s : State) (l : Nat) (f : ErrBlock → ErrBlock) : (s.modErr l f).hapb = s.hapb := rfl
@[simp] theorem State.modErr_bootst (s : State) (l : Nat) (f : ErrBlock → ErrBlock) : (s.modErr l f).bootst = s.bootst := rfl
@[simp] theorem State.modErr_bootFailed (s : State) (l : Nat) (f : ErrBlock → ErrBlock) : (s.modErr l f).bootFailed = s.bootFailed := rfl
@[simp] theorem State.modErr_fusedVersion (s : State) (l : Nat) (f : ErrBlock → ErrBlock) : (s.modErr l f).fusedVersion = s.fusedVersion := rfl
@[simp] theorem State.modErr_hostEvents (s : State) (l : Nat) (f : ErrBlock → ErrBlock) : (s.modErr l f).hostEvents = s.hostEvents := rfl
@[simp] theorem State.modErr_outbox (s : State) (l : Nat) (f : ErrBlock → ErrBlock) : (s.modErr l f).outbox = s.outbox := rfl
@[simp] theorem State.modErr_sentFrames (s : State) (l : Nat) (f : ErrBlock → ErrBlock) : (s.modErr l f).sentFrames = s.sentFrames := rfl
@[simp] theorem State.modErr_delivered (s : State) (l : Nat) (f : ErrBlock → ErrBlock) : (s.modErr l f).delivered = s.delivered := rfl
@[simp] theorem State.modErr_sentAcks (s : State) (l : Nat) (f : ErrBlock → ErrBlock) : (s.modErr l f).sentAcks = s.sentAcks := rfl
@[simp] theorem State.modErr_sentTokens (s : State) (l : Nat) (f : ErrBlock → ErrBlock) : (s.modErr l f).sentTokens = s.sentTokens := rfl
@[simp] theorem State.modErr_inbound (s : State) (l : Nat) (f : ErrBlock → ErrBlock) : (s.modErr l f).inbound = s.inbound := rfl
@[simp] theorem State.modErr_inboundNo (s : State) (l : Nat) (f : ErrBlock → ErrBlock) : (s.modErr l f).inboundNo = s.inboundNo := rfl
@[simp] theorem State.modErr_msix (s : State) (l : Nat) (f : ErrBlock → ErrBlock) : (s.modErr l f).msix = s.msix := rfl
@[simp] theorem State.modErr_grandmaster (s : State) (l : Nat) (f : ErrBlock → ErrBlock) : (s.modErr l f).grandmaster = s.grandmaster := rfl
@[simp] theorem State.modErr_timeSource (s : State) (l : Nat) (f : ErrBlock → ErrBlock) : (s.modErr l f).timeSource = s.timeSource := rfl
@[simp] theorem State.modErr_sentSyncs (s : State) (l : Nat) (f : ErrBlock → ErrBlock) : (s.modErr l f).sentSyncs = s.sentSyncs := rfl
@[simp] theorem State.modErr_sentGrants (s : State) (l : Nat) (f : ErrBlock → ErrBlock) : (s.modErr l f).sentGrants = s.sentGrants := rfl
@[simp] theorem State.modErr_exports (s : State) (l : Nat) (f : ErrBlock → ErrBlock) : (s.modErr l f).exports = s.exports := rfl
@[simp] theorem State.modErr_admitted (s : State) (l : Nat) (f : ErrBlock → ErrBlock) : (s.modErr l f).admitted = s.admitted := rfl
@[simp] theorem State.modErr_joined (s : State) (l : Nat) (f : ErrBlock → ErrBlock) : (s.modErr l f).joined = s.joined := rfl
@[simp] theorem State.modErr_saveSeq (s : State) (l : Nat) (f : ErrBlock → ErrBlock) : (s.modErr l f).saveSeq = s.saveSeq := rfl
@[simp] theorem State.modErr_coldResets (s : State) (l : Nat) (f : ErrBlock → ErrBlock) : (s.modErr l f).coldResets = s.coldResets := rfl
@[simp] theorem State.modErr_lmsIndex (s : State) (l : Nat) (f : ErrBlock → ErrBlock) : (s.modErr l f).lmsIndex = s.lmsIndex := rfl
@[simp] theorem State.modErr_reports (s : State) (l : Nat) (f : ErrBlock → ErrBlock) : (s.modErr l f).reports = s.reports := rfl
@[simp] theorem State.modErr_checkpointing (s : State) (l : Nat) (f : ErrBlock → ErrBlock) : (s.modErr l f).checkpointing = s.checkpointing := rfl
@[simp] theorem State.modErr_probes (s : State) (l : Nat) (f : ErrBlock → ErrBlock) : (s.modErr l f).probes = s.probes := rfl
@[simp] theorem State.modErr_probeId (s : State) (l : Nat) (f : ErrBlock → ErrBlock) : (s.modErr l f).probeId = s.probeId := rfl
@[simp] theorem State.modErr_reserves (s : State) (l : Nat) (f : ErrBlock → ErrBlock) : (s.modErr l f).reserves = s.reserves := rfl
@[simp] theorem State.modErr_failedLinks (s : State) (l : Nat) (f : ErrBlock → ErrBlock) : (s.modErr l f).failedLinks = s.failedLinks := rfl
@[simp] theorem State.modErr_agenda (s : State) (l : Nat) (f : ErrBlock → ErrBlock) : (s.modErr l f).agenda = s.agenda := rfl
@[simp] theorem State.modErr_cur (s : State) (l : Nat) (f : ErrBlock → ErrBlock) : (s.modErr l f).cur = s.cur := rfl
@[simp] theorem State.modErr_turns (s : State) (l : Nat) (f : ErrBlock → ErrBlock) : (s.modErr l f).turns = s.turns := rfl
@[simp] theorem State.modErr_stalled (s : State) (l : Nat) (f : ErrBlock → ErrBlock) : (s.modErr l f).stalled = s.stalled := rfl
@[simp] theorem State.modErr_delays (s : State) (l : Nat) (f : ErrBlock → ErrBlock) : (s.modErr l f).delays = s.delays := rfl
@[simp] theorem State.modErr_errors (s : State) (l : Nat) (f : ErrBlock → ErrBlock) : (s.modErr l f).errors = s.errors := rfl
@[simp] theorem State.modErr_shadowErrors (s : State) (l : Nat) (f : ErrBlock → ErrBlock) : (s.modErr l f).shadowErrors = s.shadowErrors := rfl
@[simp] theorem State.modErr_peeks (s : State) (l : Nat) (f : ErrBlock → ErrBlock) : (s.modErr l f).peeks = s.peeks := rfl
@[simp] theorem State.modErr_freeCount (s : State) (l : Nat) (f : ErrBlock → ErrBlock) : (s.modErr l f).freeCount = s.freeCount := rfl

/-! ## `State.wrBytes` -/

@[simp] theorem State.wrBytes_cores (s : State) (a : Nat) (bs : PBytes) : (s.wrBytes a bs).cores = s.cores := rfl
@[simp] theorem State.wrBytes_squares (s : State) (a : Nat) (bs : PBytes) : (s.wrBytes a bs).squares = s.squares := rfl
@[simp] theorem State.wrBytes_contexts (s : State) (a : Nat) (bs : PBytes) : (s.wrBytes a bs).contexts = s.contexts := rfl
@[simp] theorem State.wrBytes_slices (s : State) (a : Nat) (bs : PBytes) : (s.wrBytes a bs).slices = s.slices := rfl
@[simp] theorem State.wrBytes_lending (s : State) (a : Nat) (bs : PBytes) : (s.wrBytes a bs).lending = s.lending := rfl
@[simp] theorem State.wrBytes_heldLeaves (s : State) (a : Nat) (bs : PBytes) : (s.wrBytes a bs).heldLeaves = s.heldLeaves := rfl
@[simp] theorem State.wrBytes_lines (s : State) (a : Nat) (bs : PBytes) : (s.wrBytes a bs).lines = s.lines := rfl
@[simp] theorem State.wrBytes_mem (s : State) (a : Nat) (bs : PBytes) : (s.wrBytes a bs).mem = Memory.writeAll s.lost s.mem a (bs.map (·.1)) := rfl
@[simp] theorem State.wrBytes_memPois (s : State) (a : Nat) (bs : PBytes) : (s.wrBytes a bs).memPois = poisonAfter s.memPois a bs := rfl
@[simp] theorem State.wrBytes_hbmPois (s : State) (a : Nat) (bs : PBytes) : (s.wrBytes a bs).hbmPois = s.hbmPois := rfl
@[simp] theorem State.wrBytes_lost (s : State) (a : Nat) (bs : PBytes) : (s.wrBytes a bs).lost = s.lost := rfl
@[simp] theorem State.wrBytes_columns (s : State) (a : Nat) (bs : PBytes) : (s.wrBytes a bs).columns = s.columns := rfl
@[simp] theorem State.wrBytes_tempoQueue (s : State) (a : Nat) (bs : PBytes) : (s.wrBytes a bs).tempoQueue = s.tempoQueue := rfl
@[simp] theorem State.wrBytes_ceiling (s : State) (a : Nat) (bs : PBytes) : (s.wrBytes a bs).ceiling = s.ceiling := rfl
@[simp] theorem State.wrBytes_clock (s : State) (a : Nat) (bs : PBytes) : (s.wrBytes a bs).clock = s.clock := rfl
@[simp] theorem State.wrBytes_offset (s : State) (a : Nat) (bs : PBytes) : (s.wrBytes a bs).offset = s.offset := rfl
@[simp] theorem State.wrBytes_queues (s : State) (a : Nat) (bs : PBytes) : (s.wrBytes a bs).queues = s.queues := rfl
@[simp] theorem State.wrBytes_heads (s : State) (a : Nat) (bs : PBytes) : (s.wrBytes a bs).heads = s.heads := rfl
@[simp] theorem State.wrBytes_lastQueue (s : State) (a : Nat) (bs : PBytes) : (s.wrBytes a bs).lastQueue = s.lastQueue := rfl
@[simp] theorem State.wrBytes_launches (s : State) (a : Nat) (bs : PBytes) : (s.wrBytes a bs).launches = s.launches := rfl
@[simp] theorem State.wrBytes_launchId (s : State) (a : Nat) (bs : PBytes) : (s.wrBytes a bs).launchId = s.launchId := rfl
@[simp] theorem State.wrBytes_rehomed (s : State) (a : Nat) (bs : PBytes) : (s.wrBytes a bs).rehomed = s.rehomed := rfl
@[simp] theorem State.wrBytes_moving (s : State) (a : Nat) (bs : PBytes) : (s.wrBytes a bs).moving = s.moving := rfl
@[simp] theorem State.wrBytes_invals (s : State) (a : Nat) (bs : PBytes) : (s.wrBytes a bs).invals = s.invals := rfl
@[simp] theorem State.wrBytes_msgs (s : State) (a : Nat) (bs : PBytes) : (s.wrBytes a bs).msgs = s.msgs := rfl
@[simp] theorem State.wrBytes_msgId (s : State) (a : Nat) (bs : PBytes) : (s.wrBytes a bs).msgId = s.msgId := rfl
@[simp] theorem State.wrBytes_reds (s : State) (a : Nat) (bs : PBytes) : (s.wrBytes a bs).reds = s.reds := rfl
@[simp] theorem State.wrBytes_redId (s : State) (a : Nat) (bs : PBytes) : (s.wrBytes a bs).redId = s.redId := rfl
@[simp] theorem State.wrBytes_undo (s : State) (a : Nat) (bs : PBytes) : (s.wrBytes a bs).undo = s.undo := rfl
@[simp] theorem State.wrBytes_ports (s : State) (a : Nat) (bs : PBytes) : (s.wrBytes a bs).ports = s.ports := rfl
@[simp] theorem State.wrBytes_peers (s : State) (a : Nat) (bs : PBytes) : (s.wrBytes a bs).peers = s.peers := rfl
@[simp] theorem State.wrBytes_afmw (s : State) (a : Nat) (bs : PBytes) : (s.wrBytes a bs).afmw = s.afmw := rfl
@[simp] theorem State.wrBytes_errs (s : State) (a : Nat) (bs : PBytes) : (s.wrBytes a bs).errs = s.errs := rfl
@[simp] theorem State.wrBytes_heqb (s : State) (a : Nat) (bs : PBytes) : (s.wrBytes a bs).heqb = s.heqb := rfl
@[simp] theorem State.wrBytes_heqctl (s : State) (a : Nat) (bs : PBytes) : (s.wrBytes a bs).heqctl = s.heqctl := rfl
@[simp] theorem State.wrBytes_hapb (s : State) (a : Nat) (bs : PBytes) : (s.wrBytes a bs).hapb = s.hapb := rfl
@[simp] theorem State.wrBytes_bootst (s : State) (a : Nat) (bs : PBytes) : (s.wrBytes a bs).bootst = s.bootst := rfl
@[simp] theorem State.wrBytes_bootFailed (s : State) (a : Nat) (bs : PBytes) : (s.wrBytes a bs).bootFailed = s.bootFailed := rfl
@[simp] theorem State.wrBytes_fusedVersion (s : State) (a : Nat) (bs : PBytes) : (s.wrBytes a bs).fusedVersion = s.fusedVersion := rfl
@[simp] theorem State.wrBytes_hostEvents (s : State) (a : Nat) (bs : PBytes) : (s.wrBytes a bs).hostEvents = s.hostEvents := rfl
@[simp] theorem State.wrBytes_outbox (s : State) (a : Nat) (bs : PBytes) : (s.wrBytes a bs).outbox = s.outbox := rfl
@[simp] theorem State.wrBytes_sentFrames (s : State) (a : Nat) (bs : PBytes) : (s.wrBytes a bs).sentFrames = s.sentFrames := rfl
@[simp] theorem State.wrBytes_delivered (s : State) (a : Nat) (bs : PBytes) : (s.wrBytes a bs).delivered = s.delivered := rfl
@[simp] theorem State.wrBytes_sentAcks (s : State) (a : Nat) (bs : PBytes) : (s.wrBytes a bs).sentAcks = s.sentAcks := rfl
@[simp] theorem State.wrBytes_sentTokens (s : State) (a : Nat) (bs : PBytes) : (s.wrBytes a bs).sentTokens = s.sentTokens := rfl
@[simp] theorem State.wrBytes_inbound (s : State) (a : Nat) (bs : PBytes) : (s.wrBytes a bs).inbound = s.inbound := rfl
@[simp] theorem State.wrBytes_inboundNo (s : State) (a : Nat) (bs : PBytes) : (s.wrBytes a bs).inboundNo = s.inboundNo := rfl
@[simp] theorem State.wrBytes_msix (s : State) (a : Nat) (bs : PBytes) : (s.wrBytes a bs).msix = s.msix := rfl
@[simp] theorem State.wrBytes_grandmaster (s : State) (a : Nat) (bs : PBytes) : (s.wrBytes a bs).grandmaster = s.grandmaster := rfl
@[simp] theorem State.wrBytes_timeSource (s : State) (a : Nat) (bs : PBytes) : (s.wrBytes a bs).timeSource = s.timeSource := rfl
@[simp] theorem State.wrBytes_sentSyncs (s : State) (a : Nat) (bs : PBytes) : (s.wrBytes a bs).sentSyncs = s.sentSyncs := rfl
@[simp] theorem State.wrBytes_sentGrants (s : State) (a : Nat) (bs : PBytes) : (s.wrBytes a bs).sentGrants = s.sentGrants := rfl
@[simp] theorem State.wrBytes_exports (s : State) (a : Nat) (bs : PBytes) : (s.wrBytes a bs).exports = s.exports := rfl
@[simp] theorem State.wrBytes_admitted (s : State) (a : Nat) (bs : PBytes) : (s.wrBytes a bs).admitted = s.admitted := rfl
@[simp] theorem State.wrBytes_joined (s : State) (a : Nat) (bs : PBytes) : (s.wrBytes a bs).joined = s.joined := rfl
@[simp] theorem State.wrBytes_saveSeq (s : State) (a : Nat) (bs : PBytes) : (s.wrBytes a bs).saveSeq = s.saveSeq := rfl
@[simp] theorem State.wrBytes_coldResets (s : State) (a : Nat) (bs : PBytes) : (s.wrBytes a bs).coldResets = s.coldResets := rfl
@[simp] theorem State.wrBytes_lmsIndex (s : State) (a : Nat) (bs : PBytes) : (s.wrBytes a bs).lmsIndex = s.lmsIndex := rfl
@[simp] theorem State.wrBytes_reports (s : State) (a : Nat) (bs : PBytes) : (s.wrBytes a bs).reports = s.reports := rfl
@[simp] theorem State.wrBytes_checkpointing (s : State) (a : Nat) (bs : PBytes) : (s.wrBytes a bs).checkpointing = s.checkpointing := rfl
@[simp] theorem State.wrBytes_probes (s : State) (a : Nat) (bs : PBytes) : (s.wrBytes a bs).probes = s.probes := rfl
@[simp] theorem State.wrBytes_probeId (s : State) (a : Nat) (bs : PBytes) : (s.wrBytes a bs).probeId = s.probeId := rfl
@[simp] theorem State.wrBytes_reserves (s : State) (a : Nat) (bs : PBytes) : (s.wrBytes a bs).reserves = s.reserves := rfl
@[simp] theorem State.wrBytes_failedLinks (s : State) (a : Nat) (bs : PBytes) : (s.wrBytes a bs).failedLinks = s.failedLinks := rfl
@[simp] theorem State.wrBytes_agenda (s : State) (a : Nat) (bs : PBytes) : (s.wrBytes a bs).agenda = s.agenda := rfl
@[simp] theorem State.wrBytes_cur (s : State) (a : Nat) (bs : PBytes) : (s.wrBytes a bs).cur = s.cur := rfl
@[simp] theorem State.wrBytes_turns (s : State) (a : Nat) (bs : PBytes) : (s.wrBytes a bs).turns = s.turns := rfl
@[simp] theorem State.wrBytes_stalled (s : State) (a : Nat) (bs : PBytes) : (s.wrBytes a bs).stalled = s.stalled := rfl
@[simp] theorem State.wrBytes_delays (s : State) (a : Nat) (bs : PBytes) : (s.wrBytes a bs).delays = s.delays := rfl
@[simp] theorem State.wrBytes_errors (s : State) (a : Nat) (bs : PBytes) : (s.wrBytes a bs).errors = s.errors := rfl
@[simp] theorem State.wrBytes_shadowErrors (s : State) (a : Nat) (bs : PBytes) : (s.wrBytes a bs).shadowErrors = s.shadowErrors := rfl
@[simp] theorem State.wrBytes_peeks (s : State) (a : Nat) (bs : PBytes) : (s.wrBytes a bs).peeks = s.peeks := rfl
@[simp] theorem State.wrBytes_freeCount (s : State) (a : Nat) (bs : PBytes) : (s.wrBytes a bs).freeCount = s.freeCount := rfl

/-! ## `Core.setPc` -/

@[simp] theorem Core.setPc_arch_pc (k : Core) (pc : Dword) : (k.setPc pc).arch.pc = pc := rfl
@[simp] theorem Core.setPc_arch_regs (k : Core) (pc : Dword) : (k.setPc pc).arch.regs = k.arch.regs := rfl
@[simp] theorem Core.setPc_arch_side (k : Core) (pc : Dword) : (k.setPc pc).arch.side = k.arch.side := rfl
@[simp] theorem Core.setPc_arch_rows (k : Core) (pc : Dword) : (k.setPc pc).arch.rows = k.arch.rows := rfl
@[simp] theorem Core.setPc_arch_rowSide (k : Core) (pc : Dword) : (k.setPc pc).arch.rowSide = k.arch.rowSide := rfl
@[simp] theorem Core.setPc_arch_queues (k : Core) (pc : Dword) : (k.setPc pc).arch.queues = k.arch.queues := rfl
@[simp] theorem Core.setPc_arch_fmts (k : Core) (pc : Dword) : (k.setPc pc).arch.fmts = k.arch.fmts := rfl
@[simp] theorem Core.setPc_arch_rmode (k : Core) (pc : Dword) : (k.setPc pc).arch.rmode = k.arch.rmode := rfl
@[simp] theorem Core.setPc_arch_mdef (k : Core) (pc : Dword) : (k.setPc pc).arch.mdef = k.arch.mdef := rfl
@[simp] theorem Core.setPc_arch_shapes (k : Core) (pc : Dword) : (k.setPc pc).arch.shapes = k.arch.shapes := rfl
@[simp] theorem Core.setPc_arch_accs (k : Core) (pc : Dword) : (k.setPc pc).arch.accs = k.arch.accs := rfl
@[simp] theorem Core.setPc_arch_metas (k : Core) (pc : Dword) : (k.setPc pc).arch.metas = k.arch.metas := rfl
@[simp] theorem Core.setPc_arch_seq0 (k : Core) (pc : Dword) : (k.setPc pc).arch.seq0 = k.arch.seq0 := rfl
@[simp] theorem Core.setPc_arch_tlIssued (k : Core) (pc : Dword) : (k.setPc pc).arch.tlIssued = k.arch.tlIssued := rfl
@[simp] theorem Core.setPc_arch_tlCount (k : Core) (pc : Dword) : (k.setPc pc).arch.tlCount = k.arch.tlCount := rfl
@[simp] theorem Core.setPc_arch_tlAhead (k : Core) (pc : Dword) : (k.setPc pc).arch.tlAhead = k.arch.tlAhead := rfl
@[simp] theorem Core.setPc_arch_redSent (k : Core) (pc : Dword) : (k.setPc pc).arch.redSent = k.arch.redSent := rfl
@[simp] theorem Core.setPc_arch_redAwaited (k : Core) (pc : Dword) : (k.setPc pc).arch.redAwaited = k.arch.redAwaited := rfl
@[simp] theorem Core.setPc_arch_sendNo (k : Core) (pc : Dword) : (k.setPc pc).arch.sendNo = k.arch.sendNo := rfl
@[simp] theorem Core.setPc_level (k : Core) (pc : Dword) : (k.setPc pc).level = k.level := rfl
@[simp] theorem Core.setPc_epc (k : Core) (pc : Dword) : (k.setPc pc).epc = k.epc := rfl
@[simp] theorem Core.setPc_ecause (k : Core) (pc : Dword) : (k.setPc pc).ecause = k.ecause := rfl
@[simp] theorem Core.setPc_faddr (k : Core) (pc : Dword) : (k.setPc pc).faddr = k.faddr := rfl
@[simp] theorem Core.setPc_fstart (k : Core) (pc : Dword) : (k.setPc pc).fstart = k.fstart := rfl
@[simp] theorem Core.setPc_xepc (k : Core) (pc : Dword) : (k.setPc pc).xepc = k.xepc := rfl
@[simp] theorem Core.setPc_xcause (k : Core) (pc : Dword) : (k.setPc pc).xcause = k.xcause := rfl
@[simp] theorem Core.setPc_xfaddr (k : Core) (pc : Dword) : (k.setPc pc).xfaddr = k.xfaddr := rfl
@[simp] theorem Core.setPc_xfstart (k : Core) (pc : Dword) : (k.setPc pc).xfstart = k.xfstart := rfl
@[simp] theorem Core.setPc_seq1 (k : Core) (pc : Dword) : (k.setPc pc).seq1 = k.seq1 := rfl
@[simp] theorem Core.setPc_seq2 (k : Core) (pc : Dword) : (k.setPc pc).seq2 = k.seq2 := rfl
@[simp] theorem Core.setPc_xstat (k : Core) (pc : Dword) : (k.setPc pc).xstat = k.xstat := rfl
@[simp] theorem Core.setPc_lsecc (k : Core) (pc : Dword) : (k.setPc pc).lsecc = k.lsecc := rfl
@[simp] theorem Core.setPc_taint (k : Core) (pc : Dword) : (k.setPc pc).taint = k.taint := rfl
@[simp] theorem Core.setPc_loads (k : Core) (pc : Dword) : (k.setPc pc).loads = k.loads := rfl
@[simp] theorem Core.setPc_loadSeq (k : Core) (pc : Dword) : (k.setPc pc).loadSeq = k.loadSeq := rfl
@[simp] theorem Core.setPc_pend (k : Core) (pc : Dword) : (k.setPc pc).pend = k.pend := rfl
@[simp] theorem Core.setPc_inflight (k : Core) (pc : Dword) : (k.setPc pc).inflight = k.inflight := rfl
@[simp] theorem Core.setPc_serial (k : Core) (pc : Dword) : (k.setPc pc).serial = k.serial := rfl
@[simp] theorem Core.setPc_pendMod (k : Core) (pc : Dword) : (k.setPc pc).pendMod = none := rfl
@[simp] theorem Core.setPc_word (k : Core) (pc : Dword) : (k.setPc pc).word = k.word := rfl
@[simp] theorem Core.setPc_layerA (k : Core) (pc : Dword) : (k.setPc pc).layerA = k.layerA := rfl
@[simp] theorem Core.setPc_layerB (k : Core) (pc : Dword) : (k.setPc pc).layerB = k.layerB := rfl
@[simp] theorem Core.setPc_banks (k : Core) (pc : Dword) : (k.setPc pc).banks = k.banks := rfl
@[simp] theorem Core.setPc_buses (k : Core) (pc : Dword) : (k.setPc pc).buses = k.buses := rfl
@[simp] theorem Core.setPc_ls (k : Core) (pc : Dword) : (k.setPc pc).ls = k.ls := rfl
@[simp] theorem Core.setPc_lsPois (k : Core) (pc : Dword) : (k.setPc pc).lsPois = k.lsPois := rfl
@[simp] theorem Core.setPc_l1 (k : Core) (pc : Dword) : (k.setPc pc).l1 = k.l1 := rfl
@[simp] theorem Core.setPc_l1Errors (k : Core) (pc : Dword) : (k.setPc pc).l1Errors = k.l1Errors := rfl
@[simp] theorem Core.setPc_l1Off (k : Core) (pc : Dword) : (k.setPc pc).l1Off = k.l1Off := rfl
@[simp] theorem Core.setPc_tlb (k : Core) (pc : Dword) : (k.setPc pc).tlb = k.tlb := rfl
@[simp] theorem Core.setPc_armed (k : Core) (pc : Dword) : (k.setPc pc).armed = k.armed := rfl
@[simp] theorem Core.setPc_gangWait (k : Core) (pc : Dword) : (k.setPc pc).gangWait = k.gangWait := rfl
@[simp] theorem Core.setPc_eventFlag (k : Core) (pc : Dword) : (k.setPc pc).eventFlag = k.eventFlag := rfl
@[simp] theorem Core.setPc_sleep (k : Core) (pc : Dword) : (k.setPc pc).sleep = k.sleep := rfl
@[simp] theorem Core.setPc_cmds (k : Core) (pc : Dword) : (k.setPc pc).cmds = k.cmds := rfl
@[simp] theorem Core.setPc_snapshot (k : Core) (pc : Dword) : (k.setPc pc).snapshot = k.snapshot := rfl
@[simp] theorem Core.setPc_journal (k : Core) (pc : Dword) : (k.setPc pc).journal = k.journal := rfl
@[simp] theorem Core.setPc_mcRecord (k : Core) (pc : Dword) : (k.setPc pc).mcRecord = k.mcRecord := rfl
@[simp] theorem Core.setPc_early (k : Core) (pc : Dword) : (k.setPc pc).early = k.early := rfl
@[simp] theorem Core.setPc_uops (k : Core) (pc : Dword) : (k.setPc pc).uops = k.uops := rfl
@[simp] theorem Core.setPc_deficit (k : Core) (pc : Dword) : (k.setPc pc).deficit = k.deficit := rfl
@[simp] theorem Core.setPc_chans (k : Core) (pc : Dword) : (k.setPc pc).chans = k.chans := rfl
@[simp] theorem Core.setPc_xbytes (k : Core) (pc : Dword) : (k.setPc pc).xbytes = k.xbytes := rfl
@[simp] theorem Core.setPc_accepted (k : Core) (pc : Dword) : (k.setPc pc).accepted = k.accepted := rfl
@[simp] theorem Core.setPc_qp (k : Core) (pc : Dword) : (k.setPc pc).qp = k.qp := rfl
@[simp] theorem Core.setPc_saWait (k : Core) (pc : Dword) : (k.setPc pc).saWait = k.saWait := rfl
@[simp] theorem Core.setPc_task (k : Core) (pc : Dword) : (k.setPc pc).task = k.task := rfl
@[simp] theorem Core.setPc_lastCtx (k : Core) (pc : Dword) : (k.setPc pc).lastCtx = k.lastCtx := rfl
@[simp] theorem Core.setPc_stopReq (k : Core) (pc : Dword) : (k.setPc pc).stopReq = k.stopReq := rfl
@[simp] theorem Core.setPc_stopped (k : Core) (pc : Dword) : (k.setPc pc).stopped = k.stopped := rfl
@[simp] theorem Core.setPc_following (k : Core) (pc : Dword) : (k.setPc pc).following = k.following := rfl
@[simp] theorem Core.setPc_inbox (k : Core) (pc : Dword) : (k.setPc pc).inbox = k.inbox := rfl
@[simp] theorem Core.setPc_hashWait (k : Core) (pc : Dword) : (k.setPc pc).hashWait = k.hashWait := rfl
@[simp] theorem Core.setPc_hashPass (k : Core) (pc : Dword) : (k.setPc pc).hashPass = k.hashPass := rfl
@[simp] theorem Core.setPc_ended (k : Core) (pc : Dword) : (k.setPc pc).ended = k.ended := rfl
@[simp] theorem Core.setPc_redWait (k : Core) (pc : Dword) : (k.setPc pc).redWait = k.redWait := rfl

/-! ## `Core.setRow` -/

@[simp] theorem Core.setRow_arch_pc (k : Core) (r : Nat) (v : Row) (p : Bool) : (k.setRow r v p).arch.pc = k.arch.pc := rfl
@[simp] theorem Core.setRow_arch_regs (k : Core) (r : Nat) (v : Row) (p : Bool) : (k.setRow r v p).arch.regs = k.arch.regs := rfl
@[simp] theorem Core.setRow_arch_side (k : Core) (r : Nat) (v : Row) (p : Bool) : (k.setRow r v p).arch.side = k.arch.side := rfl
@[simp] theorem Core.setRow_arch_rows (k : Core) (r : Nat) (v : Row) (p : Bool) : (k.setRow r v p).arch.rows = Map.set 0 k.arch.rows r v := rfl
@[simp] theorem Core.setRow_arch_rowSide (k : Core) (r : Nat) (v : Row) (p : Bool) : (k.setRow r v p).arch.rowSide = setBit k.arch.rowSide r p := rfl
@[simp] theorem Core.setRow_arch_queues (k : Core) (r : Nat) (v : Row) (p : Bool) : (k.setRow r v p).arch.queues = k.arch.queues := rfl
@[simp] theorem Core.setRow_arch_fmts (k : Core) (r : Nat) (v : Row) (p : Bool) : (k.setRow r v p).arch.fmts = k.arch.fmts := rfl
@[simp] theorem Core.setRow_arch_rmode (k : Core) (r : Nat) (v : Row) (p : Bool) : (k.setRow r v p).arch.rmode = k.arch.rmode := rfl
@[simp] theorem Core.setRow_arch_mdef (k : Core) (r : Nat) (v : Row) (p : Bool) : (k.setRow r v p).arch.mdef = k.arch.mdef := rfl
@[simp] theorem Core.setRow_arch_shapes (k : Core) (r : Nat) (v : Row) (p : Bool) : (k.setRow r v p).arch.shapes = k.arch.shapes := rfl
@[simp] theorem Core.setRow_arch_accs (k : Core) (r : Nat) (v : Row) (p : Bool) : (k.setRow r v p).arch.accs = k.arch.accs := rfl
@[simp] theorem Core.setRow_arch_metas (k : Core) (r : Nat) (v : Row) (p : Bool) : (k.setRow r v p).arch.metas = k.arch.metas := rfl
@[simp] theorem Core.setRow_arch_seq0 (k : Core) (r : Nat) (v : Row) (p : Bool) : (k.setRow r v p).arch.seq0 = k.arch.seq0 := rfl
@[simp] theorem Core.setRow_arch_tlIssued (k : Core) (r : Nat) (v : Row) (p : Bool) : (k.setRow r v p).arch.tlIssued = k.arch.tlIssued := rfl
@[simp] theorem Core.setRow_arch_tlCount (k : Core) (r : Nat) (v : Row) (p : Bool) : (k.setRow r v p).arch.tlCount = k.arch.tlCount := rfl
@[simp] theorem Core.setRow_arch_tlAhead (k : Core) (r : Nat) (v : Row) (p : Bool) : (k.setRow r v p).arch.tlAhead = k.arch.tlAhead := rfl
@[simp] theorem Core.setRow_arch_redSent (k : Core) (r : Nat) (v : Row) (p : Bool) : (k.setRow r v p).arch.redSent = k.arch.redSent := rfl
@[simp] theorem Core.setRow_arch_redAwaited (k : Core) (r : Nat) (v : Row) (p : Bool) : (k.setRow r v p).arch.redAwaited = k.arch.redAwaited := rfl
@[simp] theorem Core.setRow_arch_sendNo (k : Core) (r : Nat) (v : Row) (p : Bool) : (k.setRow r v p).arch.sendNo = k.arch.sendNo := rfl
@[simp] theorem Core.setRow_level (k : Core) (r : Nat) (v : Row) (p : Bool) : (k.setRow r v p).level = k.level := rfl
@[simp] theorem Core.setRow_epc (k : Core) (r : Nat) (v : Row) (p : Bool) : (k.setRow r v p).epc = k.epc := rfl
@[simp] theorem Core.setRow_ecause (k : Core) (r : Nat) (v : Row) (p : Bool) : (k.setRow r v p).ecause = k.ecause := rfl
@[simp] theorem Core.setRow_faddr (k : Core) (r : Nat) (v : Row) (p : Bool) : (k.setRow r v p).faddr = k.faddr := rfl
@[simp] theorem Core.setRow_fstart (k : Core) (r : Nat) (v : Row) (p : Bool) : (k.setRow r v p).fstart = k.fstart := rfl
@[simp] theorem Core.setRow_xepc (k : Core) (r : Nat) (v : Row) (p : Bool) : (k.setRow r v p).xepc = k.xepc := rfl
@[simp] theorem Core.setRow_xcause (k : Core) (r : Nat) (v : Row) (p : Bool) : (k.setRow r v p).xcause = k.xcause := rfl
@[simp] theorem Core.setRow_xfaddr (k : Core) (r : Nat) (v : Row) (p : Bool) : (k.setRow r v p).xfaddr = k.xfaddr := rfl
@[simp] theorem Core.setRow_xfstart (k : Core) (r : Nat) (v : Row) (p : Bool) : (k.setRow r v p).xfstart = k.xfstart := rfl
@[simp] theorem Core.setRow_seq1 (k : Core) (r : Nat) (v : Row) (p : Bool) : (k.setRow r v p).seq1 = k.seq1 := rfl
@[simp] theorem Core.setRow_seq2 (k : Core) (r : Nat) (v : Row) (p : Bool) : (k.setRow r v p).seq2 = k.seq2 := rfl
@[simp] theorem Core.setRow_xstat (k : Core) (r : Nat) (v : Row) (p : Bool) : (k.setRow r v p).xstat = k.xstat := rfl
@[simp] theorem Core.setRow_lsecc (k : Core) (r : Nat) (v : Row) (p : Bool) : (k.setRow r v p).lsecc = k.lsecc := rfl
@[simp] theorem Core.setRow_taint (k : Core) (r : Nat) (v : Row) (p : Bool) : (k.setRow r v p).taint = k.taint := rfl
@[simp] theorem Core.setRow_loads (k : Core) (r : Nat) (v : Row) (p : Bool) : (k.setRow r v p).loads = k.loads := rfl
@[simp] theorem Core.setRow_loadSeq (k : Core) (r : Nat) (v : Row) (p : Bool) : (k.setRow r v p).loadSeq = k.loadSeq := rfl
@[simp] theorem Core.setRow_pend (k : Core) (r : Nat) (v : Row) (p : Bool) : (k.setRow r v p).pend = k.pend := rfl
@[simp] theorem Core.setRow_inflight (k : Core) (r : Nat) (v : Row) (p : Bool) : (k.setRow r v p).inflight = k.inflight := rfl
@[simp] theorem Core.setRow_serial (k : Core) (r : Nat) (v : Row) (p : Bool) : (k.setRow r v p).serial = k.serial := rfl
@[simp] theorem Core.setRow_pendMod (k : Core) (r : Nat) (v : Row) (p : Bool) : (k.setRow r v p).pendMod = k.pendMod := rfl
@[simp] theorem Core.setRow_word (k : Core) (r : Nat) (v : Row) (p : Bool) : (k.setRow r v p).word = k.word := rfl
@[simp] theorem Core.setRow_layerA (k : Core) (r : Nat) (v : Row) (p : Bool) : (k.setRow r v p).layerA = k.layerA := rfl
@[simp] theorem Core.setRow_layerB (k : Core) (r : Nat) (v : Row) (p : Bool) : (k.setRow r v p).layerB = k.layerB := rfl
@[simp] theorem Core.setRow_banks (k : Core) (r : Nat) (v : Row) (p : Bool) : (k.setRow r v p).banks = k.banks := rfl
@[simp] theorem Core.setRow_buses (k : Core) (r : Nat) (v : Row) (p : Bool) : (k.setRow r v p).buses = k.buses := rfl
@[simp] theorem Core.setRow_ls (k : Core) (r : Nat) (v : Row) (p : Bool) : (k.setRow r v p).ls = k.ls := rfl
@[simp] theorem Core.setRow_lsPois (k : Core) (r : Nat) (v : Row) (p : Bool) : (k.setRow r v p).lsPois = k.lsPois := rfl
@[simp] theorem Core.setRow_l1 (k : Core) (r : Nat) (v : Row) (p : Bool) : (k.setRow r v p).l1 = k.l1 := rfl
@[simp] theorem Core.setRow_l1Errors (k : Core) (r : Nat) (v : Row) (p : Bool) : (k.setRow r v p).l1Errors = k.l1Errors := rfl
@[simp] theorem Core.setRow_l1Off (k : Core) (r : Nat) (v : Row) (p : Bool) : (k.setRow r v p).l1Off = k.l1Off := rfl
@[simp] theorem Core.setRow_tlb (k : Core) (r : Nat) (v : Row) (p : Bool) : (k.setRow r v p).tlb = k.tlb := rfl
@[simp] theorem Core.setRow_armed (k : Core) (r : Nat) (v : Row) (p : Bool) : (k.setRow r v p).armed = k.armed := rfl
@[simp] theorem Core.setRow_gangWait (k : Core) (r : Nat) (v : Row) (p : Bool) : (k.setRow r v p).gangWait = k.gangWait := rfl
@[simp] theorem Core.setRow_eventFlag (k : Core) (r : Nat) (v : Row) (p : Bool) : (k.setRow r v p).eventFlag = k.eventFlag := rfl
@[simp] theorem Core.setRow_sleep (k : Core) (r : Nat) (v : Row) (p : Bool) : (k.setRow r v p).sleep = k.sleep := rfl
@[simp] theorem Core.setRow_cmds (k : Core) (r : Nat) (v : Row) (p : Bool) : (k.setRow r v p).cmds = k.cmds := rfl
@[simp] theorem Core.setRow_snapshot (k : Core) (r : Nat) (v : Row) (p : Bool) : (k.setRow r v p).snapshot = k.snapshot := rfl
@[simp] theorem Core.setRow_journal (k : Core) (r : Nat) (v : Row) (p : Bool) : (k.setRow r v p).journal = k.journal := rfl
@[simp] theorem Core.setRow_mcRecord (k : Core) (r : Nat) (v : Row) (p : Bool) : (k.setRow r v p).mcRecord = k.mcRecord := rfl
@[simp] theorem Core.setRow_early (k : Core) (r : Nat) (v : Row) (p : Bool) : (k.setRow r v p).early = k.early := rfl
@[simp] theorem Core.setRow_uops (k : Core) (r : Nat) (v : Row) (p : Bool) : (k.setRow r v p).uops = k.uops := rfl
@[simp] theorem Core.setRow_deficit (k : Core) (r : Nat) (v : Row) (p : Bool) : (k.setRow r v p).deficit = k.deficit := rfl
@[simp] theorem Core.setRow_chans (k : Core) (r : Nat) (v : Row) (p : Bool) : (k.setRow r v p).chans = k.chans := rfl
@[simp] theorem Core.setRow_xbytes (k : Core) (r : Nat) (v : Row) (p : Bool) : (k.setRow r v p).xbytes = k.xbytes := rfl
@[simp] theorem Core.setRow_accepted (k : Core) (r : Nat) (v : Row) (p : Bool) : (k.setRow r v p).accepted = k.accepted := rfl
@[simp] theorem Core.setRow_qp (k : Core) (r : Nat) (v : Row) (p : Bool) : (k.setRow r v p).qp = k.qp := rfl
@[simp] theorem Core.setRow_saWait (k : Core) (r : Nat) (v : Row) (p : Bool) : (k.setRow r v p).saWait = k.saWait := rfl
@[simp] theorem Core.setRow_task (k : Core) (r : Nat) (v : Row) (p : Bool) : (k.setRow r v p).task = k.task := rfl
@[simp] theorem Core.setRow_lastCtx (k : Core) (r : Nat) (v : Row) (p : Bool) : (k.setRow r v p).lastCtx = k.lastCtx := rfl
@[simp] theorem Core.setRow_stopReq (k : Core) (r : Nat) (v : Row) (p : Bool) : (k.setRow r v p).stopReq = k.stopReq := rfl
@[simp] theorem Core.setRow_stopped (k : Core) (r : Nat) (v : Row) (p : Bool) : (k.setRow r v p).stopped = k.stopped := rfl
@[simp] theorem Core.setRow_following (k : Core) (r : Nat) (v : Row) (p : Bool) : (k.setRow r v p).following = k.following := rfl
@[simp] theorem Core.setRow_inbox (k : Core) (r : Nat) (v : Row) (p : Bool) : (k.setRow r v p).inbox = k.inbox := rfl
@[simp] theorem Core.setRow_hashWait (k : Core) (r : Nat) (v : Row) (p : Bool) : (k.setRow r v p).hashWait = k.hashWait := rfl
@[simp] theorem Core.setRow_hashPass (k : Core) (r : Nat) (v : Row) (p : Bool) : (k.setRow r v p).hashPass = k.hashPass := rfl
@[simp] theorem Core.setRow_ended (k : Core) (r : Nat) (v : Row) (p : Bool) : (k.setRow r v p).ended = k.ended := rfl
@[simp] theorem Core.setRow_redWait (k : Core) (r : Nat) (v : Row) (p : Bool) : (k.setRow r v p).redWait = k.redWait := rfl

/-! ## `Core.setQueue` -/

@[simp] theorem Core.setQueue_arch_pc (k : Core) (q : Nat) (es : List QEntry) : (k.setQueue q es).arch.pc = k.arch.pc := rfl
@[simp] theorem Core.setQueue_arch_regs (k : Core) (q : Nat) (es : List QEntry) : (k.setQueue q es).arch.regs = k.arch.regs := rfl
@[simp] theorem Core.setQueue_arch_side (k : Core) (q : Nat) (es : List QEntry) : (k.setQueue q es).arch.side = k.arch.side := rfl
@[simp] theorem Core.setQueue_arch_rows (k : Core) (q : Nat) (es : List QEntry) : (k.setQueue q es).arch.rows = k.arch.rows := rfl
@[simp] theorem Core.setQueue_arch_rowSide (k : Core) (q : Nat) (es : List QEntry) : (k.setQueue q es).arch.rowSide = k.arch.rowSide := rfl
@[simp] theorem Core.setQueue_arch_queues (k : Core) (q : Nat) (es : List QEntry) : (k.setQueue q es).arch.queues = Map.set [] k.arch.queues q es := rfl
@[simp] theorem Core.setQueue_arch_fmts (k : Core) (q : Nat) (es : List QEntry) : (k.setQueue q es).arch.fmts = k.arch.fmts := rfl
@[simp] theorem Core.setQueue_arch_rmode (k : Core) (q : Nat) (es : List QEntry) : (k.setQueue q es).arch.rmode = k.arch.rmode := rfl
@[simp] theorem Core.setQueue_arch_mdef (k : Core) (q : Nat) (es : List QEntry) : (k.setQueue q es).arch.mdef = k.arch.mdef := rfl
@[simp] theorem Core.setQueue_arch_shapes (k : Core) (q : Nat) (es : List QEntry) : (k.setQueue q es).arch.shapes = k.arch.shapes := rfl
@[simp] theorem Core.setQueue_arch_accs (k : Core) (q : Nat) (es : List QEntry) : (k.setQueue q es).arch.accs = k.arch.accs := rfl
@[simp] theorem Core.setQueue_arch_metas (k : Core) (q : Nat) (es : List QEntry) : (k.setQueue q es).arch.metas = k.arch.metas := rfl
@[simp] theorem Core.setQueue_arch_seq0 (k : Core) (q : Nat) (es : List QEntry) : (k.setQueue q es).arch.seq0 = k.arch.seq0 := rfl
@[simp] theorem Core.setQueue_arch_tlIssued (k : Core) (q : Nat) (es : List QEntry) : (k.setQueue q es).arch.tlIssued = k.arch.tlIssued := rfl
@[simp] theorem Core.setQueue_arch_tlCount (k : Core) (q : Nat) (es : List QEntry) : (k.setQueue q es).arch.tlCount = k.arch.tlCount := rfl
@[simp] theorem Core.setQueue_arch_tlAhead (k : Core) (q : Nat) (es : List QEntry) : (k.setQueue q es).arch.tlAhead = k.arch.tlAhead := rfl
@[simp] theorem Core.setQueue_arch_redSent (k : Core) (q : Nat) (es : List QEntry) : (k.setQueue q es).arch.redSent = k.arch.redSent := rfl
@[simp] theorem Core.setQueue_arch_redAwaited (k : Core) (q : Nat) (es : List QEntry) : (k.setQueue q es).arch.redAwaited = k.arch.redAwaited := rfl
@[simp] theorem Core.setQueue_arch_sendNo (k : Core) (q : Nat) (es : List QEntry) : (k.setQueue q es).arch.sendNo = k.arch.sendNo := rfl
@[simp] theorem Core.setQueue_level (k : Core) (q : Nat) (es : List QEntry) : (k.setQueue q es).level = k.level := rfl
@[simp] theorem Core.setQueue_epc (k : Core) (q : Nat) (es : List QEntry) : (k.setQueue q es).epc = k.epc := rfl
@[simp] theorem Core.setQueue_ecause (k : Core) (q : Nat) (es : List QEntry) : (k.setQueue q es).ecause = k.ecause := rfl
@[simp] theorem Core.setQueue_faddr (k : Core) (q : Nat) (es : List QEntry) : (k.setQueue q es).faddr = k.faddr := rfl
@[simp] theorem Core.setQueue_fstart (k : Core) (q : Nat) (es : List QEntry) : (k.setQueue q es).fstart = k.fstart := rfl
@[simp] theorem Core.setQueue_xepc (k : Core) (q : Nat) (es : List QEntry) : (k.setQueue q es).xepc = k.xepc := rfl
@[simp] theorem Core.setQueue_xcause (k : Core) (q : Nat) (es : List QEntry) : (k.setQueue q es).xcause = k.xcause := rfl
@[simp] theorem Core.setQueue_xfaddr (k : Core) (q : Nat) (es : List QEntry) : (k.setQueue q es).xfaddr = k.xfaddr := rfl
@[simp] theorem Core.setQueue_xfstart (k : Core) (q : Nat) (es : List QEntry) : (k.setQueue q es).xfstart = k.xfstart := rfl
@[simp] theorem Core.setQueue_seq1 (k : Core) (q : Nat) (es : List QEntry) : (k.setQueue q es).seq1 = k.seq1 := rfl
@[simp] theorem Core.setQueue_seq2 (k : Core) (q : Nat) (es : List QEntry) : (k.setQueue q es).seq2 = k.seq2 := rfl
@[simp] theorem Core.setQueue_xstat (k : Core) (q : Nat) (es : List QEntry) : (k.setQueue q es).xstat = k.xstat := rfl
@[simp] theorem Core.setQueue_lsecc (k : Core) (q : Nat) (es : List QEntry) : (k.setQueue q es).lsecc = k.lsecc := rfl
@[simp] theorem Core.setQueue_taint (k : Core) (q : Nat) (es : List QEntry) : (k.setQueue q es).taint = k.taint := rfl
@[simp] theorem Core.setQueue_loads (k : Core) (q : Nat) (es : List QEntry) : (k.setQueue q es).loads = k.loads := rfl
@[simp] theorem Core.setQueue_loadSeq (k : Core) (q : Nat) (es : List QEntry) : (k.setQueue q es).loadSeq = k.loadSeq := rfl
@[simp] theorem Core.setQueue_pend (k : Core) (q : Nat) (es : List QEntry) : (k.setQueue q es).pend = k.pend := rfl
@[simp] theorem Core.setQueue_inflight (k : Core) (q : Nat) (es : List QEntry) : (k.setQueue q es).inflight = k.inflight := rfl
@[simp] theorem Core.setQueue_serial (k : Core) (q : Nat) (es : List QEntry) : (k.setQueue q es).serial = k.serial := rfl
@[simp] theorem Core.setQueue_pendMod (k : Core) (q : Nat) (es : List QEntry) : (k.setQueue q es).pendMod = k.pendMod := rfl
@[simp] theorem Core.setQueue_word (k : Core) (q : Nat) (es : List QEntry) : (k.setQueue q es).word = k.word := rfl
@[simp] theorem Core.setQueue_layerA (k : Core) (q : Nat) (es : List QEntry) : (k.setQueue q es).layerA = k.layerA := rfl
@[simp] theorem Core.setQueue_layerB (k : Core) (q : Nat) (es : List QEntry) : (k.setQueue q es).layerB = k.layerB := rfl
@[simp] theorem Core.setQueue_banks (k : Core) (q : Nat) (es : List QEntry) : (k.setQueue q es).banks = k.banks := rfl
@[simp] theorem Core.setQueue_buses (k : Core) (q : Nat) (es : List QEntry) : (k.setQueue q es).buses = k.buses := rfl
@[simp] theorem Core.setQueue_ls (k : Core) (q : Nat) (es : List QEntry) : (k.setQueue q es).ls = k.ls := rfl
@[simp] theorem Core.setQueue_lsPois (k : Core) (q : Nat) (es : List QEntry) : (k.setQueue q es).lsPois = k.lsPois := rfl
@[simp] theorem Core.setQueue_l1 (k : Core) (q : Nat) (es : List QEntry) : (k.setQueue q es).l1 = k.l1 := rfl
@[simp] theorem Core.setQueue_l1Errors (k : Core) (q : Nat) (es : List QEntry) : (k.setQueue q es).l1Errors = k.l1Errors := rfl
@[simp] theorem Core.setQueue_l1Off (k : Core) (q : Nat) (es : List QEntry) : (k.setQueue q es).l1Off = k.l1Off := rfl
@[simp] theorem Core.setQueue_tlb (k : Core) (q : Nat) (es : List QEntry) : (k.setQueue q es).tlb = k.tlb := rfl
@[simp] theorem Core.setQueue_armed (k : Core) (q : Nat) (es : List QEntry) : (k.setQueue q es).armed = k.armed := rfl
@[simp] theorem Core.setQueue_gangWait (k : Core) (q : Nat) (es : List QEntry) : (k.setQueue q es).gangWait = k.gangWait := rfl
@[simp] theorem Core.setQueue_eventFlag (k : Core) (q : Nat) (es : List QEntry) : (k.setQueue q es).eventFlag = k.eventFlag := rfl
@[simp] theorem Core.setQueue_sleep (k : Core) (q : Nat) (es : List QEntry) : (k.setQueue q es).sleep = k.sleep := rfl
@[simp] theorem Core.setQueue_cmds (k : Core) (q : Nat) (es : List QEntry) : (k.setQueue q es).cmds = k.cmds := rfl
@[simp] theorem Core.setQueue_snapshot (k : Core) (q : Nat) (es : List QEntry) : (k.setQueue q es).snapshot = k.snapshot := rfl
@[simp] theorem Core.setQueue_journal (k : Core) (q : Nat) (es : List QEntry) : (k.setQueue q es).journal = k.journal := rfl
@[simp] theorem Core.setQueue_mcRecord (k : Core) (q : Nat) (es : List QEntry) : (k.setQueue q es).mcRecord = k.mcRecord := rfl
@[simp] theorem Core.setQueue_early (k : Core) (q : Nat) (es : List QEntry) : (k.setQueue q es).early = k.early := rfl
@[simp] theorem Core.setQueue_uops (k : Core) (q : Nat) (es : List QEntry) : (k.setQueue q es).uops = k.uops := rfl
@[simp] theorem Core.setQueue_deficit (k : Core) (q : Nat) (es : List QEntry) : (k.setQueue q es).deficit = k.deficit := rfl
@[simp] theorem Core.setQueue_chans (k : Core) (q : Nat) (es : List QEntry) : (k.setQueue q es).chans = k.chans := rfl
@[simp] theorem Core.setQueue_xbytes (k : Core) (q : Nat) (es : List QEntry) : (k.setQueue q es).xbytes = k.xbytes := rfl
@[simp] theorem Core.setQueue_accepted (k : Core) (q : Nat) (es : List QEntry) : (k.setQueue q es).accepted = k.accepted := rfl
@[simp] theorem Core.setQueue_qp (k : Core) (q : Nat) (es : List QEntry) : (k.setQueue q es).qp = k.qp := rfl
@[simp] theorem Core.setQueue_saWait (k : Core) (q : Nat) (es : List QEntry) : (k.setQueue q es).saWait = k.saWait := rfl
@[simp] theorem Core.setQueue_task (k : Core) (q : Nat) (es : List QEntry) : (k.setQueue q es).task = k.task := rfl
@[simp] theorem Core.setQueue_lastCtx (k : Core) (q : Nat) (es : List QEntry) : (k.setQueue q es).lastCtx = k.lastCtx := rfl
@[simp] theorem Core.setQueue_stopReq (k : Core) (q : Nat) (es : List QEntry) : (k.setQueue q es).stopReq = k.stopReq := rfl
@[simp] theorem Core.setQueue_stopped (k : Core) (q : Nat) (es : List QEntry) : (k.setQueue q es).stopped = k.stopped := rfl
@[simp] theorem Core.setQueue_following (k : Core) (q : Nat) (es : List QEntry) : (k.setQueue q es).following = k.following := rfl
@[simp] theorem Core.setQueue_inbox (k : Core) (q : Nat) (es : List QEntry) : (k.setQueue q es).inbox = k.inbox := rfl
@[simp] theorem Core.setQueue_hashWait (k : Core) (q : Nat) (es : List QEntry) : (k.setQueue q es).hashWait = k.hashWait := rfl
@[simp] theorem Core.setQueue_hashPass (k : Core) (q : Nat) (es : List QEntry) : (k.setQueue q es).hashPass = k.hashPass := rfl
@[simp] theorem Core.setQueue_ended (k : Core) (q : Nat) (es : List QEntry) : (k.setQueue q es).ended = k.ended := rfl
@[simp] theorem Core.setQueue_redWait (k : Core) (q : Nat) (es : List QEntry) : (k.setQueue q es).redWait = k.redWait := rfl

/-! ## `Core.orFlags` -/

@[simp] theorem Core.orFlags_arch_pc (k : Core) (f : Dword) : (k.orFlags f).arch.pc = k.arch.pc := rfl
@[simp] theorem Core.orFlags_arch_regs (k : Core) (f : Dword) : (k.orFlags f).arch.regs = k.arch.regs := rfl
@[simp] theorem Core.orFlags_arch_side (k : Core) (f : Dword) : (k.orFlags f).arch.side = k.arch.side := rfl
@[simp] theorem Core.orFlags_arch_rows (k : Core) (f : Dword) : (k.orFlags f).arch.rows = k.arch.rows := rfl
@[simp] theorem Core.orFlags_arch_rowSide (k : Core) (f : Dword) : (k.orFlags f).arch.rowSide = k.arch.rowSide := rfl
@[simp] theorem Core.orFlags_arch_queues (k : Core) (f : Dword) : (k.orFlags f).arch.queues = k.arch.queues := rfl
@[simp] theorem Core.orFlags_arch_fmts (k : Core) (f : Dword) : (k.orFlags f).arch.fmts = k.arch.fmts := rfl
@[simp] theorem Core.orFlags_arch_rmode (k : Core) (f : Dword) : (k.orFlags f).arch.rmode = k.arch.rmode ||| f := rfl
@[simp] theorem Core.orFlags_arch_mdef (k : Core) (f : Dword) : (k.orFlags f).arch.mdef = k.arch.mdef := rfl
@[simp] theorem Core.orFlags_arch_shapes (k : Core) (f : Dword) : (k.orFlags f).arch.shapes = k.arch.shapes := rfl
@[simp] theorem Core.orFlags_arch_accs (k : Core) (f : Dword) : (k.orFlags f).arch.accs = k.arch.accs := rfl
@[simp] theorem Core.orFlags_arch_metas (k : Core) (f : Dword) : (k.orFlags f).arch.metas = k.arch.metas := rfl
@[simp] theorem Core.orFlags_arch_seq0 (k : Core) (f : Dword) : (k.orFlags f).arch.seq0 = k.arch.seq0 := rfl
@[simp] theorem Core.orFlags_arch_tlIssued (k : Core) (f : Dword) : (k.orFlags f).arch.tlIssued = k.arch.tlIssued := rfl
@[simp] theorem Core.orFlags_arch_tlCount (k : Core) (f : Dword) : (k.orFlags f).arch.tlCount = k.arch.tlCount := rfl
@[simp] theorem Core.orFlags_arch_tlAhead (k : Core) (f : Dword) : (k.orFlags f).arch.tlAhead = k.arch.tlAhead := rfl
@[simp] theorem Core.orFlags_arch_redSent (k : Core) (f : Dword) : (k.orFlags f).arch.redSent = k.arch.redSent := rfl
@[simp] theorem Core.orFlags_arch_redAwaited (k : Core) (f : Dword) : (k.orFlags f).arch.redAwaited = k.arch.redAwaited := rfl
@[simp] theorem Core.orFlags_arch_sendNo (k : Core) (f : Dword) : (k.orFlags f).arch.sendNo = k.arch.sendNo := rfl
@[simp] theorem Core.orFlags_level (k : Core) (f : Dword) : (k.orFlags f).level = k.level := rfl
@[simp] theorem Core.orFlags_epc (k : Core) (f : Dword) : (k.orFlags f).epc = k.epc := rfl
@[simp] theorem Core.orFlags_ecause (k : Core) (f : Dword) : (k.orFlags f).ecause = k.ecause := rfl
@[simp] theorem Core.orFlags_faddr (k : Core) (f : Dword) : (k.orFlags f).faddr = k.faddr := rfl
@[simp] theorem Core.orFlags_fstart (k : Core) (f : Dword) : (k.orFlags f).fstart = k.fstart := rfl
@[simp] theorem Core.orFlags_xepc (k : Core) (f : Dword) : (k.orFlags f).xepc = k.xepc := rfl
@[simp] theorem Core.orFlags_xcause (k : Core) (f : Dword) : (k.orFlags f).xcause = k.xcause := rfl
@[simp] theorem Core.orFlags_xfaddr (k : Core) (f : Dword) : (k.orFlags f).xfaddr = k.xfaddr := rfl
@[simp] theorem Core.orFlags_xfstart (k : Core) (f : Dword) : (k.orFlags f).xfstart = k.xfstart := rfl
@[simp] theorem Core.orFlags_seq1 (k : Core) (f : Dword) : (k.orFlags f).seq1 = k.seq1 := rfl
@[simp] theorem Core.orFlags_seq2 (k : Core) (f : Dword) : (k.orFlags f).seq2 = k.seq2 := rfl
@[simp] theorem Core.orFlags_xstat (k : Core) (f : Dword) : (k.orFlags f).xstat = k.xstat := rfl
@[simp] theorem Core.orFlags_lsecc (k : Core) (f : Dword) : (k.orFlags f).lsecc = k.lsecc := rfl
@[simp] theorem Core.orFlags_taint (k : Core) (f : Dword) : (k.orFlags f).taint = k.taint := rfl
@[simp] theorem Core.orFlags_loads (k : Core) (f : Dword) : (k.orFlags f).loads = k.loads := rfl
@[simp] theorem Core.orFlags_loadSeq (k : Core) (f : Dword) : (k.orFlags f).loadSeq = k.loadSeq := rfl
@[simp] theorem Core.orFlags_pend (k : Core) (f : Dword) : (k.orFlags f).pend = k.pend := rfl
@[simp] theorem Core.orFlags_inflight (k : Core) (f : Dword) : (k.orFlags f).inflight = k.inflight := rfl
@[simp] theorem Core.orFlags_serial (k : Core) (f : Dword) : (k.orFlags f).serial = k.serial := rfl
@[simp] theorem Core.orFlags_pendMod (k : Core) (f : Dword) : (k.orFlags f).pendMod = k.pendMod := rfl
@[simp] theorem Core.orFlags_word (k : Core) (f : Dword) : (k.orFlags f).word = k.word := rfl
@[simp] theorem Core.orFlags_layerA (k : Core) (f : Dword) : (k.orFlags f).layerA = k.layerA := rfl
@[simp] theorem Core.orFlags_layerB (k : Core) (f : Dword) : (k.orFlags f).layerB = k.layerB := rfl
@[simp] theorem Core.orFlags_banks (k : Core) (f : Dword) : (k.orFlags f).banks = k.banks := rfl
@[simp] theorem Core.orFlags_buses (k : Core) (f : Dword) : (k.orFlags f).buses = k.buses := rfl
@[simp] theorem Core.orFlags_ls (k : Core) (f : Dword) : (k.orFlags f).ls = k.ls := rfl
@[simp] theorem Core.orFlags_lsPois (k : Core) (f : Dword) : (k.orFlags f).lsPois = k.lsPois := rfl
@[simp] theorem Core.orFlags_l1 (k : Core) (f : Dword) : (k.orFlags f).l1 = k.l1 := rfl
@[simp] theorem Core.orFlags_l1Errors (k : Core) (f : Dword) : (k.orFlags f).l1Errors = k.l1Errors := rfl
@[simp] theorem Core.orFlags_l1Off (k : Core) (f : Dword) : (k.orFlags f).l1Off = k.l1Off := rfl
@[simp] theorem Core.orFlags_tlb (k : Core) (f : Dword) : (k.orFlags f).tlb = k.tlb := rfl
@[simp] theorem Core.orFlags_armed (k : Core) (f : Dword) : (k.orFlags f).armed = k.armed := rfl
@[simp] theorem Core.orFlags_gangWait (k : Core) (f : Dword) : (k.orFlags f).gangWait = k.gangWait := rfl
@[simp] theorem Core.orFlags_eventFlag (k : Core) (f : Dword) : (k.orFlags f).eventFlag = k.eventFlag := rfl
@[simp] theorem Core.orFlags_sleep (k : Core) (f : Dword) : (k.orFlags f).sleep = k.sleep := rfl
@[simp] theorem Core.orFlags_cmds (k : Core) (f : Dword) : (k.orFlags f).cmds = k.cmds := rfl
@[simp] theorem Core.orFlags_snapshot (k : Core) (f : Dword) : (k.orFlags f).snapshot = k.snapshot := rfl
@[simp] theorem Core.orFlags_journal (k : Core) (f : Dword) : (k.orFlags f).journal = k.journal := rfl
@[simp] theorem Core.orFlags_mcRecord (k : Core) (f : Dword) : (k.orFlags f).mcRecord = k.mcRecord := rfl
@[simp] theorem Core.orFlags_early (k : Core) (f : Dword) : (k.orFlags f).early = k.early := rfl
@[simp] theorem Core.orFlags_uops (k : Core) (f : Dword) : (k.orFlags f).uops = k.uops := rfl
@[simp] theorem Core.orFlags_deficit (k : Core) (f : Dword) : (k.orFlags f).deficit = k.deficit := rfl
@[simp] theorem Core.orFlags_chans (k : Core) (f : Dword) : (k.orFlags f).chans = k.chans := rfl
@[simp] theorem Core.orFlags_xbytes (k : Core) (f : Dword) : (k.orFlags f).xbytes = k.xbytes := rfl
@[simp] theorem Core.orFlags_accepted (k : Core) (f : Dword) : (k.orFlags f).accepted = k.accepted := rfl
@[simp] theorem Core.orFlags_qp (k : Core) (f : Dword) : (k.orFlags f).qp = k.qp := rfl
@[simp] theorem Core.orFlags_saWait (k : Core) (f : Dword) : (k.orFlags f).saWait = k.saWait := rfl
@[simp] theorem Core.orFlags_task (k : Core) (f : Dword) : (k.orFlags f).task = k.task := rfl
@[simp] theorem Core.orFlags_lastCtx (k : Core) (f : Dword) : (k.orFlags f).lastCtx = k.lastCtx := rfl
@[simp] theorem Core.orFlags_stopReq (k : Core) (f : Dword) : (k.orFlags f).stopReq = k.stopReq := rfl
@[simp] theorem Core.orFlags_stopped (k : Core) (f : Dword) : (k.orFlags f).stopped = k.stopped := rfl
@[simp] theorem Core.orFlags_following (k : Core) (f : Dword) : (k.orFlags f).following = k.following := rfl
@[simp] theorem Core.orFlags_inbox (k : Core) (f : Dword) : (k.orFlags f).inbox = k.inbox := rfl
@[simp] theorem Core.orFlags_hashWait (k : Core) (f : Dword) : (k.orFlags f).hashWait = k.hashWait := rfl
@[simp] theorem Core.orFlags_hashPass (k : Core) (f : Dword) : (k.orFlags f).hashPass = k.hashPass := rfl
@[simp] theorem Core.orFlags_ended (k : Core) (f : Dword) : (k.orFlags f).ended = k.ended := rfl
@[simp] theorem Core.orFlags_redWait (k : Core) (f : Dword) : (k.orFlags f).redWait = k.redWait := rfl

/-! ## `Core.lsWrite` -/

@[simp] theorem Core.lsWrite_arch (k : Core) (a : Nat) (bs : PBytes) : (k.lsWrite a bs).arch = k.arch := rfl
@[simp] theorem Core.lsWrite_level (k : Core) (a : Nat) (bs : PBytes) : (k.lsWrite a bs).level = k.level := rfl
@[simp] theorem Core.lsWrite_epc (k : Core) (a : Nat) (bs : PBytes) : (k.lsWrite a bs).epc = k.epc := rfl
@[simp] theorem Core.lsWrite_ecause (k : Core) (a : Nat) (bs : PBytes) : (k.lsWrite a bs).ecause = k.ecause := rfl
@[simp] theorem Core.lsWrite_faddr (k : Core) (a : Nat) (bs : PBytes) : (k.lsWrite a bs).faddr = k.faddr := rfl
@[simp] theorem Core.lsWrite_fstart (k : Core) (a : Nat) (bs : PBytes) : (k.lsWrite a bs).fstart = k.fstart := rfl
@[simp] theorem Core.lsWrite_xepc (k : Core) (a : Nat) (bs : PBytes) : (k.lsWrite a bs).xepc = k.xepc := rfl
@[simp] theorem Core.lsWrite_xcause (k : Core) (a : Nat) (bs : PBytes) : (k.lsWrite a bs).xcause = k.xcause := rfl
@[simp] theorem Core.lsWrite_xfaddr (k : Core) (a : Nat) (bs : PBytes) : (k.lsWrite a bs).xfaddr = k.xfaddr := rfl
@[simp] theorem Core.lsWrite_xfstart (k : Core) (a : Nat) (bs : PBytes) : (k.lsWrite a bs).xfstart = k.xfstart := rfl
@[simp] theorem Core.lsWrite_seq1 (k : Core) (a : Nat) (bs : PBytes) : (k.lsWrite a bs).seq1 = k.seq1 := rfl
@[simp] theorem Core.lsWrite_seq2 (k : Core) (a : Nat) (bs : PBytes) : (k.lsWrite a bs).seq2 = k.seq2 := rfl
@[simp] theorem Core.lsWrite_xstat (k : Core) (a : Nat) (bs : PBytes) : (k.lsWrite a bs).xstat = k.xstat := rfl
@[simp] theorem Core.lsWrite_lsecc (k : Core) (a : Nat) (bs : PBytes) : (k.lsWrite a bs).lsecc = k.lsecc := rfl
@[simp] theorem Core.lsWrite_taint (k : Core) (a : Nat) (bs : PBytes) : (k.lsWrite a bs).taint = k.taint := rfl
@[simp] theorem Core.lsWrite_loads (k : Core) (a : Nat) (bs : PBytes) : (k.lsWrite a bs).loads = k.loads := rfl
@[simp] theorem Core.lsWrite_loadSeq (k : Core) (a : Nat) (bs : PBytes) : (k.lsWrite a bs).loadSeq = k.loadSeq := rfl
@[simp] theorem Core.lsWrite_pend (k : Core) (a : Nat) (bs : PBytes) : (k.lsWrite a bs).pend = k.pend := rfl
@[simp] theorem Core.lsWrite_inflight (k : Core) (a : Nat) (bs : PBytes) : (k.lsWrite a bs).inflight = k.inflight := rfl
@[simp] theorem Core.lsWrite_serial (k : Core) (a : Nat) (bs : PBytes) : (k.lsWrite a bs).serial = k.serial := rfl
@[simp] theorem Core.lsWrite_pendMod (k : Core) (a : Nat) (bs : PBytes) : (k.lsWrite a bs).pendMod = k.pendMod := rfl
@[simp] theorem Core.lsWrite_word (k : Core) (a : Nat) (bs : PBytes) : (k.lsWrite a bs).word = k.word := rfl
@[simp] theorem Core.lsWrite_layerA (k : Core) (a : Nat) (bs : PBytes) : (k.lsWrite a bs).layerA = k.layerA := rfl
@[simp] theorem Core.lsWrite_layerB (k : Core) (a : Nat) (bs : PBytes) : (k.lsWrite a bs).layerB = k.layerB := rfl
@[simp] theorem Core.lsWrite_banks (k : Core) (a : Nat) (bs : PBytes) : (k.lsWrite a bs).banks = k.banks := rfl
@[simp] theorem Core.lsWrite_buses (k : Core) (a : Nat) (bs : PBytes) : (k.lsWrite a bs).buses = k.buses := rfl
@[simp] theorem Core.lsWrite_ls (k : Core) (a : Nat) (bs : PBytes) : (k.lsWrite a bs).ls = Memory.writeAll none k.ls a (bs.map (·.1)) := rfl
@[simp] theorem Core.lsWrite_lsPois (k : Core) (a : Nat) (bs : PBytes) : (k.lsWrite a bs).lsPois = poisonAfter k.lsPois a bs := rfl
@[simp] theorem Core.lsWrite_l1 (k : Core) (a : Nat) (bs : PBytes) : (k.lsWrite a bs).l1 = k.l1 := rfl
@[simp] theorem Core.lsWrite_l1Errors (k : Core) (a : Nat) (bs : PBytes) : (k.lsWrite a bs).l1Errors = k.l1Errors := rfl
@[simp] theorem Core.lsWrite_l1Off (k : Core) (a : Nat) (bs : PBytes) : (k.lsWrite a bs).l1Off = k.l1Off := rfl
@[simp] theorem Core.lsWrite_tlb (k : Core) (a : Nat) (bs : PBytes) : (k.lsWrite a bs).tlb = k.tlb := rfl
@[simp] theorem Core.lsWrite_armed (k : Core) (a : Nat) (bs : PBytes) : (k.lsWrite a bs).armed = k.armed := rfl
@[simp] theorem Core.lsWrite_gangWait (k : Core) (a : Nat) (bs : PBytes) : (k.lsWrite a bs).gangWait = k.gangWait := rfl
@[simp] theorem Core.lsWrite_eventFlag (k : Core) (a : Nat) (bs : PBytes) : (k.lsWrite a bs).eventFlag = k.eventFlag := rfl
@[simp] theorem Core.lsWrite_sleep (k : Core) (a : Nat) (bs : PBytes) : (k.lsWrite a bs).sleep = k.sleep := rfl
@[simp] theorem Core.lsWrite_cmds (k : Core) (a : Nat) (bs : PBytes) : (k.lsWrite a bs).cmds = k.cmds := rfl
@[simp] theorem Core.lsWrite_snapshot (k : Core) (a : Nat) (bs : PBytes) : (k.lsWrite a bs).snapshot = k.snapshot := rfl
@[simp] theorem Core.lsWrite_journal (k : Core) (a : Nat) (bs : PBytes) : (k.lsWrite a bs).journal = k.journal := rfl
@[simp] theorem Core.lsWrite_mcRecord (k : Core) (a : Nat) (bs : PBytes) : (k.lsWrite a bs).mcRecord = k.mcRecord := rfl
@[simp] theorem Core.lsWrite_early (k : Core) (a : Nat) (bs : PBytes) : (k.lsWrite a bs).early = k.early := rfl
@[simp] theorem Core.lsWrite_uops (k : Core) (a : Nat) (bs : PBytes) : (k.lsWrite a bs).uops = k.uops := rfl
@[simp] theorem Core.lsWrite_deficit (k : Core) (a : Nat) (bs : PBytes) : (k.lsWrite a bs).deficit = k.deficit := rfl
@[simp] theorem Core.lsWrite_chans (k : Core) (a : Nat) (bs : PBytes) : (k.lsWrite a bs).chans = k.chans := rfl
@[simp] theorem Core.lsWrite_xbytes (k : Core) (a : Nat) (bs : PBytes) : (k.lsWrite a bs).xbytes = k.xbytes := rfl
@[simp] theorem Core.lsWrite_accepted (k : Core) (a : Nat) (bs : PBytes) : (k.lsWrite a bs).accepted = k.accepted := rfl
@[simp] theorem Core.lsWrite_qp (k : Core) (a : Nat) (bs : PBytes) : (k.lsWrite a bs).qp = k.qp := rfl
@[simp] theorem Core.lsWrite_saWait (k : Core) (a : Nat) (bs : PBytes) : (k.lsWrite a bs).saWait = k.saWait := rfl
@[simp] theorem Core.lsWrite_task (k : Core) (a : Nat) (bs : PBytes) : (k.lsWrite a bs).task = k.task := rfl
@[simp] theorem Core.lsWrite_lastCtx (k : Core) (a : Nat) (bs : PBytes) : (k.lsWrite a bs).lastCtx = k.lastCtx := rfl
@[simp] theorem Core.lsWrite_stopReq (k : Core) (a : Nat) (bs : PBytes) : (k.lsWrite a bs).stopReq = k.stopReq := rfl
@[simp] theorem Core.lsWrite_stopped (k : Core) (a : Nat) (bs : PBytes) : (k.lsWrite a bs).stopped = k.stopped := rfl
@[simp] theorem Core.lsWrite_following (k : Core) (a : Nat) (bs : PBytes) : (k.lsWrite a bs).following = k.following := rfl
@[simp] theorem Core.lsWrite_inbox (k : Core) (a : Nat) (bs : PBytes) : (k.lsWrite a bs).inbox = k.inbox := rfl
@[simp] theorem Core.lsWrite_hashWait (k : Core) (a : Nat) (bs : PBytes) : (k.lsWrite a bs).hashWait = k.hashWait := rfl
@[simp] theorem Core.lsWrite_hashPass (k : Core) (a : Nat) (bs : PBytes) : (k.lsWrite a bs).hashPass = k.hashPass := rfl
@[simp] theorem Core.lsWrite_ended (k : Core) (a : Nat) (bs : PBytes) : (k.lsWrite a bs).ended = k.ended := rfl
@[simp] theorem Core.lsWrite_redWait (k : Core) (a : Nat) (bs : PBytes) : (k.lsWrite a bs).redWait = k.redWait := rfl

end Sys2Proof.Machine
end

