-- ==== Sys2Proof/Laws/Memory.lean ====
section
/-! SUPPORT. Laws of the memories: a byte read after a write, and the canonical form that every write keeps. -/

namespace Sys2Proof.Machine

/-- A byte read after one byte is written. -/
theorem Memory.read_write (lost : Option Nat) (m : List Host.Cell) (a : Nat) (v : Byte) (j : Nat) :
    Memory.read lost (Memory.write lost m a v) j = if j = a then v else Memory.read lost m j := by
  simp only [Memory.read, Memory.write, Map.set]
  by_cases h : j = a
  · subst h
    split
    · rename_i hv; rw [Map.get_erase, if_pos rfl, if_pos rfl, ← hv]
    · rw [Map.get_put, if_pos rfl]
  · split
    · rw [Map.get_erase, if_neg h]
    · rw [Map.get_put, if_neg h]

/-- A byte read after consecutive bytes are written. -/
theorem Memory.read_writeAll (lost : Option Nat) : ∀ (bs : List Byte) (m : List Host.Cell) (a j : Nat),
    Memory.read lost (Memory.writeAll lost m a bs) j
      = if a ≤ j ∧ j < a + bs.length then bs.getD (j - a) 0 else Memory.read lost m j
  | [], m, a, j => by
    simp only [Memory.writeAll, List.length_nil, Nat.add_zero]
    rw [if_neg (by omega)]
  | b :: bs, m, a, j => by
    simp only [Memory.writeAll, List.length_cons]
    rw [Memory.read_writeAll lost bs, Memory.read_write]
    by_cases h1 : j = a
    · subst h1
      rw [if_neg (by omega), if_pos rfl, if_pos (by omega)]
      simp
    · by_cases h2 : a ≤ j ∧ j < a + (bs.length + 1)
      · rw [if_pos (by omega), if_pos h2]
        obtain ⟨n, hn⟩ : ∃ n, j - a = n + 1 := ⟨j - a - 1, by omega⟩
        rw [hn, List.getD_cons_succ, show j - (a + 1) = n by omega]
      · rw [if_neg (by omega), if_neg h1, if_neg h2]

/-- One byte written keeps the canonical form. -/
theorem Memory.wf_write {lost : Option Nat} {m : List Host.Cell} (a : Nat) (v : Byte) (h : Memory.wf lost m = true) :
    Memory.wf lost (Memory.write lost m a v) = true := by
  simp only [Memory.wf, Bool.and_eq_true, List.all_eq_true, decide_eq_true_eq] at h ⊢
  refine ⟨Map.sortedFrom_set _ a v h.1, fun e he => ?_⟩
  simp only [Memory.write, Map.set] at he
  split at he
  · exact h.2 e (Map.mem_erase he)
  · rename_i hv
    rcases Map.mem_put he with rfl | he
    · exact hv
    · exact h.2 e he

/-- Consecutive bytes written keep the canonical form. -/
theorem Memory.wf_writeAll {lost : Option Nat} : ∀ (bs : List Byte) {m : List Host.Cell} (a : Nat),
    Memory.wf lost m = true → Memory.wf lost (Memory.writeAll lost m a bs) = true
  | [], _, _, h => h
  | b :: bs, _, a, h => Memory.wf_writeAll bs (a + 1) (Memory.wf_write a b h)

/-- A write to device memory keeps its canonical form. -/
theorem State.wf_wrBytes {s : State} (a : Nat) (bs : PBytes) (h : Memory.wf s.lost s.mem = true) :
    Memory.wf (s.wrBytes a bs).lost (s.wrBytes a bs).mem = true := Memory.wf_writeAll _ a h

/-- A write to a local store keeps its canonical form. -/
theorem Core.wf_lsWrite {k : Core} (a : Nat) (bs : PBytes) (h : Memory.wf none k.ls = true) :
    Memory.wf none (k.lsWrite a bs).ls = true := Memory.wf_writeAll _ a h

/-- A byte of device memory read after a write. -/
theorem State.rd_wrBytes (s : State) (a : Nat) (bs : PBytes) (j : Nat) :
    (s.wrBytes a bs).rd j = if a ≤ j ∧ j < a + bs.length then (bs.map (·.1)).getD (j - a) 0 else s.rd j := by
  simp only [State.rd, State.wrBytes, Memory.read_writeAll, List.length_map]

/-- A byte of a local store read after a write. -/
theorem Core.lsRd_lsWrite (k : Core) (a : Nat) (bs : PBytes) (j : Nat) :
    (k.lsWrite a bs).lsRd j = if a ≤ j ∧ j < a + bs.length then (bs.map (·.1)).getD (j - a) 0 else k.lsRd j := by
  simp only [Core.lsRd, Core.lsWrite, Memory.read_writeAll, List.length_map]

end Sys2Proof.Machine
end

