-- ==== Sys2Proof/Laws/Operands.lean ====
section
/-! SUPPORT. Laws of the integer helpers: `signExt` is the narrowing and sign extension of R335 in bit vectors. -/

namespace Sys2Proof.Machine

/-- Two's complement of `w` bits is the bit vector's own reading. -/
theorem sx_toNat {w : Nat} (v : BitVec w) : sx w v.toNat = v.toInt := by
  simp only [sx, BitVec.toInt]
  split <;> simp_all

/-- SignExtend(R mod 2^w, w) of R335. -/
theorem signExt_eq (w : Nat) (r : Int) : signExt w r = (BitVec.ofInt w r).signExtend 64 := by
  have h : (r % 2 ^ w).toNat = (BitVec.ofInt w r).toNat := by
    rw [BitVec.toNat_ofInt]
    norm_cast
  rw [signExt, h, sx_toNat]
  rfl

theorem lowBits_eq (w : Nat) (x : Dword) : lowBits w x = (x.setWidth w).toNat := by
  simp [lowBits]

/-- `signExt` of a natural number. -/
theorem signExt_nat (w n : Nat) : signExt w (n : Int) = (BitVec.ofNat w n).signExtend 64 := by
  rw [signExt_eq, BitVec.ofInt_natCast]

theorem sx_lowBits (w : Nat) (x : Dword) : sx w (lowBits w x) = (x.setWidth w).toInt := by
  rw [lowBits_eq, sx_toNat]

end Sys2Proof.Machine
end

