-- ==== Sys2Proof/Laws/Registers.lean ====
section
/-! SUPPORT. Laws of the units, of the scalar registers and of retirement. -/

namespace Sys2Proof.Machine

/-! ## Units -/

theorem State.core_setCore (s : State) (c : Nat) (k : Core) (j : Nat) :
    (s.setCore c k).core j = if j = c then k else s.core j := by
  simp [State.core, Map.get_put]

@[simp] theorem State.core_setCore_same (s : State) (c : Nat) (k : Core) : (s.setCore c k).core c = k := by
  simp [State.core]

@[simp] theorem State.me_setMe (s : State) (k : Core) : (s.setMe k).me = k := by
  simp [State.me, State.core]

@[simp] theorem State.core_setMe_cur (s : State) (k : Core) : (s.setMe k).core s.cur = k := by
  simp [State.core]

@[simp] theorem State.setCore_setCore (s : State) (c : Nat) (k k' : Core) : (s.setCore c k).setCore c k' = s.setCore c k' := by
  simp [State.setCore]

@[simp] theorem State.setMe_setMe (s : State) (k k' : Core) : (s.setMe k).setMe k' = s.setMe k' := by
  simp [State.setMe]

theorem State.modMe_eq (s : State) (f : Core → Core) : s.modMe f = s.setMe (f s.me) := rfl
theorem State.modCore_cur (s : State) (f : Core → Core) : s.modCore s.cur f = s.setMe (f s.me) := rfl

@[simp] theorem State.retire_setMe (s : State) (k : Core) : (s.setMe k).retire = s.setMe k.retire := by
  simp [State.retire, State.modMe]

@[simp] theorem State.retire_eq (s : State) : s.retire = s.setMe s.me.retire := rfl

theorem State.square_setSquare (s : State) (q : Nat) (k : Square) (j : Nat) :
    (s.setSquare q k).square j = if j = q then k else s.square j := by
  simp [State.square, Map.get_put]

theorem State.context_modContext (s : State) (n : Nat) (f : Context → Context) (j : Nat) :
    (s.modContext n f).context j = if j = n then f (s.context n) else s.context j := by
  simp [State.context, Map.get_put]

theorem State.slice_modSlice (s : State) (n : Nat) (f : Slice → Slice) (j : Nat) :
    (s.modSlice n f).slice j = if j = n then f (s.slice n) else s.slice j := by
  simp [State.slice, Map.get_put]

theorem State.column_modColumn (s : State) (n : Nat) (f : Column → Column) (j : Nat) :
    (s.modColumn n f).column j = if j = n then f (s.column n) else s.column j := by
  simp [State.column, Map.get_put]

theorem State.lqueue_modLqueue (s : State) (q : Nat) (f : LaunchQueue → LaunchQueue) (j : Nat) :
    (s.modLqueue q f).lqueue j = if j = q then f (s.lqueue q) else s.lqueue j := by
  simp [State.lqueue, Map.get_put]

theorem State.launch?_modLaunch (s : State) (id : Nat) (f : Launch → Launch) (j : Nat) :
    (s.modLaunch id f).launch? j = if j = id then (s.launch? id).map f else s.launch? j := by
  simp only [State.modLaunch]
  split
  · rename_i l h
    simp only [State.launch?, Map.find?_put] at h ⊢
    split <;> simp [h]
  · rename_i h
    by_cases hj : j = id
    · subst hj; simp [h]
    · simp [hj]

/-- Reads that look only at `launches` see the same launches after an update of a core. -/
@[simp] theorem State.launch?_setCore (s : State) (c : Nat) (k : Core) (id : Nat) :
    (s.setCore c k).launch? id = s.launch? id := rfl

@[simp] theorem State.launch?_setMe (s : State) (k : Core) (id : Nat) : (s.setMe k).launch? id = s.launch? id := rfl
@[simp] theorem State.square_setMe (s : State) (k : Core) (q : Nat) : (s.setMe k).square q = s.square q := rfl
@[simp] theorem State.context_setMe (s : State) (k : Core) (n : Nat) : (s.setMe k).context n = s.context n := rfl
@[simp] theorem State.slice_setMe (s : State) (k : Core) (n : Nat) : (s.setMe k).slice n = s.slice n := rfl
@[simp] theorem State.rd_setMe (s : State) (k : Core) (a : Nat) : (s.setMe k).rd a = s.rd a := rfl

theorem State.launchOf_setMe (s : State) (k : Core) (h : k.task = s.me.task) :
    (s.setMe k).launchOf s.cur = s.launchOf s.cur := by
  simp only [State.launchOf, State.core_setMe_cur, h, State.launch?_setMe]
  rfl

theorem State.ctxOf_setMe (s : State) (k : Core) (h : k.task = s.me.task) : (s.setMe k).ctxOf s.cur = s.ctxOf s.cur := by
  simp only [State.ctxOf, State.launchOf_setMe s k h]

/-! ## Scalar registers (R182, R333) -/

theorem getLsbD_setBit {n : Nat} (v : BitVec n) (i : Nat) (p : Bool) (j : Nat) :
    (setBit v i p).getLsbD j = if j = i ∧ i < n then p else v.getLsbD j := by
  have hij : (i = j) = (j = i) := propext eq_comm
  by_cases hj : j = i
  · subst hj
    by_cases hn : j < n
    · cases p <;> simp [setBit, hn]
    · have := BitVec.getLsbD_of_ge v j (by omega)
      cases p <;> simp [setBit, hn, this]
  · by_cases hn : j < n
    · cases p <;> simp [setBit, hj, hn]
    · have := BitVec.getLsbD_of_ge v j (by omega)
      cases p <;> simp [setBit, hj, hij, this]

theorem R5.toNat_inj {a b : R5} : a.toNat = b.toNat ↔ a = b := BitVec.toNat_inj

theorem Core.x_setX (k : Core) (d : R5) (v : Dword) (p : Bool) (n : Taint) (r : R5) :
    (k.setX d v p n).x r = if r = d ∧ r ≠ 0 then v else k.x r := by
  by_cases h0 : d = 0
  · subst h0; by_cases hr : r = 0 <;> simp [Core.setX, hr]
  · simp only [Core.setX, h0, if_false, Core.x, Core.setTaint]
    by_cases hr : r = 0
    · simp [hr]
    · have hd : ¬ d.toNat = 0 := fun h => h0 (BitVec.eq_of_toNat_eq h)
      simp only [hr, if_false, hd, Map.get_set, R5.toNat_inj, ne_eq, not_false_eq_true, and_true]

theorem Core.sideOf_setX (k : Core) (d : R5) (v : Dword) (p : Bool) (n : Taint) (r : R5) :
    (k.setX d v p n).sideOf r = if r = d ∧ r ≠ 0 then p else k.sideOf r := by
  by_cases h0 : d = 0
  · subst h0; by_cases hr : r = 0 <;> simp [Core.setX, hr]
  · have hd : ¬ d.toNat = 0 := fun h => h0 (BitVec.eq_of_toNat_eq h)
    simp only [Core.setX, h0, if_false, Core.sideOf, Core.setTaint, hd, getLsbD_setBit, R5.toNat_inj, d.isLt, and_true]
    by_cases hr : r = 0
    · subst hr; simp
    · by_cases h : r = d
      · have hr' : (r != 0) = true := by simpa using hr
        subst h; rw [hr', if_pos rfl, if_pos ⟨rfl, hr⟩, Bool.true_and]
      · simp [h]

theorem Core.taintOf_setX (k : Core) (d : R5) (v : Dword) (p : Bool) (n : Taint) (r : Nat) :
    (k.setX d v p n).taintOf r = if r = d.toNat ∧ r ≠ 0 then n else k.taintOf r := by
  by_cases h0 : d = 0
  · subst h0; by_cases hr : r = 0 <;> simp [Core.setX, hr]
  · have hd : ¬ d.toNat = 0 := fun h => h0 (BitVec.eq_of_toNat_eq h)
    simp only [Core.setX, h0, if_false, Core.taintOf, Core.setTaint, hd, Map.get_set]
    by_cases hr : r = 0 <;> simp [hr]

/-- Writing a scalar register changes `regs`, `side`, `taint` and the early loads through it alone. -/
theorem Core.setX_frame (k : Core) (d : R5) (v : Dword) (p : Bool) (n : Taint) :
    k.setX d v p n = { k with arch := { k.arch with regs := (k.setX d v p n).arch.regs, side := (k.setX d v p n).arch.side },
                              taint := (k.setX d v p n).taint, early := (k.setX d v p n).early } := by
  simp only [Core.setX, Core.setTaint]
  split
  · rfl
  · split <;> rfl

theorem Core.setX_early (k : Core) (d : R5) (v : Dword) (p : Bool) (n : Taint) :
    (k.setX d v p n).early = if d = 0 then k.early else k.early.filter (fun e => !e.regs.contains d.toNat) := by
  simp only [Core.setX, Core.setTaint]
  split
  · rfl
  · split <;> rfl

/-! ## Retirement -/

@[simp] theorem Core.setSeq_level (k : Core) (q : SeqCtx) : (k.setSeq q).level = k.level := by
  simp only [Core.setSeq]; split <;> (try split) <;> rfl
@[simp] theorem Core.setSeq_seq0 (k : Core) (q : SeqCtx) :
    (k.setSeq q).arch.seq0 = if k.level = 0 then q else k.arch.seq0 := by
  simp only [Core.setSeq]; split <;> (try split) <;> rfl
@[simp] theorem Core.setSeq_seq1 (k : Core) (q : SeqCtx) :
    (k.setSeq q).seq1 = if k.level = 1 then q else k.seq1 := by
  simp only [Core.setSeq]; split
  · rename_i h; simp [h]
  · split <;> rfl
@[simp] theorem Core.setSeq_seq2 (k : Core) (q : SeqCtx) :
    (k.setSeq q).seq2 = if k.level = 2 then q else k.seq2 := by
  simp only [Core.setSeq]; split
  · rename_i h; simp [h]
  · split
    · rename_i h; simp [h]
    · rename_i h0 h1; rw [if_pos (by omega)]

/-- Setting the sequencer context changes it alone. -/
theorem Core.setSeq_frame (k : Core) (q : SeqCtx) :
    k.setSeq q = { k with arch := { k.arch with seq0 := (k.setSeq q).arch.seq0 }, seq1 := (k.setSeq q).seq1,
                          seq2 := (k.setSeq q).seq2 } := by
  simp only [Core.setSeq]; split
  · rfl
  · split <;> rfl

/-- Where retirement goes on, as one pair. -/
theorem Core.retire_is (k : Core) : ∃ q pc, k.retire = (k.setSeq q).setPc pc := by
  simp only [Core.retire]
  split
  · split
    · exact ⟨_, _, rfl⟩
    · split <;> exact ⟨_, _, rfl⟩
  · exact ⟨_, _, rfl⟩

theorem Core.retire_frame (k : Core) :
    k.retire = { k with arch := { k.arch with pc := k.retire.arch.pc, seq0 := k.retire.arch.seq0 },
                        seq1 := k.retire.seq1, seq2 := k.retire.seq2, pendMod := none } := by
  obtain ⟨q, pc, h⟩ := Core.retire_is k
  rw [h, Core.setPc, Core.setSeq_frame]

/-- Retirement depends on the flow of control alone. -/
theorem Core.Flows.of_same {k k' : Core} (hpc : k'.arch.pc = k.arch.pc) (h0 : k'.arch.seq0 = k.arch.seq0)
    (h1 : k'.seq1 = k.seq1) (h2 : k'.seq2 = k.seq2) (hl : k'.level = k.level) (hm : k'.pendMod = k.pendMod) :
    k.Flows k'.retire := by
  have hs : k'.seq = k.seq := by simp only [Core.seq, h0, h1, h2, hl]
  have hw : k'.lastWord = k.lastWord := by simp only [Core.lastWord, Core.instrBytes, hpc, hm]
  have key : ∃ q pc, k'.retire = (k'.setSeq q).setPc pc ∧ k.retire = (k.setSeq q).setPc pc := by
    simp only [Core.retire, hs, hw]
    split
    · split
      · exact ⟨_, _, rfl, rfl⟩
      · split <;> exact ⟨_, _, rfl, rfl⟩
    · exact ⟨_, _, rfl, rfl⟩
  obtain ⟨q, pc, e', e⟩ := key
  constructor <;> simp [e', e, h0, h1, h2, hl]

theorem Core.flows_retire (k : Core) : k.Flows k.retire := Core.Flows.of_same rfl rfl rfl rfl rfl rfl

/-- A scalar result written and retired (R333): what `State.writeXP` does to the core. -/
theorem Core.wrote_setX (k : Core) (d : R5) (v : Dword) (p : Bool) (n : Taint) :
    k.Wrote (k.setX d v p n).retire d v p n := by
  have hf := Core.setX_frame k d v p n
  have hr := Core.retire_frame (k.setX d v p n)
  refine ⟨fun r => ?_, fun r => ?_, fun r => ?_, ?_, ?_, ?_⟩
  · rw [← Core.x_setX k d v p n, hr]; rfl
  · rw [← Core.sideOf_setX k d v p n, hr]; rfl
  · rw [← Core.taintOf_setX k d v p n, hr]; rfl
  · apply Core.Flows.of_same <;> rw [hf]
  · rw [← Core.setX_early k d v p n, hr]
  · rw [hr]
    generalize (k.setX d v p n).retire = kr
    rw [hf]

/-- `State.writeXP` completes with the current core's `Wrote` and nothing else. -/
theorem State.writeXP_wrote (s : State) (d : R5) (srcs : List R5) (v : Dword) (p : Bool) :
    ∃ k', s.writeXP d srcs v p = s.setMe k' ∧ s.me.Wrote k' d v p (s.me.taints (srcs.map BitVec.toNat)) :=
  ⟨_, by simp [State.writeXP], Core.wrote_setX _ _ _ _ _⟩

/-- `State.writeX`: the side bit is the OR of the sources'. -/
theorem State.writeX_wrote (s : State) (d : R5) (srcs : List R5) (v : Dword) :
    ∃ k', s.writeX d srcs v = s.setMe k' ∧
      s.me.Wrote k' d v (srcs.any s.me.sideOf) (s.me.taints (srcs.map BitVec.toNat)) :=
  ⟨_, by simp [State.writeX], Core.wrote_setX _ _ _ _ _⟩

theorem Core.passed_retire (k : Core) : k.Passed k.retire :=
  ⟨Core.flows_retire k, Core.retire_frame k⟩

end Sys2Proof.Machine
end

