-- ==== Sys2Proof/Laws/Ops.lean ====
section
/-! SUPPORT. What the shared operations do, each said once: retiring, waiting, the checks that come before an effect,
taking a trap, issuing a command, writing a local store, posting an event. -/

namespace Sys2Proof.Machine

/-! ## Waiting -/

@[simp] theorem State.wait_stalled (s : State) : s.wait.stalled = true := rfl
@[simp] theorem State.wait_mem (s : State) : s.wait.mem = s.mem := rfl
@[simp] theorem State.wait_lost (s : State) : s.wait.lost = s.lost := rfl
@[simp] theorem State.wait_cur (s : State) : s.wait.cur = s.cur := rfl

/-- A wait changes nothing of a core but its prefix. -/
theorem State.core_wait (s : State) (c : Nat) :
    s.wait.core c = if c = s.cur then { s.me with pendMod := none } else s.core c :=
  State.core_setCore s s.cur _ c

/-! ## The checks before an effect -/

/-- No register of the list is poisoned: the effect. -/
theorem State.unpoisoned_clean {s : State} {rs : List R5} (g : State → State) (h : ∀ r ∈ rs, s.me.sideOf r = false) :
    s.unpoisoned rs g = g s := by
  have : s.me.firstPoison rs = none := by
    simp only [Core.firstPoison, List.find?_eq_none]
    intro r hr
    simp [h r hr]
  simp [State.unpoisoned, this]

/-- The first poisoned register of the list traps POISON (R284). -/
theorem State.unpoisoned_poison {s : State} {rs : List R5} (g : State → State) {pre post : List R5} {r : R5}
    (h : rs = pre ++ r :: post) (hpre : ∀ q ∈ pre, s.me.sideOf q = false) (hr : s.me.sideOf r = true) :
    s.unpoisoned rs g = s.trapWith Cause.poison r.toNat 0 := by
  have : s.me.firstPoison rs = some r := by
    subst h
    simp only [Core.firstPoison, List.find?_append]
    rw [List.find?_eq_none.mpr (fun q hq => by simp [hpre q hq])]
    simp [List.find?, hr]
  simp [State.unpoisoned, this, State.poisoned]

theorem State.guardPriv_user {s : State} (g : State → State) (h : s.me.level = 0) :
    s.guardPriv g = s.trapWith Cause.priv 0 0 := by simp [State.guardPriv, h]

theorem State.guardPriv_pass {s : State} (g : State → State) (h : s.me.level ≠ 0) : s.guardPriv g = g s := by
  simp [State.guardPriv, h]

theorem State.untainted_clean {s : State} {rs : List R5} (g : State → State)
    (h : (s.me.taints (rs.map BitVec.toNat)).isEmpty = true) : s.untainted rs g = g s := by
  simp [State.untainted, Core.tainted, h]

theorem State.untainted_wait {s : State} {rs : List R5} (g : State → State)
    (h : (s.me.taints (rs.map BitVec.toNat)).isEmpty = false) : s.untainted rs g = s.wait := by
  simp [State.untainted, Core.tainted, h]

theorem State.slotFree_some {s : State} (g : State → State) (h : s.me.freeSlotNo.isSome = true) :
    s.slotFree g = g (s.setMe { s.me with loadSeq := s.me.loadSeq + 1 }) := by
  cases hs : s.me.freeSlotNo with
  | none => simp [hs] at h
  | some n => simp [State.slotFree, hs, State.modMe]

theorem State.slotFree_none {s : State} (g : State → State) (h : s.me.freeSlotNo = none) : s.slotFree g = s.wait := by
  simp [State.slotFree, h]

/-- A core that is not doubled sends at once (R211). -/
theorem State.sends_single {s : State} (msg : List Nat) (f : State → State) (h : s.Single) : s.sends msg f = f s := by
  unfold State.sends
  cases hl : s.launchOf s.cur with
  | none => simp
  | some x =>
    obtain ⟨id, u, l⟩ := x
    simp [h id u l hl]

/-- With no scoresheet a choice stands (R213). -/
theorem State.choose_unlogged {s : State} (c kind val : Nat)
    (h : ∀ id u l, s.launchOf c = some (id, u, l) → l.scr = 0) : s.choose c kind val = some s := by
  unfold State.choose State.chooseFor
  cases hl : s.launchOf c with
  | none => rfl
  | some x =>
    obtain ⟨id, u, l⟩ := x
    simp [h id u l hl]

theorem State.logged_unlogged {s : State} (c kind val : Nat)
    (h : ∀ id u l, s.launchOf c = some (id, u, l) → l.scr = 0) : s.logged c kind val = .chosen s val := by
  unfold State.logged
  cases hl : s.launchOf c with
  | none => rfl
  | some x =>
    obtain ⟨id, u, l⟩ := x
    simp [h id u l hl]

/-! ## Traps (R272) -/

/-- A trap waits for older loads (R270). -/
theorem State.trap_waits {s : State} (t : TrapInfo) (h : s.me.loadsOut = true) : s.trap t = s.wait := by
  simp [State.trap, h]

/-- A trap of a handled cause enters the handler: the one way in, which every trapping form takes. -/
theorem State.trap_enters {s : State} {t : TrapInfo} (hl : s.me.loadsOut = false) (hg : t.forGang = false)
    (hv : s.tvec s.cur ≠ 0) (h2 : s.me.level ≠ 2) (hc : t.code = Cause.lease → s.me.level ≠ 0) :
    s.trap t =
      s.setMe { s.me.enterTrap t (s.tvec s.cur) (s.stopWord s.cur t) with following := false, inbox := [] } := by
  have hn : ¬(s.tvec s.cur = 0 ∨ s.me.level = 2 ∨ (t.code = Cause.lease ∧ s.me.level = 0)) := by
    rintro (h | h | ⟨h, h'⟩)
    · exact hv h
    · exact h2 h
    · exact hc h h'
  simp only [State.trap, hl, Bool.false_eq_true, if_false, State.trapOn, hg]
  exact (if_neg hn).trans rfl

/-- Without a handler, or at level 2, the trap ends the task. -/
theorem State.trap_ends {s : State} {t : TrapInfo} (hl : s.me.loadsOut = false) (hg : t.forGang = false)
    (h : s.tvec s.cur = 0 ∨ s.me.level = 2 ∨ (t.code = Cause.lease ∧ s.me.level = 0)) :
    s.trap t = s.endTask s.cur (some t) := by
  simp only [State.trap, hl, Bool.false_eq_true, if_false, State.trapOn, hg]
  exact if_pos h

/-! ## Engine commands (R145, R224) -/

/-- The superstep of the current core's task. -/
def State.stepNo (s : State) : Nat := match s.launchOf s.cur with | some (_, t, l) => (l.task t).steps | none => 0

/-- A command with room on the scoreboard issues under its timeline's next number, and its messages under the core's next
numbers (R145, R209). -/
theorem State.issueCmd_room {s : State} {c : Cmd} (h : s.me.scoreboard + c.ranges.length ≤ Config.scoreboardEntries) :
    s.issueCmd c = (s.setMe { s.me with
      cmds := s.me.cmds ++ [{ c with
        id := s.me.serial, pc := s.me.arch.pc, num := Map.get 0 s.me.arch.tlIssued c.tl + 1,
        privileged := s.me.level != 0, step := s.stepNo, number := s.me.arch.sendNo }]
      serial := s.me.serial + 1
      arch := { s.me.arch with
        tlIssued := Map.set 0 s.me.arch.tlIssued c.tl (Map.get 0 s.me.arch.tlIssued c.tl + 1)
        sendNo := s.me.arch.sendNo + c.word.messages } }).retire := by
  unfold State.issueCmd State.stepNo
  exact if_neg (by omega)

theorem State.issueCmd_full {s : State} {c : Cmd} (h : Config.scoreboardEntries < s.me.scoreboard + c.ranges.length) :
    s.issueCmd c = s.wait := by simp only [State.issueCmd]; rw [if_pos h]

/-! ## Events -/

@[simp] theorem State.post_mem (s : State) (code ctx : Nat) (arg : Dword) : (s.post code ctx arg).mem = s.mem := by
  simp only [State.post]; split <;> rfl
@[simp] theorem State.post_lost (s : State) (code ctx : Nat) (arg : Dword) : (s.post code ctx arg).lost = s.lost := by
  simp only [State.post]; split <;> rfl
@[simp] theorem State.post_cores (s : State) (code ctx : Nat) (arg : Dword) : (s.post code ctx arg).cores = s.cores := by
  simp only [State.post]; split <;> rfl
@[simp] theorem State.post_launches (s : State) (code ctx : Nat) (arg : Dword) :
    (s.post code ctx arg).launches = s.launches := by
  simp only [State.post]; split <;> rfl

end Sys2Proof.Machine
end

