-- ==== Sys2Proof/Laws/PerInstr.lean ====
section
/-! SUPPORT. What every instruction satisfies: a word is written for it exactly when it is no event. -/

namespace Sys2Proof.Laws.Encodes

/-- The encoder writes a word for an instruction of the programs, and none for an event of the device (R310). -/
def Statement (i : Instr) : Prop := (encode i).isSome = !i.isEvent

end Sys2Proof.Laws.Encodes

theorem Sys2Proof.Laws.Encodes.add : ∀ x0 x1 x2 x3 x4, Sys2Proof.Laws.Encodes.Statement (.add x0 x1 x2 x3 x4) := by intros; rfl
theorem Sys2Proof.Laws.Encodes.sub : ∀ x0 x1 x2 x3 x4, Sys2Proof.Laws.Encodes.Statement (.sub x0 x1 x2 x3 x4) := by intros; rfl
theorem Sys2Proof.Laws.Encodes.and : ∀ x0 x1 x2 x3 x4, Sys2Proof.Laws.Encodes.Statement (.and x0 x1 x2 x3 x4) := by intros; rfl
theorem Sys2Proof.Laws.Encodes.or : ∀ x0 x1 x2 x3 x4, Sys2Proof.Laws.Encodes.Statement (.or x0 x1 x2 x3 x4) := by intros; rfl
theorem Sys2Proof.Laws.Encodes.xor : ∀ x0 x1 x2 x3 x4, Sys2Proof.Laws.Encodes.Statement (.xor x0 x1 x2 x3 x4) := by intros; rfl
theorem Sys2Proof.Laws.Encodes.andn : ∀ x0 x1 x2 x3 x4, Sys2Proof.Laws.Encodes.Statement (.andn x0 x1 x2 x3 x4) := by intros; rfl
theorem Sys2Proof.Laws.Encodes.sll : ∀ x0 x1 x2 x3 x4, Sys2Proof.Laws.Encodes.Statement (.sll x0 x1 x2 x3 x4) := by intros; rfl
theorem Sys2Proof.Laws.Encodes.srl : ∀ x0 x1 x2 x3 x4, Sys2Proof.Laws.Encodes.Statement (.srl x0 x1 x2 x3 x4) := by intros; rfl
theorem Sys2Proof.Laws.Encodes.sra : ∀ x0 x1 x2 x3 x4, Sys2Proof.Laws.Encodes.Statement (.sra x0 x1 x2 x3 x4) := by intros; rfl
theorem Sys2Proof.Laws.Encodes.rol : ∀ x0 x1 x2 x3 x4, Sys2Proof.Laws.Encodes.Statement (.rol x0 x1 x2 x3 x4) := by intros; rfl
theorem Sys2Proof.Laws.Encodes.ror : ∀ x0 x1 x2 x3 x4, Sys2Proof.Laws.Encodes.Statement (.ror x0 x1 x2 x3 x4) := by intros; rfl
theorem Sys2Proof.Laws.Encodes.slt : ∀ x0 x1 x2 x3 x4, Sys2Proof.Laws.Encodes.Statement (.slt x0 x1 x2 x3 x4) := by intros; rfl
theorem Sys2Proof.Laws.Encodes.sltu : ∀ x0 x1 x2 x3 x4, Sys2Proof.Laws.Encodes.Statement (.sltu x0 x1 x2 x3 x4) := by intros; rfl
theorem Sys2Proof.Laws.Encodes.seq : ∀ x0 x1 x2 x3 x4, Sys2Proof.Laws.Encodes.Statement (.seq x0 x1 x2 x3 x4) := by intros; rfl
theorem Sys2Proof.Laws.Encodes.min : ∀ x0 x1 x2 x3 x4, Sys2Proof.Laws.Encodes.Statement (.min x0 x1 x2 x3 x4) := by intros; rfl
theorem Sys2Proof.Laws.Encodes.max : ∀ x0 x1 x2 x3 x4, Sys2Proof.Laws.Encodes.Statement (.max x0 x1 x2 x3 x4) := by intros; rfl
theorem Sys2Proof.Laws.Encodes.minu : ∀ x0 x1 x2 x3 x4, Sys2Proof.Laws.Encodes.Statement (.minu x0 x1 x2 x3 x4) := by intros; rfl
theorem Sys2Proof.Laws.Encodes.maxu : ∀ x0 x1 x2 x3 x4, Sys2Proof.Laws.Encodes.Statement (.maxu x0 x1 x2 x3 x4) := by intros; rfl
theorem Sys2Proof.Laws.Encodes.mul : ∀ x0 x1 x2 x3 x4, Sys2Proof.Laws.Encodes.Statement (.mul x0 x1 x2 x3 x4) := by intros; rfl
theorem Sys2Proof.Laws.Encodes.mulh : ∀ x0 x1 x2 x3 x4, Sys2Proof.Laws.Encodes.Statement (.mulh x0 x1 x2 x3 x4) := by intros; rfl
theorem Sys2Proof.Laws.Encodes.mulhu : ∀ x0 x1 x2 x3 x4, Sys2Proof.Laws.Encodes.Statement (.mulhu x0 x1 x2 x3 x4) := by intros; rfl
theorem Sys2Proof.Laws.Encodes.madd : ∀ x0 x1 x2 x3 x4, Sys2Proof.Laws.Encodes.Statement (.madd x0 x1 x2 x3 x4) := by intros; rfl
theorem Sys2Proof.Laws.Encodes.div : ∀ x0 x1 x2 x3 x4, Sys2Proof.Laws.Encodes.Statement (.div x0 x1 x2 x3 x4) := by intros; rfl
theorem Sys2Proof.Laws.Encodes.divu : ∀ x0 x1 x2 x3 x4, Sys2Proof.Laws.Encodes.Statement (.divu x0 x1 x2 x3 x4) := by intros; rfl
theorem Sys2Proof.Laws.Encodes.rem : ∀ x0 x1 x2 x3 x4, Sys2Proof.Laws.Encodes.Statement (.rem x0 x1 x2 x3 x4) := by intros; rfl
theorem Sys2Proof.Laws.Encodes.remu : ∀ x0 x1 x2 x3 x4, Sys2Proof.Laws.Encodes.Statement (.remu x0 x1 x2 x3 x4) := by intros; rfl
theorem Sys2Proof.Laws.Encodes.clz : ∀ x0 x1 x2 x3, Sys2Proof.Laws.Encodes.Statement (.clz x0 x1 x2 x3) := by intros; rfl
theorem Sys2Proof.Laws.Encodes.ctz : ∀ x0 x1 x2 x3, Sys2Proof.Laws.Encodes.Statement (.ctz x0 x1 x2 x3) := by intros; rfl
theorem Sys2Proof.Laws.Encodes.popc : ∀ x0 x1 x2 x3, Sys2Proof.Laws.Encodes.Statement (.popc x0 x1 x2 x3) := by intros; rfl
theorem Sys2Proof.Laws.Encodes.brev : ∀ x0 x1 x2 x3, Sys2Proof.Laws.Encodes.Statement (.brev x0 x1 x2 x3) := by intros; rfl
theorem Sys2Proof.Laws.Encodes.bswap : ∀ x0 x1 x2 x3, Sys2Proof.Laws.Encodes.Statement (.bswap x0 x1 x2 x3) := by intros; rfl
theorem Sys2Proof.Laws.Encodes.addi : ∀ x0 x1 x2 x3, Sys2Proof.Laws.Encodes.Statement (.addi x0 x1 x2 x3) := by intros; rfl
theorem Sys2Proof.Laws.Encodes.andi : ∀ x0 x1 x2 x3, Sys2Proof.Laws.Encodes.Statement (.andi x0 x1 x2 x3) := by intros; rfl
theorem Sys2Proof.Laws.Encodes.ori : ∀ x0 x1 x2 x3, Sys2Proof.Laws.Encodes.Statement (.ori x0 x1 x2 x3) := by intros; rfl
theorem Sys2Proof.Laws.Encodes.xori : ∀ x0 x1 x2 x3, Sys2Proof.Laws.Encodes.Statement (.xori x0 x1 x2 x3) := by intros; rfl
theorem Sys2Proof.Laws.Encodes.slli : ∀ x0 x1 x2 x3 x4, Sys2Proof.Laws.Encodes.Statement (.slli x0 x1 x2 x3 x4) := by intros; rfl
theorem Sys2Proof.Laws.Encodes.srli : ∀ x0 x1 x2 x3 x4, Sys2Proof.Laws.Encodes.Statement (.srli x0 x1 x2 x3 x4) := by intros; rfl
theorem Sys2Proof.Laws.Encodes.srai : ∀ x0 x1 x2 x3 x4, Sys2Proof.Laws.Encodes.Statement (.srai x0 x1 x2 x3 x4) := by intros; rfl
theorem Sys2Proof.Laws.Encodes.roli : ∀ x0 x1 x2 x3 x4, Sys2Proof.Laws.Encodes.Statement (.roli x0 x1 x2 x3 x4) := by intros; rfl
theorem Sys2Proof.Laws.Encodes.slti : ∀ x0 x1 x2 x3, Sys2Proof.Laws.Encodes.Statement (.slti x0 x1 x2 x3) := by intros; rfl
theorem Sys2Proof.Laws.Encodes.sltiu : ∀ x0 x1 x2 x3, Sys2Proof.Laws.Encodes.Statement (.sltiu x0 x1 x2 x3) := by intros; rfl
theorem Sys2Proof.Laws.Encodes.lim : ∀ x0 x1 x2, Sys2Proof.Laws.Encodes.Statement (.lim x0 x1 x2) := by intros; rfl
theorem Sys2Proof.Laws.Encodes.addpc : ∀ x0 x1 x2, Sys2Proof.Laws.Encodes.Statement (.addpc x0 x1 x2) := by intros; rfl
theorem Sys2Proof.Laws.Encodes.fadd : ∀ x0 x1 x2 x3 x4 x5, Sys2Proof.Laws.Encodes.Statement (.fadd x0 x1 x2 x3 x4 x5) := by intros; rfl
theorem Sys2Proof.Laws.Encodes.fsub : ∀ x0 x1 x2 x3 x4 x5, Sys2Proof.Laws.Encodes.Statement (.fsub x0 x1 x2 x3 x4 x5) := by intros; rfl
theorem Sys2Proof.Laws.Encodes.fmul : ∀ x0 x1 x2 x3 x4 x5, Sys2Proof.Laws.Encodes.Statement (.fmul x0 x1 x2 x3 x4 x5) := by intros; rfl
theorem Sys2Proof.Laws.Encodes.fma : ∀ x0 x1 x2 x3 x4 x5, Sys2Proof.Laws.Encodes.Statement (.fma x0 x1 x2 x3 x4 x5) := by intros; rfl
theorem Sys2Proof.Laws.Encodes.fdiv : ∀ x0 x1 x2 x3 x4 x5, Sys2Proof.Laws.Encodes.Statement (.fdiv x0 x1 x2 x3 x4 x5) := by intros; rfl
theorem Sys2Proof.Laws.Encodes.fsqrt : ∀ x0 x1 x2 x3 x4, Sys2Proof.Laws.Encodes.Statement (.fsqrt x0 x1 x2 x3 x4) := by intros; rfl
theorem Sys2Proof.Laws.Encodes.fmin : ∀ x0 x1 x2 x3 x4, Sys2Proof.Laws.Encodes.Statement (.fmin x0 x1 x2 x3 x4) := by intros; rfl
theorem Sys2Proof.Laws.Encodes.fmax : ∀ x0 x1 x2 x3 x4, Sys2Proof.Laws.Encodes.Statement (.fmax x0 x1 x2 x3 x4) := by intros; rfl
theorem Sys2Proof.Laws.Encodes.fcmp : ∀ x0 x1 x2 x3 x4 x5, Sys2Proof.Laws.Encodes.Statement (.fcmp x0 x1 x2 x3 x4 x5) := by intros; rfl
theorem Sys2Proof.Laws.Encodes.fcvt : ∀ x0 x1 x2 x3 x4 x5 x6, Sys2Proof.Laws.Encodes.Statement (.fcvt x0 x1 x2 x3 x4 x5 x6) := by intros; rfl
theorem Sys2Proof.Laws.Encodes.fclass : ∀ x0 x1 x2 x3, Sys2Proof.Laws.Encodes.Statement (.fclass x0 x1 x2 x3) := by intros; rfl
theorem Sys2Proof.Laws.Encodes.fmv : ∀ x0 x1 x2 x3, Sys2Proof.Laws.Encodes.Statement (.fmv x0 x1 x2 x3) := by intros; rfl
theorem Sys2Proof.Laws.Encodes.clmul : ∀ x0 x1 x2 x3, Sys2Proof.Laws.Encodes.Statement (.clmul x0 x1 x2 x3) := by intros; rfl
theorem Sys2Proof.Laws.Encodes.clmulh : ∀ x0 x1 x2 x3, Sys2Proof.Laws.Encodes.Statement (.clmulh x0 x1 x2 x3) := by intros; rfl
theorem Sys2Proof.Laws.Encodes.extr : ∀ x0 x1 x2 x3 x4, Sys2Proof.Laws.Encodes.Statement (.extr x0 x1 x2 x3 x4) := by intros; rfl
theorem Sys2Proof.Laws.Encodes.ins : ∀ x0 x1 x2 x3, Sys2Proof.Laws.Encodes.Statement (.ins x0 x1 x2 x3) := by intros; rfl
theorem Sys2Proof.Laws.Encodes.sel : ∀ x0 x1 x2 x3 x4, Sys2Proof.Laws.Encodes.Statement (.sel x0 x1 x2 x3 x4) := by intros; rfl
theorem Sys2Proof.Laws.Encodes.beq : ∀ x0 x1 x2 x3, Sys2Proof.Laws.Encodes.Statement (.beq x0 x1 x2 x3) := by intros; rfl
theorem Sys2Proof.Laws.Encodes.bne : ∀ x0 x1 x2 x3, Sys2Proof.Laws.Encodes.Statement (.bne x0 x1 x2 x3) := by intros; rfl
theorem Sys2Proof.Laws.Encodes.blt : ∀ x0 x1 x2 x3, Sys2Proof.Laws.Encodes.Statement (.blt x0 x1 x2 x3) := by intros; rfl
theorem Sys2Proof.Laws.Encodes.bge : ∀ x0 x1 x2 x3, Sys2Proof.Laws.Encodes.Statement (.bge x0 x1 x2 x3) := by intros; rfl
theorem Sys2Proof.Laws.Encodes.bltu : ∀ x0 x1 x2 x3, Sys2Proof.Laws.Encodes.Statement (.bltu x0 x1 x2 x3) := by intros; rfl
theorem Sys2Proof.Laws.Encodes.bgeu : ∀ x0 x1 x2 x3, Sys2Proof.Laws.Encodes.Statement (.bgeu x0 x1 x2 x3) := by intros; rfl
theorem Sys2Proof.Laws.Encodes.jal : ∀ x0 x1 x2, Sys2Proof.Laws.Encodes.Statement (.jal x0 x1 x2) := by intros; rfl
theorem Sys2Proof.Laws.Encodes.jalr : ∀ x0 x1 x2 x3, Sys2Proof.Laws.Encodes.Statement (.jalr x0 x1 x2 x3) := by intros; rfl
theorem Sys2Proof.Laws.Encodes.loop : ∀ x0 x1 x2, Sys2Proof.Laws.Encodes.Statement (.loop x0 x1 x2) := by intros; rfl
theorem Sys2Proof.Laws.Encodes.rpt : ∀ x0 x1 x2, Sys2Proof.Laws.Encodes.Statement (.rpt x0 x1 x2) := by intros; rfl
theorem Sys2Proof.Laws.Encodes.rptRegisterCount : ∀ x0 x1 x2, Sys2Proof.Laws.Encodes.Statement (.rptRegisterCount x0 x1 x2) := by intros; rfl
theorem Sys2Proof.Laws.Encodes.mod : ∀ x0 x1 x2 x3 x4, Sys2Proof.Laws.Encodes.Statement (.mod x0 x1 x2 x3 x4) := by intros; rfl
theorem Sys2Proof.Laws.Encodes.ldl : ∀ x0 x1 x2 x3, Sys2Proof.Laws.Encodes.Statement (.ldl x0 x1 x2 x3) := by intros; rfl
theorem Sys2Proof.Laws.Encodes.stl : ∀ x0 x1 x2 x3, Sys2Proof.Laws.Encodes.Statement (.stl x0 x1 x2 x3) := by intros; rfl
theorem Sys2Proof.Laws.Encodes.ld : ∀ x0 x1 x2 x3, Sys2Proof.Laws.Encodes.Statement (.ld x0 x1 x2 x3) := by intros; rfl
theorem Sys2Proof.Laws.Encodes.st : ∀ x0 x1 x2 x3, Sys2Proof.Laws.Encodes.Statement (.st x0 x1 x2 x3) := by intros; rfl
theorem Sys2Proof.Laws.Encodes.lqr : ∀ x0 x1 x2, Sys2Proof.Laws.Encodes.Statement (.lqr x0 x1 x2) := by intros; rfl
theorem Sys2Proof.Laws.Encodes.lqg : ∀ x0 x1 x2 x3 x4, Sys2Proof.Laws.Encodes.Statement (.lqg x0 x1 x2 x3 x4) := by intros; rfl
theorem Sys2Proof.Laws.Encodes.sqw : ∀ x0 x1 x2, Sys2Proof.Laws.Encodes.Statement (.sqw x0 x1 x2) := by intros; rfl
theorem Sys2Proof.Laws.Encodes.sqs : ∀ x0 x1 x2 x3 x4, Sys2Proof.Laws.Encodes.Statement (.sqs x0 x1 x2 x3 x4) := by intros; rfl
theorem Sys2Proof.Laws.Encodes.amoadd : ∀ x0 x1 x2 x3, Sys2Proof.Laws.Encodes.Statement (.amoadd x0 x1 x2 x3) := by intros; rfl
theorem Sys2Proof.Laws.Encodes.amoand : ∀ x0 x1 x2 x3, Sys2Proof.Laws.Encodes.Statement (.amoand x0 x1 x2 x3) := by intros; rfl
theorem Sys2Proof.Laws.Encodes.amoor : ∀ x0 x1 x2 x3, Sys2Proof.Laws.Encodes.Statement (.amoor x0 x1 x2 x3) := by intros; rfl
theorem Sys2Proof.Laws.Encodes.amoxor : ∀ x0 x1 x2 x3, Sys2Proof.Laws.Encodes.Statement (.amoxor x0 x1 x2 x3) := by intros; rfl
theorem Sys2Proof.Laws.Encodes.amomin : ∀ x0 x1 x2 x3, Sys2Proof.Laws.Encodes.Statement (.amomin x0 x1 x2 x3) := by intros; rfl
theorem Sys2Proof.Laws.Encodes.amomax : ∀ x0 x1 x2 x3, Sys2Proof.Laws.Encodes.Statement (.amomax x0 x1 x2 x3) := by intros; rfl
theorem Sys2Proof.Laws.Encodes.amominu : ∀ x0 x1 x2 x3, Sys2Proof.Laws.Encodes.Statement (.amominu x0 x1 x2 x3) := by intros; rfl
theorem Sys2Proof.Laws.Encodes.amomaxu : ∀ x0 x1 x2 x3, Sys2Proof.Laws.Encodes.Statement (.amomaxu x0 x1 x2 x3) := by intros; rfl
theorem Sys2Proof.Laws.Encodes.amoswp : ∀ x0 x1 x2 x3, Sys2Proof.Laws.Encodes.Statement (.amoswp x0 x1 x2 x3) := by intros; rfl
theorem Sys2Proof.Laws.Encodes.amocas : ∀ x0 x1 x2 x3, Sys2Proof.Laws.Encodes.Statement (.amocas x0 x1 x2 x3) := by intros; rfl
theorem Sys2Proof.Laws.Encodes.amofadd : ∀ x0 x1 x2 x3, Sys2Proof.Laws.Encodes.Statement (.amofadd x0 x1 x2 x3) := by intros; rfl
theorem Sys2Proof.Laws.Encodes.fence : ∀ x0, Sys2Proof.Laws.Encodes.Statement (.fence x0) := by intros; rfl
theorem Sys2Proof.Laws.Encodes.acq : ∀ x0, Sys2Proof.Laws.Encodes.Statement (.acq x0) := by intros; rfl
theorem Sys2Proof.Laws.Encodes.rel : ∀ x0, Sys2Proof.Laws.Encodes.Statement (.rel x0) := by intros; rfl
theorem Sys2Proof.Laws.Encodes.tclr : ∀ x0 x1, Sys2Proof.Laws.Encodes.Statement (.tclr x0 x1) := by intros; rfl
theorem Sys2Proof.Laws.Encodes.tmrg : ∀ x0 x1 x2, Sys2Proof.Laws.Encodes.Statement (.tmrg x0 x1 x2) := by intros; rfl
theorem Sys2Proof.Laws.Encodes.tqry : ∀ x0 x1 x2, Sys2Proof.Laws.Encodes.Statement (.tqry x0 x1 x2) := by intros; rfl
theorem Sys2Proof.Laws.Encodes.qenq : ∀ x0 x1 x2 x3 x4, Sys2Proof.Laws.Encodes.Statement (.qenq x0 x1 x2 x3 x4) := by intros; rfl
theorem Sys2Proof.Laws.Encodes.qdeq : ∀ x0 x1 x2 x3 x4, Sys2Proof.Laws.Encodes.Statement (.qdeq x0 x1 x2 x3 x4) := by intros; rfl
theorem Sys2Proof.Laws.Encodes.qwait : ∀ x0, Sys2Proof.Laws.Encodes.Statement (.qwait x0) := by intros; rfl
theorem Sys2Proof.Laws.Encodes.qstat : ∀ x0 x1, Sys2Proof.Laws.Encodes.Statement (.qstat x0 x1) := by intros; rfl
theorem Sys2Proof.Laws.Encodes.qinit : ∀ x0, Sys2Proof.Laws.Encodes.Statement (.qinit x0) := by intros; rfl
theorem Sys2Proof.Laws.Encodes.chsend : ∀ x0 x1, Sys2Proof.Laws.Encodes.Statement (.chsend x0 x1) := by intros; rfl
theorem Sys2Proof.Laws.Encodes.chrecv : ∀ x0 x1, Sys2Proof.Laws.Encodes.Statement (.chrecv x0 x1) := by intros; rfl
theorem Sys2Proof.Laws.Encodes.chpoll : ∀ x0 x1, Sys2Proof.Laws.Encodes.Statement (.chpoll x0 x1) := by intros; rfl
theorem Sys2Proof.Laws.Encodes.saadd : ∀ x0 x1 x2 x3 x4 x5, Sys2Proof.Laws.Encodes.Statement (.saadd x0 x1 x2 x3 x4 x5) := by intros; rfl
theorem Sys2Proof.Laws.Encodes.sanrm : ∀ x0 x1 x2 x3 x4 x5 x6, Sys2Proof.Laws.Encodes.Statement (.sanrm x0 x1 x2 x3 x4 x5 x6) := by intros; rfl
theorem Sys2Proof.Laws.Encodes.saclr : ∀ x0 x1 x2, Sys2Proof.Laws.Encodes.Statement (.saclr x0 x1 x2) := by intros; rfl
theorem Sys2Proof.Laws.Encodes.safence : ∀ x0 x1 x2 x3 x4, Sys2Proof.Laws.Encodes.Statement (.safence x0 x1 x2 x3 x4) := by intros; rfl
theorem Sys2Proof.Laws.Encodes.saevict : ∀ x0 x1 x2 x3, Sys2Proof.Laws.Encodes.Statement (.saevict x0 x1 x2 x3) := by intros; rfl
theorem Sys2Proof.Laws.Encodes.saload : ∀ x0 x1 x2, Sys2Proof.Laws.Encodes.Statement (.saload x0 x1 x2) := by intros; rfl
theorem Sys2Proof.Laws.Encodes.sagain : ∀ x0 x1 x2 x3, Sys2Proof.Laws.Encodes.Statement (.sagain x0 x1 x2 x3) := by intros; rfl
theorem Sys2Proof.Laws.Encodes.sasq : ∀ x0 x1 x2 x3, Sys2Proof.Laws.Encodes.Statement (.sasq x0 x1 x2 x3) := by intros; rfl
theorem Sys2Proof.Laws.Encodes.lmzero : ∀ x0 x1 x2, Sys2Proof.Laws.Encodes.Statement (.lmzero x0 x1 x2) := by intros; rfl
theorem Sys2Proof.Laws.Encodes.lmcopy : ∀ x0 x1 x2 x3, Sys2Proof.Laws.Encodes.Statement (.lmcopy x0 x1 x2 x3) := by intros; rfl
theorem Sys2Proof.Laws.Encodes.lmcmp : ∀ x0 x1 x2 x3, Sys2Proof.Laws.Encodes.Statement (.lmcmp x0 x1 x2 x3) := by intros; rfl
theorem Sys2Proof.Laws.Encodes.lmfence : Sys2Proof.Laws.Encodes.Statement .lmfence := rfl
theorem Sys2Proof.Laws.Encodes.mcrd : ∀ x0 x1 x2 x3, Sys2Proof.Laws.Encodes.Statement (.mcrd x0 x1 x2 x3) := by intros; rfl
theorem Sys2Proof.Laws.Encodes.redsend : ∀ x0 x1 x2 x3 x4, Sys2Proof.Laws.Encodes.Statement (.redsend x0 x1 x2 x3 x4) := by intros; rfl
theorem Sys2Proof.Laws.Encodes.redwait : ∀ x0 x1 x2, Sys2Proof.Laws.Encodes.Statement (.redwait x0 x1 x2) := by intros; rfl
theorem Sys2Proof.Laws.Encodes.xsend : ∀ x0 x1 x2 x3 x4, Sys2Proof.Laws.Encodes.Statement (.xsend x0 x1 x2 x3 x4) := by intros; rfl
theorem Sys2Proof.Laws.Encodes.xrecv : ∀ x0 x1, Sys2Proof.Laws.Encodes.Statement (.xrecv x0 x1) := by intros; rfl
theorem Sys2Proof.Laws.Encodes.bar : ∀ x0, Sys2Proof.Laws.Encodes.Statement (.bar x0) := by intros; rfl
theorem Sys2Proof.Laws.Encodes.barDomain : Sys2Proof.Laws.Encodes.Statement .barDomain := rfl
theorem Sys2Proof.Laws.Encodes.sstep : Sys2Proof.Laws.Encodes.Statement .sstep := rfl
theorem Sys2Proof.Laws.Encodes.tlwait : ∀ x0 x1 x2, Sys2Proof.Laws.Encodes.Statement (.tlwait x0 x1 x2) := by intros; rfl
theorem Sys2Proof.Laws.Encodes.feset : ∀ x0 x1, Sys2Proof.Laws.Encodes.Statement (.feset x0 x1) := by intros; rfl
theorem Sys2Proof.Laws.Encodes.feclr : ∀ x0 x1, Sys2Proof.Laws.Encodes.Statement (.feclr x0 x1) := by intros; rfl
theorem Sys2Proof.Laws.Encodes.fewait : ∀ x0 x1 x2, Sys2Proof.Laws.Encodes.Statement (.fewait x0 x1 x2) := by intros; rfl
theorem Sys2Proof.Laws.Encodes.tladv : ∀ x0 x1, Sys2Proof.Laws.Encodes.Statement (.tladv x0 x1) := by intros; rfl
theorem Sys2Proof.Laws.Encodes.cpy : ∀ x0 x1 x2 x3 x4 x5, Sys2Proof.Laws.Encodes.Statement (.cpy x0 x1 x2 x3 x4 x5) := by intros; rfl
theorem Sys2Proof.Laws.Encodes.cpy2d : ∀ x0 x1 x2 x3 x4 x5, Sys2Proof.Laws.Encodes.Statement (.cpy2d x0 x1 x2 x3 x4 x5) := by intros; rfl
theorem Sys2Proof.Laws.Encodes.cpyga : ∀ x0 x1 x2 x3 x4, Sys2Proof.Laws.Encodes.Statement (.cpyga x0 x1 x2 x3 x4) := by intros; rfl
theorem Sys2Proof.Laws.Encodes.cpysc : ∀ x0 x1 x2 x3 x4, Sys2Proof.Laws.Encodes.Statement (.cpysc x0 x1 x2 x3 x4) := by intros; rfl
theorem Sys2Proof.Laws.Encodes.cpyfi : ∀ x0 x1 x2 x3 x4 x5, Sys2Proof.Laws.Encodes.Statement (.cpyfi x0 x1 x2 x3 x4 x5) := by intros; rfl
theorem Sys2Proof.Laws.Encodes.cpycv : ∀ x0 x1 x2 x3 x4 x5, Sys2Proof.Laws.Encodes.Statement (.cpycv x0 x1 x2 x3 x4 x5) := by intros; rfl
theorem Sys2Proof.Laws.Encodes.pref : ∀ x0 x1 x2, Sys2Proof.Laws.Encodes.Statement (.pref x0 x1 x2) := by intros; rfl
theorem Sys2Proof.Laws.Encodes.launch : ∀ x0 x1 x2, Sys2Proof.Laws.Encodes.Statement (.launch x0 x1 x2) := by intros; rfl
theorem Sys2Proof.Laws.Encodes.ldloc : ∀ x0 x1 x2, Sys2Proof.Laws.Encodes.Statement (.ldloc x0 x1 x2) := by intros; rfl
theorem Sys2Proof.Laws.Encodes.stloc : ∀ x0 x1 x2, Sys2Proof.Laws.Encodes.Statement (.stloc x0 x1 x2) := by intros; rfl
theorem Sys2Proof.Laws.Encodes.ldctl : ∀ x0 x1, Sys2Proof.Laws.Encodes.Statement (.ldctl x0 x1) := by intros; rfl
theorem Sys2Proof.Laws.Encodes.stctl : ∀ x0 x1, Sys2Proof.Laws.Encodes.Statement (.stctl x0 x1) := by intros; rfl
theorem Sys2Proof.Laws.Encodes.ldvir : ∀ x0 x1 x2 x3 x4, Sys2Proof.Laws.Encodes.Statement (.ldvir x0 x1 x2 x3 x4) := by intros; rfl
theorem Sys2Proof.Laws.Encodes.stvir : ∀ x0 x1 x2 x3 x4, Sys2Proof.Laws.Encodes.Statement (.stvir x0 x1 x2 x3 x4) := by intros; rfl
theorem Sys2Proof.Laws.Encodes.ldphy : ∀ x0 x1 x2, Sys2Proof.Laws.Encodes.Statement (.ldphy x0 x1 x2) := by intros; rfl
theorem Sys2Proof.Laws.Encodes.stphy : ∀ x0 x1 x2, Sys2Proof.Laws.Encodes.Statement (.stphy x0 x1 x2) := by intros; rfl
theorem Sys2Proof.Laws.Encodes.ldrem : ∀ x0 x1 x2 x3, Sys2Proof.Laws.Encodes.Statement (.ldrem x0 x1 x2 x3) := by intros; rfl
theorem Sys2Proof.Laws.Encodes.strem : ∀ x0 x1 x2 x3, Sys2Proof.Laws.Encodes.Statement (.strem x0 x1 x2 x3) := by intros; rfl
theorem Sys2Proof.Laws.Encodes.ldhst : ∀ x0 x1 x2, Sys2Proof.Laws.Encodes.Statement (.ldhst x0 x1 x2) := by intros; rfl
theorem Sys2Proof.Laws.Encodes.sthst : ∀ x0 x1 x2, Sys2Proof.Laws.Encodes.Statement (.sthst x0 x1 x2) := by intros; rfl
theorem Sys2Proof.Laws.Encodes.vadd : ∀ x0 x1 x2, Sys2Proof.Laws.Encodes.Statement (.vadd x0 x1 x2) := by intros; rfl
theorem Sys2Proof.Laws.Encodes.vsub : ∀ x0 x1 x2, Sys2Proof.Laws.Encodes.Statement (.vsub x0 x1 x2) := by intros; rfl
theorem Sys2Proof.Laws.Encodes.vmul : ∀ x0 x1 x2, Sys2Proof.Laws.Encodes.Statement (.vmul x0 x1 x2) := by intros; rfl
theorem Sys2Proof.Laws.Encodes.vfma : ∀ x0 x1 x2, Sys2Proof.Laws.Encodes.Statement (.vfma x0 x1 x2) := by intros; rfl
theorem Sys2Proof.Laws.Encodes.vfms : ∀ x0 x1 x2, Sys2Proof.Laws.Encodes.Statement (.vfms x0 x1 x2) := by intros; rfl
theorem Sys2Proof.Laws.Encodes.vfnma : ∀ x0 x1 x2, Sys2Proof.Laws.Encodes.Statement (.vfnma x0 x1 x2) := by intros; rfl
theorem Sys2Proof.Laws.Encodes.vmin : ∀ x0 x1 x2, Sys2Proof.Laws.Encodes.Statement (.vmin x0 x1 x2) := by intros; rfl
theorem Sys2Proof.Laws.Encodes.vmax : ∀ x0 x1 x2, Sys2Proof.Laws.Encodes.Statement (.vmax x0 x1 x2) := by intros; rfl
theorem Sys2Proof.Laws.Encodes.vabs : ∀ x0 x1, Sys2Proof.Laws.Encodes.Statement (.vabs x0 x1) := by intros; rfl
theorem Sys2Proof.Laws.Encodes.vneg : ∀ x0 x1, Sys2Proof.Laws.Encodes.Statement (.vneg x0 x1) := by intros; rfl
theorem Sys2Proof.Laws.Encodes.vcps : ∀ x0 x1 x2, Sys2Proof.Laws.Encodes.Statement (.vcps x0 x1 x2) := by intros; rfl
theorem Sys2Proof.Laws.Encodes.vdiv : ∀ x0 x1 x2, Sys2Proof.Laws.Encodes.Statement (.vdiv x0 x1 x2) := by intros; rfl
theorem Sys2Proof.Laws.Encodes.vsqrt : ∀ x0 x1, Sys2Proof.Laws.Encodes.Statement (.vsqrt x0 x1) := by intros; rfl
theorem Sys2Proof.Laws.Encodes.vrsq : ∀ x0 x1, Sys2Proof.Laws.Encodes.Statement (.vrsq x0 x1) := by intros; rfl
theorem Sys2Proof.Laws.Encodes.vrcp : ∀ x0 x1, Sys2Proof.Laws.Encodes.Statement (.vrcp x0 x1) := by intros; rfl
theorem Sys2Proof.Laws.Encodes.vexp2 : ∀ x0 x1, Sys2Proof.Laws.Encodes.Statement (.vexp2 x0 x1) := by intros; rfl
theorem Sys2Proof.Laws.Encodes.vlog2 : ∀ x0 x1, Sys2Proof.Laws.Encodes.Statement (.vlog2 x0 x1) := by intros; rfl
theorem Sys2Proof.Laws.Encodes.vtanh : ∀ x0 x1, Sys2Proof.Laws.Encodes.Statement (.vtanh x0 x1) := by intros; rfl
theorem Sys2Proof.Laws.Encodes.vsig : ∀ x0 x1, Sys2Proof.Laws.Encodes.Statement (.vsig x0 x1) := by intros; rfl
theorem Sys2Proof.Laws.Encodes.viadd : ∀ x0 x1 x2, Sys2Proof.Laws.Encodes.Statement (.viadd x0 x1 x2) := by intros; rfl
theorem Sys2Proof.Laws.Encodes.visub : ∀ x0 x1 x2, Sys2Proof.Laws.Encodes.Statement (.visub x0 x1 x2) := by intros; rfl
theorem Sys2Proof.Laws.Encodes.vimul : ∀ x0 x1 x2, Sys2Proof.Laws.Encodes.Statement (.vimul x0 x1 x2) := by intros; rfl
theorem Sys2Proof.Laws.Encodes.vimulh : ∀ x0 x1 x2 x3, Sys2Proof.Laws.Encodes.Statement (.vimulh x0 x1 x2 x3) := by intros; rfl
theorem Sys2Proof.Laws.Encodes.vimin : ∀ x0 x1 x2 x3, Sys2Proof.Laws.Encodes.Statement (.vimin x0 x1 x2 x3) := by intros; rfl
theorem Sys2Proof.Laws.Encodes.vimax : ∀ x0 x1 x2 x3, Sys2Proof.Laws.Encodes.Statement (.vimax x0 x1 x2 x3) := by intros; rfl
theorem Sys2Proof.Laws.Encodes.viabs : ∀ x0 x1, Sys2Proof.Laws.Encodes.Statement (.viabs x0 x1) := by intros; rfl
theorem Sys2Proof.Laws.Encodes.vand : ∀ x0 x1 x2, Sys2Proof.Laws.Encodes.Statement (.vand x0 x1 x2) := by intros; rfl
theorem Sys2Proof.Laws.Encodes.vor : ∀ x0 x1 x2, Sys2Proof.Laws.Encodes.Statement (.vor x0 x1 x2) := by intros; rfl
theorem Sys2Proof.Laws.Encodes.vxor : ∀ x0 x1 x2, Sys2Proof.Laws.Encodes.Statement (.vxor x0 x1 x2) := by intros; rfl
theorem Sys2Proof.Laws.Encodes.vandn : ∀ x0 x1 x2, Sys2Proof.Laws.Encodes.Statement (.vandn x0 x1 x2) := by intros; rfl
theorem Sys2Proof.Laws.Encodes.vshl : ∀ x0 x1 x2, Sys2Proof.Laws.Encodes.Statement (.vshl x0 x1 x2) := by intros; rfl
theorem Sys2Proof.Laws.Encodes.vshr : ∀ x0 x1 x2, Sys2Proof.Laws.Encodes.Statement (.vshr x0 x1 x2) := by intros; rfl
theorem Sys2Proof.Laws.Encodes.vsra : ∀ x0 x1 x2, Sys2Proof.Laws.Encodes.Statement (.vsra x0 x1 x2) := by intros; rfl
theorem Sys2Proof.Laws.Encodes.vpopc : ∀ x0 x1, Sys2Proof.Laws.Encodes.Statement (.vpopc x0 x1) := by intros; rfl
theorem Sys2Proof.Laws.Encodes.vclmul : ∀ x0 x1 x2, Sys2Proof.Laws.Encodes.Statement (.vclmul x0 x1 x2) := by intros; rfl
theorem Sys2Proof.Laws.Encodes.vcmpF32Eq : ∀ x0 x1 x2, Sys2Proof.Laws.Encodes.Statement (.vcmpF32Eq x0 x1 x2) := by intros; rfl
theorem Sys2Proof.Laws.Encodes.vcmpF32Lt : ∀ x0 x1 x2, Sys2Proof.Laws.Encodes.Statement (.vcmpF32Lt x0 x1 x2) := by intros; rfl
theorem Sys2Proof.Laws.Encodes.vcmpF32Le : ∀ x0 x1 x2, Sys2Proof.Laws.Encodes.Statement (.vcmpF32Le x0 x1 x2) := by intros; rfl
theorem Sys2Proof.Laws.Encodes.vcmpF32Un : ∀ x0 x1 x2, Sys2Proof.Laws.Encodes.Statement (.vcmpF32Un x0 x1 x2) := by intros; rfl
theorem Sys2Proof.Laws.Encodes.vcmpI32Eq : ∀ x0 x1 x2, Sys2Proof.Laws.Encodes.Statement (.vcmpI32Eq x0 x1 x2) := by intros; rfl
theorem Sys2Proof.Laws.Encodes.vcmpI32Lt : ∀ x0 x1 x2, Sys2Proof.Laws.Encodes.Statement (.vcmpI32Lt x0 x1 x2) := by intros; rfl
theorem Sys2Proof.Laws.Encodes.vcmpI32Le : ∀ x0 x1 x2, Sys2Proof.Laws.Encodes.Statement (.vcmpI32Le x0 x1 x2) := by intros; rfl
theorem Sys2Proof.Laws.Encodes.vcmpN32Lt : ∀ x0 x1 x2, Sys2Proof.Laws.Encodes.Statement (.vcmpN32Lt x0 x1 x2) := by intros; rfl
theorem Sys2Proof.Laws.Encodes.vcmpN32Le : ∀ x0 x1 x2, Sys2Proof.Laws.Encodes.Statement (.vcmpN32Le x0 x1 x2) := by intros; rfl
theorem Sys2Proof.Laws.Encodes.vsel : ∀ x0 x1 x2, Sys2Proof.Laws.Encodes.Statement (.vsel x0 x1 x2) := by intros; rfl
theorem Sys2Proof.Laws.Encodes.vmskExpand : ∀ x0 x1, Sys2Proof.Laws.Encodes.Statement (.vmskExpand x0 x1) := by intros; rfl
theorem Sys2Proof.Laws.Encodes.vmskPack : ∀ x0 x1, Sys2Proof.Laws.Encodes.Statement (.vmskPack x0 x1) := by intros; rfl
theorem Sys2Proof.Laws.Encodes.vcvt : ∀ x0 x1 x2 x3, Sys2Proof.Laws.Encodes.Statement (.vcvt x0 x1 x2 x3) := by intros; rfl
theorem Sys2Proof.Laws.Encodes.vqnt : ∀ x0 x1 x2 x3, Sys2Proof.Laws.Encodes.Statement (.vqnt x0 x1 x2 x3) := by intros; rfl
theorem Sys2Proof.Laws.Encodes.vdqnt : ∀ x0 x1 x2 x3, Sys2Proof.Laws.Encodes.Statement (.vdqnt x0 x1 x2 x3) := by intros; rfl
theorem Sys2Proof.Laws.Encodes.vamax : ∀ x0 x1 x2, Sys2Proof.Laws.Encodes.Statement (.vamax x0 x1 x2) := by intros; rfl
theorem Sys2Proof.Laws.Encodes.vshuf : ∀ x0 x1 x2, Sys2Proof.Laws.Encodes.Statement (.vshuf x0 x1 x2) := by intros; rfl
theorem Sys2Proof.Laws.Encodes.vrot : ∀ x0 x1 x2, Sys2Proof.Laws.Encodes.Statement (.vrot x0 x1 x2) := by intros; rfl
theorem Sys2Proof.Laws.Encodes.vredsum : ∀ x0 x1 x2, Sys2Proof.Laws.Encodes.Statement (.vredsum x0 x1 x2) := by intros; rfl
theorem Sys2Proof.Laws.Encodes.vredmax : ∀ x0 x1 x2, Sys2Proof.Laws.Encodes.Statement (.vredmax x0 x1 x2) := by intros; rfl
theorem Sys2Proof.Laws.Encodes.vredmin : ∀ x0 x1 x2, Sys2Proof.Laws.Encodes.Statement (.vredmin x0 x1 x2) := by intros; rfl
theorem Sys2Proof.Laws.Encodes.vscan : ∀ x0 x1 x2, Sys2Proof.Laws.Encodes.Statement (.vscan x0 x1 x2) := by intros; rfl
theorem Sys2Proof.Laws.Encodes.vxpose : ∀ x0 x1, Sys2Proof.Laws.Encodes.Statement (.vxpose x0 x1) := by intros; rfl
theorem Sys2Proof.Laws.Encodes.vcpy : ∀ x0 x1, Sys2Proof.Laws.Encodes.Statement (.vcpy x0 x1) := by intros; rfl
theorem Sys2Proof.Laws.Encodes.vzero : ∀ x0, Sys2Proof.Laws.Encodes.Statement (.vzero x0) := by intros; rfl
theorem Sys2Proof.Laws.Encodes.vbcast : ∀ x0 x1 x2, Sys2Proof.Laws.Encodes.Statement (.vbcast x0 x1 x2) := by intros; rfl
theorem Sys2Proof.Laws.Encodes.vext : ∀ x0 x1 x2, Sys2Proof.Laws.Encodes.Statement (.vext x0 x1 x2) := by intros; rfl
theorem Sys2Proof.Laws.Encodes.vins : ∀ x0 x1 x2, Sys2Proof.Laws.Encodes.Statement (.vins x0 x1 x2) := by intros; rfl
theorem Sys2Proof.Laws.Encodes.viota : ∀ x0 x1 x2, Sys2Proof.Laws.Encodes.Statement (.viota x0 x1 x2) := by intros; rfl
theorem Sys2Proof.Laws.Encodes.vsq : ∀ x0 x1, Sys2Proof.Laws.Encodes.Statement (.vsq x0 x1) := by intros; rfl
theorem Sys2Proof.Laws.Encodes.vaddQ : ∀ x0 x1 x2 x3, Sys2Proof.Laws.Encodes.Statement (.vaddQ x0 x1 x2 x3) := by intros; rfl
theorem Sys2Proof.Laws.Encodes.vsubQ : ∀ x0 x1 x2 x3, Sys2Proof.Laws.Encodes.Statement (.vsubQ x0 x1 x2 x3) := by intros; rfl
theorem Sys2Proof.Laws.Encodes.vmulQ : ∀ x0 x1 x2 x3, Sys2Proof.Laws.Encodes.Statement (.vmulQ x0 x1 x2 x3) := by intros; rfl
theorem Sys2Proof.Laws.Encodes.vfmaQ : ∀ x0 x1 x2, Sys2Proof.Laws.Encodes.Statement (.vfmaQ x0 x1 x2) := by intros; rfl
theorem Sys2Proof.Laws.Encodes.vfmsQ : ∀ x0 x1 x2, Sys2Proof.Laws.Encodes.Statement (.vfmsQ x0 x1 x2) := by intros; rfl
theorem Sys2Proof.Laws.Encodes.vfnmaQ : ∀ x0 x1 x2, Sys2Proof.Laws.Encodes.Statement (.vfnmaQ x0 x1 x2) := by intros; rfl
theorem Sys2Proof.Laws.Encodes.vminQ : ∀ x0 x1 x2 x3, Sys2Proof.Laws.Encodes.Statement (.vminQ x0 x1 x2 x3) := by intros; rfl
theorem Sys2Proof.Laws.Encodes.vmaxQ : ∀ x0 x1 x2 x3, Sys2Proof.Laws.Encodes.Statement (.vmaxQ x0 x1 x2 x3) := by intros; rfl
theorem Sys2Proof.Laws.Encodes.vabsQ : ∀ x0 x1, Sys2Proof.Laws.Encodes.Statement (.vabsQ x0 x1) := by intros; rfl
theorem Sys2Proof.Laws.Encodes.vnegQ : ∀ x0 x1, Sys2Proof.Laws.Encodes.Statement (.vnegQ x0 x1) := by intros; rfl
theorem Sys2Proof.Laws.Encodes.vcpsQ : ∀ x0 x1 x2 x3, Sys2Proof.Laws.Encodes.Statement (.vcpsQ x0 x1 x2 x3) := by intros; rfl
theorem Sys2Proof.Laws.Encodes.viaddQ : ∀ x0 x1 x2 x3, Sys2Proof.Laws.Encodes.Statement (.viaddQ x0 x1 x2 x3) := by intros; rfl
theorem Sys2Proof.Laws.Encodes.visubQ : ∀ x0 x1 x2 x3, Sys2Proof.Laws.Encodes.Statement (.visubQ x0 x1 x2 x3) := by intros; rfl
theorem Sys2Proof.Laws.Encodes.vimulQ : ∀ x0 x1 x2 x3, Sys2Proof.Laws.Encodes.Statement (.vimulQ x0 x1 x2 x3) := by intros; rfl
theorem Sys2Proof.Laws.Encodes.vimulhQ : ∀ x0 x1 x2 x3 x4, Sys2Proof.Laws.Encodes.Statement (.vimulhQ x0 x1 x2 x3 x4) := by intros; rfl
theorem Sys2Proof.Laws.Encodes.viminQ : ∀ x0 x1 x2 x3 x4, Sys2Proof.Laws.Encodes.Statement (.viminQ x0 x1 x2 x3 x4) := by intros; rfl
theorem Sys2Proof.Laws.Encodes.vimaxQ : ∀ x0 x1 x2 x3 x4, Sys2Proof.Laws.Encodes.Statement (.vimaxQ x0 x1 x2 x3 x4) := by intros; rfl
theorem Sys2Proof.Laws.Encodes.viabsQ : ∀ x0 x1, Sys2Proof.Laws.Encodes.Statement (.viabsQ x0 x1) := by intros; rfl
theorem Sys2Proof.Laws.Encodes.vandQ : ∀ x0 x1 x2 x3, Sys2Proof.Laws.Encodes.Statement (.vandQ x0 x1 x2 x3) := by intros; rfl
theorem Sys2Proof.Laws.Encodes.vorQ : ∀ x0 x1 x2 x3, Sys2Proof.Laws.Encodes.Statement (.vorQ x0 x1 x2 x3) := by intros; rfl
theorem Sys2Proof.Laws.Encodes.vxorQ : ∀ x0 x1 x2 x3, Sys2Proof.Laws.Encodes.Statement (.vxorQ x0 x1 x2 x3) := by intros; rfl
theorem Sys2Proof.Laws.Encodes.vandnQ : ∀ x0 x1 x2 x3, Sys2Proof.Laws.Encodes.Statement (.vandnQ x0 x1 x2 x3) := by intros; rfl
theorem Sys2Proof.Laws.Encodes.vshlQ : ∀ x0 x1 x2 x3, Sys2Proof.Laws.Encodes.Statement (.vshlQ x0 x1 x2 x3) := by intros; rfl
theorem Sys2Proof.Laws.Encodes.vshrQ : ∀ x0 x1 x2 x3, Sys2Proof.Laws.Encodes.Statement (.vshrQ x0 x1 x2 x3) := by intros; rfl
theorem Sys2Proof.Laws.Encodes.vsraQ : ∀ x0 x1 x2 x3, Sys2Proof.Laws.Encodes.Statement (.vsraQ x0 x1 x2 x3) := by intros; rfl
theorem Sys2Proof.Laws.Encodes.vpopcQ : ∀ x0 x1, Sys2Proof.Laws.Encodes.Statement (.vpopcQ x0 x1) := by intros; rfl
theorem Sys2Proof.Laws.Encodes.vclmulQ : ∀ x0 x1 x2 x3, Sys2Proof.Laws.Encodes.Statement (.vclmulQ x0 x1 x2 x3) := by intros; rfl
theorem Sys2Proof.Laws.Encodes.vcvtQ : ∀ x0 x1 x2 x3, Sys2Proof.Laws.Encodes.Statement (.vcvtQ x0 x1 x2 x3) := by intros; rfl
theorem Sys2Proof.Laws.Encodes.vqntQ : ∀ x0 x1 x2 x3, Sys2Proof.Laws.Encodes.Statement (.vqntQ x0 x1 x2 x3) := by intros; rfl
theorem Sys2Proof.Laws.Encodes.vdqntQ : ∀ x0 x1 x2 x3, Sys2Proof.Laws.Encodes.Statement (.vdqntQ x0 x1 x2 x3) := by intros; rfl
theorem Sys2Proof.Laws.Encodes.vamaxQ : ∀ x0 x1 x2, Sys2Proof.Laws.Encodes.Statement (.vamaxQ x0 x1 x2) := by intros; rfl
theorem Sys2Proof.Laws.Encodes.mma : ∀ x0 x1 x2 x3 x4 x5, Sys2Proof.Laws.Encodes.Statement (.mma x0 x1 x2 x3 x4 x5) := by intros; rfl
theorem Sys2Proof.Laws.Encodes.mma64 : ∀ x0 x1 x2 x3 x4 x5, Sys2Proof.Laws.Encodes.Statement (.mma64 x0 x1 x2 x3 x4 x5) := by intros; rfl
theorem Sys2Proof.Laws.Encodes.mmac : ∀ x0 x1 x2 x3 x4 x5, Sys2Proof.Laws.Encodes.Statement (.mmac x0 x1 x2 x3 x4 x5) := by intros; rfl
theorem Sys2Proof.Laws.Encodes.mmas : ∀ x0 x1 x2 x3 x4 x5 x6, Sys2Proof.Laws.Encodes.Statement (.mmas x0 x1 x2 x3 x4 x5 x6) := by intros; rfl
theorem Sys2Proof.Laws.Encodes.gang : Sys2Proof.Laws.Encodes.Statement .gang := rfl
theorem Sys2Proof.Laws.Encodes.mshp : ∀ x0 x1 x2, Sys2Proof.Laws.Encodes.Statement (.mshp x0 x1 x2) := by intros; rfl
theorem Sys2Proof.Laws.Encodes.mzero : ∀ x0, Sys2Proof.Laws.Encodes.Statement (.mzero x0) := by intros; rfl
theorem Sys2Proof.Laws.Encodes.mlda : ∀ x0 x1, Sys2Proof.Laws.Encodes.Statement (.mlda x0 x1) := by intros; rfl
theorem Sys2Proof.Laws.Encodes.msta : ∀ x0 x1, Sys2Proof.Laws.Encodes.Statement (.msta x0 x1) := by intros; rfl
theorem Sys2Proof.Laws.Encodes.mepi : ∀ x0 x1 x2 x3, Sys2Proof.Laws.Encodes.Statement (.mepi x0 x1 x2 x3) := by intros; rfl
theorem Sys2Proof.Laws.Encodes.mdld : ∀ x0 x1, Sys2Proof.Laws.Encodes.Statement (.mdld x0 x1) := by intros; rfl
theorem Sys2Proof.Laws.Encodes.mfst : ∀ x0 x1 x2, Sys2Proof.Laws.Encodes.Statement (.mfst x0 x1 x2) := by intros; rfl
theorem Sys2Proof.Laws.Encodes.qpset : ∀ x0, Sys2Proof.Laws.Encodes.Statement (.qpset x0) := by intros; rfl
theorem Sys2Proof.Laws.Encodes.qpfac : Sys2Proof.Laws.Encodes.Statement .qpfac := rfl
theorem Sys2Proof.Laws.Encodes.qpiter : Sys2Proof.Laws.Encodes.Statement .qpiter := rfl
theorem Sys2Proof.Laws.Encodes.qpshift : ∀ x0 x1, Sys2Proof.Laws.Encodes.Statement (.qpshift x0 x1) := by intros; rfl
theorem Sys2Proof.Laws.Encodes.qpres : Sys2Proof.Laws.Encodes.Statement .qpres := rfl
theorem Sys2Proof.Laws.Encodes.qpstat : ∀ x0, Sys2Proof.Laws.Encodes.Statement (.qpstat x0) := by intros; rfl
theorem Sys2Proof.Laws.Encodes.fchol : ∀ x0 x1 x2, Sys2Proof.Laws.Encodes.Statement (.fchol x0 x1 x2) := by intros; rfl
theorem Sys2Proof.Laws.Encodes.ftrs : ∀ x0 x1 x2, Sys2Proof.Laws.Encodes.Statement (.ftrs x0 x1 x2) := by intros; rfl
theorem Sys2Proof.Laws.Encodes.trap : ∀ x0 x1, Sys2Proof.Laws.Encodes.Statement (.trap x0 x1) := by intros; rfl
theorem Sys2Proof.Laws.Encodes.bkpt : ∀ x0 x1, Sys2Proof.Laws.Encodes.Statement (.bkpt x0 x1) := by intros; rfl
theorem Sys2Proof.Laws.Encodes.eret : ∀ x0, Sys2Proof.Laws.Encodes.Statement (.eret x0) := by intros; rfl
theorem Sys2Proof.Laws.Encodes.mfc : ∀ x0 x1 x2, Sys2Proof.Laws.Encodes.Statement (.mfc x0 x1 x2) := by intros; rfl
theorem Sys2Proof.Laws.Encodes.mtc : ∀ x0 x1 x2, Sys2Proof.Laws.Encodes.Statement (.mtc x0 x1 x2) := by intros; rfl
theorem Sys2Proof.Laws.Encodes.phint : ∀ x0 x1, Sys2Proof.Laws.Encodes.Statement (.phint x0 x1) := by intros; rfl
theorem Sys2Proof.Laws.Encodes.yield : ∀ x0, Sys2Proof.Laws.Encodes.Statement (.yield x0) := by intros; rfl
theorem Sys2Proof.Laws.Encodes.wfe : ∀ x0, Sys2Proof.Laws.Encodes.Statement (.wfe x0) := by intros; rfl
theorem Sys2Proof.Laws.Encodes.sev : ∀ x0 x1, Sys2Proof.Laws.Encodes.Statement (.sev x0 x1) := by intros; rfl
theorem Sys2Proof.Laws.Encodes.halt : ∀ x0, Sys2Proof.Laws.Encodes.Statement (.halt x0) := by intros; rfl
theorem Sys2Proof.Laws.Encodes.tlbi : ∀ x0 x1 x2 x3, Sys2Proof.Laws.Encodes.Statement (.tlbi x0 x1 x2 x3) := by intros; rfl
theorem Sys2Proof.Laws.Encodes.lease : ∀ x0 x1 x2 x3, Sys2Proof.Laws.Encodes.Statement (.lease x0 x1 x2 x3) := by intros; rfl
theorem Sys2Proof.Laws.Encodes.mcread : ∀ x0 x1 x2, Sys2Proof.Laws.Encodes.Statement (.mcread x0 x1 x2) := by intros; rfl
theorem Sys2Proof.Laws.Encodes.scmark : ∀ x0 x1, Sys2Proof.Laws.Encodes.Statement (.scmark x0 x1) := by intros; rfl
theorem Sys2Proof.Laws.Encodes.clkrd : ∀ x0 x1, Sys2Proof.Laws.Encodes.Statement (.clkrd x0 x1) := by intros; rfl
theorem Sys2Proof.Laws.Encodes.saSliceApply : ∀ x0, Sys2Proof.Laws.Encodes.Statement (.saSliceApply x0) := by intros; rfl
theorem Sys2Proof.Laws.Encodes.saEvictionRetry : ∀ x0, Sys2Proof.Laws.Encodes.Statement (.saEvictionRetry x0) := by intros; rfl
theorem Sys2Proof.Laws.Encodes.gangStart : ∀ x0, Sys2Proof.Laws.Encodes.Statement (.gangStart x0) := by intros; rfl
theorem Sys2Proof.Laws.Encodes.gangResidueCheck : ∀ x0 x1 x2 x3 x4, Sys2Proof.Laws.Encodes.Statement (.gangResidueCheck x0 x1 x2 x3 x4) := by intros; rfl
theorem Sys2Proof.Laws.Encodes.fifoTimeout : ∀ x0, Sys2Proof.Laws.Encodes.Statement (.fifoTimeout x0) := by intros; rfl
theorem Sys2Proof.Laws.Encodes.instructionForward : ∀ x0, Sys2Proof.Laws.Encodes.Statement (.instructionForward x0) := by intros; rfl
theorem Sys2Proof.Laws.Encodes.coldReset : ∀ x0 x1 x2 x3 x4 x5 x6, Sys2Proof.Laws.Encodes.Statement (.coldReset x0 x1 x2 x3 x4 x5 x6) := by intros; rfl
theorem Sys2Proof.Laws.Encodes.attestationReport : ∀ x0, Sys2Proof.Laws.Encodes.Statement (.attestationReport x0) := by intros; rfl
theorem Sys2Proof.Laws.Encodes.checkpoint : ∀ x0, Sys2Proof.Laws.Encodes.Statement (.checkpoint x0) := by intros; rfl
theorem Sys2Proof.Laws.Encodes.checkpointRestore : ∀ x0 x1, Sys2Proof.Laws.Encodes.Statement (.checkpointRestore x0 x1) := by intros; rfl
theorem Sys2Proof.Laws.Encodes.rsig : ∀ x0, Sys2Proof.Laws.Encodes.Statement (.rsig x0) := by intros; rfl
theorem Sys2Proof.Laws.Encodes.lnqctl : ∀ x0 x1, Sys2Proof.Laws.Encodes.Statement (.lnqctl x0 x1) := by intros; rfl
theorem Sys2Proof.Laws.Encodes.lpwr : ∀ x0 x1, Sys2Proof.Laws.Encodes.Statement (.lpwr x0 x1) := by intros; rfl
theorem Sys2Proof.Laws.Encodes.layerPowerDown : ∀ x0 x1, Sys2Proof.Laws.Encodes.Statement (.layerPowerDown x0 x1) := by intros; rfl
theorem Sys2Proof.Laws.Encodes.layerTransitionDone : ∀ x0 x1, Sys2Proof.Laws.Encodes.Statement (.layerTransitionDone x0 x1) := by intros; rfl
theorem Sys2Proof.Laws.Encodes.xstat : ∀ x0, Sys2Proof.Laws.Encodes.Statement (.xstat x0) := by intros; rfl
theorem Sys2Proof.Laws.Encodes.ecnt : ∀ x0, Sys2Proof.Laws.Encodes.Statement (.ecnt x0) := by intros; rfl
theorem Sys2Proof.Laws.Encodes.elog : ∀ x0, Sys2Proof.Laws.Encodes.Statement (.elog x0) := by intros; rfl
theorem Sys2Proof.Laws.Encodes.escr : ∀ x0 x1, Sys2Proof.Laws.Encodes.Statement (.escr x0 x1) := by intros; rfl
theorem Sys2Proof.Laws.Encodes.ctmp : ∀ x0 x1, Sys2Proof.Laws.Encodes.Statement (.ctmp x0 x1) := by intros; rfl
theorem Sys2Proof.Laws.Encodes.afpcfg : ∀ x0 x1, Sys2Proof.Laws.Encodes.Statement (.afpcfg x0 x1) := by intros; rfl
theorem Sys2Proof.Laws.Encodes.afmw : ∀ x0, Sys2Proof.Laws.Encodes.Statement (.afmw x0) := by intros; rfl
theorem Sys2Proof.Laws.Encodes.registerWrite : ∀ x0 x1 x2, Sys2Proof.Laws.Encodes.Statement (.registerWrite x0 x1 x2) := by intros; rfl
theorem Sys2Proof.Laws.Encodes.bankDemote : ∀ x0 x1, Sys2Proof.Laws.Encodes.Statement (.bankDemote x0 x1) := by intros; rfl
theorem Sys2Proof.Laws.Encodes.freezeClear : ∀ x0, Sys2Proof.Laws.Encodes.Statement (.freezeClear x0) := by intros; rfl
theorem Sys2Proof.Laws.Encodes.squareWithhold : ∀ x0, Sys2Proof.Laws.Encodes.Statement (.squareWithhold x0) := by intros; rfl
theorem Sys2Proof.Laws.Encodes.schedulerSelect : ∀ x0, Sys2Proof.Laws.Encodes.Statement (.schedulerSelect x0) := by intros; rfl
theorem Sys2Proof.Laws.Encodes.leaseWalk : ∀ x0, Sys2Proof.Laws.Encodes.Statement (.leaseWalk x0) := by intros; rfl
theorem Sys2Proof.Laws.Encodes.taskBind : ∀ x0 x1, Sys2Proof.Laws.Encodes.Statement (.taskBind x0 x1) := by intros; rfl
theorem Sys2Proof.Laws.Encodes.remoteTensorFill : ∀ x0 x1 x2 x3 x4 x5, Sys2Proof.Laws.Encodes.Statement (.remoteTensorFill x0 x1 x2 x3 x4 x5) := by intros; rfl
theorem Sys2Proof.Laws.Encodes.preemptionRequest : ∀ x0, Sys2Proof.Laws.Encodes.Statement (.preemptionRequest x0) := by intros; rfl
theorem Sys2Proof.Laws.Encodes.preemptionDeadline : ∀ x0, Sys2Proof.Laws.Encodes.Statement (.preemptionDeadline x0) := by intros; rfl
theorem Sys2Proof.Laws.Encodes.loopContextDiscard : ∀ x0, Sys2Proof.Laws.Encodes.Statement (.loopContextDiscard x0) := by intros; rfl
theorem Sys2Proof.Laws.Encodes.coreStop : ∀ x0, Sys2Proof.Laws.Encodes.Statement (.coreStop x0) := by intros; rfl
theorem Sys2Proof.Laws.Encodes.save : ∀ x0, Sys2Proof.Laws.Encodes.Statement (.save x0) := by intros; rfl
theorem Sys2Proof.Laws.Encodes.saveResume : ∀ x0, Sys2Proof.Laws.Encodes.Statement (.saveResume x0) := by intros; rfl
theorem Sys2Proof.Laws.Encodes.restore : ∀ x0 x1, Sys2Proof.Laws.Encodes.Statement (.restore x0 x1) := by intros; rfl
theorem Sys2Proof.Laws.Encodes.refusalRetry : ∀ x0 x1, Sys2Proof.Laws.Encodes.Statement (.refusalRetry x0 x1) := by intros; rfl
theorem Sys2Proof.Laws.Encodes.sliceFillDone : ∀ x0 x1, Sys2Proof.Laws.Encodes.Statement (.sliceFillDone x0 x1) := by intros; rfl
theorem Sys2Proof.Laws.Encodes.writeBackDone : ∀ x0, Sys2Proof.Laws.Encodes.Statement (.writeBackDone x0) := by intros; rfl
theorem Sys2Proof.Laws.Encodes.rehome : ∀ x0 x1, Sys2Proof.Laws.Encodes.Statement (.rehome x0 x1) := by intros; rfl
theorem Sys2Proof.Laws.Encodes.scrub : ∀ x0 x1 x2 x3 x4, Sys2Proof.Laws.Encodes.Statement (.scrub x0 x1 x2 x3 x4) := by intros; rfl
theorem Sys2Proof.Laws.Encodes.errorWindowStart : ∀ x0 x1 x2, Sys2Proof.Laws.Encodes.Statement (.errorWindowStart x0 x1 x2) := by intros; rfl
theorem Sys2Proof.Laws.Encodes.bankPromotionStart : ∀ x0 x1, Sys2Proof.Laws.Encodes.Statement (.bankPromotionStart x0 x1) := by intros; rfl
theorem Sys2Proof.Laws.Encodes.busRepair : ∀ x0 x1, Sys2Proof.Laws.Encodes.Statement (.busRepair x0 x1) := by intros; rfl
theorem Sys2Proof.Laws.Encodes.busRetrainDone : ∀ x0 x1 x2, Sys2Proof.Laws.Encodes.Statement (.busRetrainDone x0 x1 x2) := by intros; rfl
theorem Sys2Proof.Laws.Encodes.tlbFill : ∀ x0 x1 x2 x3, Sys2Proof.Laws.Encodes.Statement (.tlbFill x0 x1 x2 x3) := by intros; rfl
theorem Sys2Proof.Laws.Encodes.invalidationRequest : ∀ x0 x1, Sys2Proof.Laws.Encodes.Statement (.invalidationRequest x0 x1) := by intros; rfl
theorem Sys2Proof.Laws.Encodes.invalidationAck : ∀ x0 x1, Sys2Proof.Laws.Encodes.Statement (.invalidationAck x0 x1) := by intros; rfl
theorem Sys2Proof.Laws.Encodes.revocationRequest : ∀ x0 x1, Sys2Proof.Laws.Encodes.Statement (.revocationRequest x0 x1) := by intros; rfl
theorem Sys2Proof.Laws.Encodes.engineCommandPerform : ∀ x0 x1, Sys2Proof.Laws.Encodes.Statement (.engineCommandPerform x0 x1) := by intros; rfl
theorem Sys2Proof.Laws.Encodes.exchangeEntryPerform : ∀ x0 x1, Sys2Proof.Laws.Encodes.Statement (.exchangeEntryPerform x0 x1) := by intros; rfl
theorem Sys2Proof.Laws.Encodes.barrierComplete : ∀ x0 x1 x2, Sys2Proof.Laws.Encodes.Statement (.barrierComplete x0 x1 x2) := by intros; rfl
theorem Sys2Proof.Laws.Encodes.tempoAccrue : Sys2Proof.Laws.Encodes.Statement .tempoAccrue := rfl
theorem Sys2Proof.Laws.Encodes.thermalSample : ∀ x0 x1 x2, Sys2Proof.Laws.Encodes.Statement (.thermalSample x0 x1 x2) := by intros; rfl
theorem Sys2Proof.Laws.Encodes.probeOriginate : ∀ x0 x1, Sys2Proof.Laws.Encodes.Statement (.probeOriginate x0 x1) := by intros; rfl
theorem Sys2Proof.Laws.Encodes.probeArrive : ∀ x0 x1, Sys2Proof.Laws.Encodes.Statement (.probeArrive x0 x1) := by intros; rfl
theorem Sys2Proof.Laws.Encodes.queueDeadlock : ∀ x0 x1, Sys2Proof.Laws.Encodes.Statement (.queueDeadlock x0 x1) := by intros; rfl
theorem Sys2Proof.Laws.Encodes.routerForward : ∀ x0, Sys2Proof.Laws.Encodes.Statement (.routerForward x0) := by intros; rfl
theorem Sys2Proof.Laws.Encodes.messageDelivery : ∀ x0, Sys2Proof.Laws.Encodes.Statement (.messageDelivery x0) := by intros; rfl
theorem Sys2Proof.Laws.Encodes.slotReturn : ∀ x0, Sys2Proof.Laws.Encodes.Statement (.slotReturn x0) := by intros; rfl
theorem Sys2Proof.Laws.Encodes.reductionCombine : ∀ x0 x1, Sys2Proof.Laws.Encodes.Statement (.reductionCombine x0 x1) := by intros; rfl
theorem Sys2Proof.Laws.Encodes.redwaitTimeout : ∀ x0, Sys2Proof.Laws.Encodes.Statement (.redwaitTimeout x0) := by intros; rfl
theorem Sys2Proof.Laws.Encodes.flushArrive : ∀ x0 x1, Sys2Proof.Laws.Encodes.Statement (.flushArrive x0 x1) := by intros; rfl
theorem Sys2Proof.Laws.Encodes.slotStart : ∀ x0, Sys2Proof.Laws.Encodes.Statement (.slotStart x0) := by intros; rfl
theorem Sys2Proof.Laws.Encodes.clockDiscipline : ∀ x0 x1 x2, Sys2Proof.Laws.Encodes.Statement (.clockDiscipline x0 x1 x2) := by intros; rfl
theorem Sys2Proof.Laws.Encodes.ptpSync : ∀ x0 x1, Sys2Proof.Laws.Encodes.Statement (.ptpSync x0 x1) := by intros; rfl
theorem Sys2Proof.Laws.Encodes.matchingWindow : ∀ x0, Sys2Proof.Laws.Encodes.Statement (.matchingWindow x0) := by intros; rfl
theorem Sys2Proof.Laws.Encodes.circuitLit : ∀ x0, Sys2Proof.Laws.Encodes.Statement (.circuitLit x0) := by intros; rfl
theorem Sys2Proof.Laws.Encodes.tokenArrive : ∀ x0 x1 x2, Sys2Proof.Laws.Encodes.Statement (.tokenArrive x0 x1 x2) := by intros; rfl
theorem Sys2Proof.Laws.Encodes.tokenLoss : ∀ x0, Sys2Proof.Laws.Encodes.Statement (.tokenLoss x0) := by intros; rfl
theorem Sys2Proof.Laws.Encodes.frameReceive : ∀ x0 x1 x2 x3, Sys2Proof.Laws.Encodes.Statement (.frameReceive x0 x1 x2 x3) := by intros; rfl
theorem Sys2Proof.Laws.Encodes.frameAck : ∀ x0 x1, Sys2Proof.Laws.Encodes.Statement (.frameAck x0 x1) := by intros; rfl
theorem Sys2Proof.Laws.Encodes.replayTimeout : ∀ x0, Sys2Proof.Laws.Encodes.Statement (.replayTimeout x0) := by intros; rfl
theorem Sys2Proof.Laws.Encodes.watchdogReset : ∀ x0, Sys2Proof.Laws.Encodes.Statement (.watchdogReset x0) := by intros; rfl
theorem Sys2Proof.Laws.Encodes.remoteAccess : ∀ x0 x1 x2 x3 x4 x5, Sys2Proof.Laws.Encodes.Statement (.remoteAccess x0 x1 x2 x3 x4 x5) := by intros; rfl
theorem Sys2Proof.Laws.Encodes.remoteRejection : ∀ x0 x1, Sys2Proof.Laws.Encodes.Statement (.remoteRejection x0 x1) := by intros; rfl
theorem Sys2Proof.Laws.Encodes.hostAccess : ∀ x0 x1 x2 x3, Sys2Proof.Laws.Encodes.Statement (.hostAccess x0 x1 x2 x3) := by intros; rfl
theorem Sys2Proof.Laws.Encodes.doubledHashCompare : ∀ x0 x1, Sys2Proof.Laws.Encodes.Statement (.doubledHashCompare x0 x1) := by intros; rfl
theorem Sys2Proof.Laws.Encodes.doubledHashTimeout : ∀ x0, Sys2Proof.Laws.Encodes.Statement (.doubledHashTimeout x0) := by intros; rfl
theorem Sys2Proof.Laws.Encodes.replayForceTimeout : ∀ x0 x1, Sys2Proof.Laws.Encodes.Statement (.replayForceTimeout x0 x1) := by intros; rfl
theorem Sys2Proof.Laws.Encodes.homeSliceRequest : ∀ x0 x1 x2, Sys2Proof.Laws.Encodes.Statement (.homeSliceRequest x0 x1 x2) := by intros; rfl
theorem Sys2Proof.Laws.Encodes.accessResponse : ∀ x0 x1 x2, Sys2Proof.Laws.Encodes.Statement (.accessResponse x0 x1 x2) := by intros; rfl
theorem Sys2Proof.Laws.Encodes.laneGroupArbitration : ∀ x0, Sys2Proof.Laws.Encodes.Statement (.laneGroupArbitration x0) := by intros; rfl
theorem Sys2Proof.Laws.Encodes.torusLinkFailure : ∀ x0 x1 x2, Sys2Proof.Laws.Encodes.Statement (.torusLinkFailure x0 x1 x2) := by intros; rfl
end

