-- ==== Sys2Proof/Tests/Slice0.lean ====
section
/-! SUPPORT. Tests: words of the spec's encodings decode, ill-formed terms are refused, small steps give the spec's
results, and for every statement with hypotheses a concrete state and operands that meet them. -/

namespace Sys2Proof.Tests

open Sys2Proof Sys2Proof.Machine

-- one theorem at a time: each thread that waits for the kernel holds a stack of its own
set_option Elab.async false

/-! ## States -/

/-- Core 0 in the task of a fresh launch, with word `w` at its program counter. -/
def demo (w : Nat) : State := State.reset.withFetchWord 32 w

/-- `demo` with scalar registers. -/
def regs (rs : List (R5 × Dword)) : State :=
  (demo 0).modMe (fun k => rs.foldl (fun k e => k.setX e.1 e.2 false Taint.clean) k)

/-- `s` with core 0 at level `n`. -/
def atLevel (n : Fin 3) (s : State) : State := s.modMe (fun k => { k with level := n })

/-- `s` with register `r` poisoned. -/
def poisoned (r : R5) (s : State) : State := s.modMe (fun k => k.setX r 0 true Taint.clean)

/-- `s` with a trap handler at 0x20000. -/
def handled (s : State) : State := s.modContext 1 (fun c => { c with written := Map.put c.written 0x48 0x20000 })

/-- `s` with bits added to the launch record. -/
def record (extra : Nat) (s : State) : State :=
  s.modLaunch 0 (fun l => { l with record := l.record + BitVec.ofNat 2048 extra })

/-- Level 0 of the launch has BARR = 1: its tasks run supersteps. -/
def stepped (s : State) : State := record (2 ^ 263) s

def inPhase (p : Phase) (s : State) : State := s.modLaunch 0 (fun l => l.modTask 0 (fun t => { t with phase := p }))

def entry (v : Row) : QEntry := { serial := 0, data := v, pois := false, taint := Taint.clean, filled := true }

/-- `s` with entries in queue `q` of core 0. -/
def queued (q : Nat) (es : List QEntry) (s : State) : State := s.modMe (fun k => k.setQueue q es)

/-! ## Ways to meet a hypothesis -/

def isNext : Host.Outcome State Fault Refusal → Bool
  | .next _ => true
  | _ => false

theorem ex_next {r : Host.Outcome State Fault Refusal} (h : isNext r = true) : ∃ t, r = .next t := by
  cases r <;> simp_all [isNext]

def isOk {α : Type} : Checked α → Bool
  | .ok _ => true
  | _ => false

theorem ex_ok {α : Type} {c : Checked α} (h : isOk c = true) : ∃ x, c = .ok x := by
  cases c <;> simp_all [isOk]

theorem ok_unit {c : Checked Unit} (h : isOk c = true) : c = .ok () := by
  cases c <;> simp_all [isOk]

theorem no_fault {α : Type} {c : Checked α} (h : isOk c = true) : ∀ f, c ≠ .fault f := by
  cases c <;> simp_all [isOk]

theorem for_launch {s : State} {c : Nat} {p : Nat → Nat → Launch → Bool}
    (h : (match s.launchOf c with | some (i, u, l) => p i u l | none => true) = true) :
    ∀ id u l, s.launchOf c = some (id, u, l) → p id u l = true := by
  intro id u l e; rw [e] at h; exact h

theorem ex_launch {s : State} {c : Nat} {p : Nat → Nat → Launch → Bool}
    (h : (match s.launchOf c with | some (i, u, l) => p i u l | none => false) = true) :
    ∃ id u l, s.launchOf c = some (id, u, l) ∧ p id u l = true := by
  split at h
  · rename_i i u l e; exact ⟨i, u, l, e, h⟩
  · cases h

theorem clear_of {k : Core} {rs : List R5}
    (h : (rs.all (fun r => !k.sideOf r) && (k.taints (rs.map BitVec.toNat)).isEmpty) = true) : k.Clear rs := by
  simp only [Bool.and_eq_true, List.all_eq_true, Bool.not_eq_true'] at h
  exact h

theorem ex_ok' {α : Type} {c : Checked α} {p : α → Bool} (h : (match c with | .ok x => p x | _ => false) = true) :
    ∃ x, c = .ok x ∧ p x = true := by
  cases c
  · exact ⟨_, rfl, h⟩
  · cases h
  · cases h

theorem ex_some' {α : Type} {c : Option α} {p : α → Bool} (h : (match c with | some x => p x | none => false) = true) :
    ∃ x, c = some x ∧ p x = true := by
  cases c
  · cases h
  · exact ⟨_, rfl, h⟩

theorem decode_eq {w : Word} {i : Instr} (h : (match decode w with | .ok j => j == i | .error _ => false) = true) :
    decode w = .ok i := by
  split at h
  · rename_i j e; rw [e, eq_of_beq h]
  · cases h

theorem bytes_eq {bs : List Byte} {i : Instr}
    (h : (match decodeBytes bs with | .ok j => j == (i, []) | .error _ => false) = true) : decodeBytes bs = .ok (i, []) := by
  split at h
  · rename_i j e; rw [e, eq_of_beq h]
  · cases h


/-- A concrete state with its core's choices unrecorded, no load performed early, and a slot for a load. -/
def State.plain (s : State) : Bool :=
  (match s.launchOf s.cur with | some (_, _, l) => l.scr == 0 && !l.dbl | none => true) && s.me.early.isEmpty &&
    s.me.freeSlotNo == some 0

theorem plain_meets {s : State} (h : State.plain s = true) :
    s.Unlogged ∧ s.Single ∧ s.me.early = [] ∧ s.me.freeSlotNo = some 0 := by
  simp only [State.plain, Bool.and_eq_true] at h
  obtain ⟨⟨h1, h2⟩, h3⟩ := h
  refine ⟨?_, ?_, List.isEmpty_iff.mp h2, eq_of_beq h3⟩ <;> intro i u l e <;> rw [e] at h1 <;> simp_all
/-! ## Decoding: one word of every row of the opcode table, its fields written out from bit 31 down -/

/-- The words decode to the instructions, and each instruction is encoded as its word. -/
noncomputable def reads (es : List (Word × Instr)) : Bool :=
  es.all (fun e => (match decode e.1 with | .ok i => i == e.2 | .error _ => false) && encode e.2 == some e.1)

theorem test_decode_00 : reads [
    (0b0_000001_010010001110011_0000000000, .trap 0 0x2473),
    (0b1_000001_010010010010110_0000000001, .bkpt 1 0x2496),
    (0b0_000001_0000000000000000000000010, .eret 0),
    (0b1_000001_11100_00000_1110011101_00011, .mfc 1 0x1c 0x39d),
    (0b0_000001_00000_11111_1111001110_00100, .mtc 0 0x1f 0x3ce),
    (0b1_000001_00000_00010_000000000000101, .phint 1 2),
    (0b0_000001_0000000000000000000000110, .yield 0),
    (0b1_000001_0000000000000000000000111, .wfe 1),
    (0b0_000001_00000_01011_000000000001000, .sev 0 0xb),
    (0b1_000001_0000000000000000000001001, .halt 1),
    (0b0_000001_10001_10100_10111_0000001010, .tlbi 0 0x11 0x14 0x17),
    (0b1_000001_10100_00101_10110_0000001011, .lease 1 0x14 5 0x16),
    (0b0_000001_10111_10110_000000000001100, .mcread 0 0x17 0x16),
    (0b1_000001_00000_11010_000000000001101, .scmark 1 0x1a),
    (0b0_000001_11101_00000000000000001110, .clkrd 0 0x1d)] = true := by decide +kernel

theorem test_decode_01 : reads [
    (0b0_000010_10101_00000_01011_10_00000000, .add 0 0x15 0 0xb 2),
    (0b1_000010_11000_10001_01010_11_00000001, .sub 1 0x18 0x11 0xa 3),
    (0b0_000010_11011_00010_01001_00_00000010, .and 0 0x1b 2 9 0),
    (0b1_000010_11110_10011_01000_01_00000011, .or 1 0x1e 0x13 8 1),
    (0b0_000010_00001_00100_00111_10_00000100, .xor 0 1 4 7 2),
    (0b1_000010_00100_10101_00110_11_00000101, .andn 1 4 0x15 6 3),
    (0b0_000010_00111_00110_00101_00_00000110, .sll 0 7 6 5 0),
    (0b1_000010_01010_10111_00100_01_00000111, .srl 1 0xa 0x17 4 1),
    (0b0_000010_01101_01000_00011_10_00001000, .sra 0 0xd 8 3 2),
    (0b1_000010_10000_11001_00010_11_00001001, .rol 1 0x10 0x19 2 3),
    (0b0_000010_10011_01010_00001_00_00001010, .ror 0 0x13 0xa 1 0),
    (0b1_000010_10110_11011_00000_01_00001011, .slt 1 0x16 0x1b 0 1),
    (0b0_000010_11001_01100_11111_10_00001100, .sltu 0 0x19 0xc 0x1f 2),
    (0b1_000010_11100_11101_11110_11_00001101, .seq 1 0x1c 0x1d 0x1e 3),
    (0b0_000010_11111_01110_11101_00_00001110, .min 0 0x1f 0xe 0x1d 0),
    (0b1_000010_00010_11111_11100_01_00001111, .max 1 2 0x1f 0x1c 1),
    (0b0_000010_00101_10000_11011_10_00010000, .minu 0 5 0x10 0x1b 2),
    (0b1_000010_01000_00001_11010_11_00010001, .maxu 1 8 1 0x1a 3)] = true := by decide +kernel

theorem test_decode_02 : reads [
    (0b0_000011_01011_10010_11001_00_00000000, .mul 0 0xb 0x12 0x19 0),
    (0b1_000011_01110_00011_11000_01_00000001, .mulh 1 0xe 3 0x18 1),
    (0b0_000011_10001_10100_10111_10_00000010, .mulhu 0 0x11 0x14 0x17 2),
    (0b1_000011_10100_00101_10110_11_00000011, .madd 1 0x14 5 0x16 3),
    (0b0_000011_10111_10110_10101_00_00000100, .div 0 0x17 0x16 0x15 0),
    (0b1_000011_11010_00111_10100_01_00000101, .divu 1 0x1a 7 0x14 1),
    (0b0_000011_11101_11000_10011_10_00000110, .rem 0 0x1d 0x18 0x13 2),
    (0b1_000011_00000_01001_10010_11_00000111, .remu 1 0 9 0x12 3),
    (0b0_000011_00011_11010_00000_01_00001000, .clz 0 3 0x1a 1),
    (0b1_000011_00110_01011_00000_00_00001001, .ctz 1 6 0xb 0),
    (0b0_000011_01001_11100_00000_11_00001010, .popc 0 9 0x1c 3),
    (0b1_000011_01100_01101_00000_10_00001011, .brev 1 0xc 0xd 2),
    (0b0_000011_01111_11110_00000_01_00001100, .bswap 0 0xf 0x1e 1),
    (0b1_000100_10010_01111_000011111001100, .addi 1 0x12 0xf 0x7cc)] = true := by decide +kernel

theorem test_decode_03 : reads [
    (0b0_000101_10101_00000_000100000001011, .andi 0 0x15 0 0x80b),
    (0b1_000110_11000_10001_000100001001010, .ori 1 0x18 0x11 0x84a),
    (0b0_000111_11011_00010_000100010001001, .xori 0 0x1b 2 0x889),
    (0b1_001000_11110_10011_0000000_00_111101, .slli 1 0x1e 0x13 0 0x3d),
    (0b0_001000_00001_00100_0010000_11_001010, .srli 0 1 4 3 0xa),
    (0b1_001000_00100_10101_0100000_10_010111, .srai 1 4 0x15 2 0x17),
    (0b0_001000_00111_00110_0110000_01_100100, .roli 0 7 6 1 0x24),
    (0b1_001001_01010_10111_0_00100111000100, .slti 1 0xa 0x17 0x9c4),
    (0b0_001001_01101_01000_1_00101000000011, .sltiu 0 0xd 8 0xa03),
    (0b1_001010_10000_00000000011111111001, .lim 1 0x10 0x7f9),
    (0b0_001011_10011_00000000100000101010, .addpc 0 0x13 0x82a)] = true := by decide +kernel

theorem test_decode_04 : reads [
    (0b1_001100_10110_11011_00000_101_10_00000, .fadd 1 0x16 0x1b 0 5 2),
    (0b0_001100_11001_01100_11111_010_01_00001, .fsub 0 0x19 0xc 0x1f 2 1),
    (0b1_001100_11100_11101_11110_111_00_00010, .fmul 1 0x1c 0x1d 0x1e 7 0),
    (0b0_001100_11111_01110_11101_100_11_00011, .fma 0 0x1f 0xe 0x1d 4 3),
    (0b1_001100_00010_11111_11100_001_10_00100, .fdiv 1 2 0x1f 0x1c 1 2),
    (0b0_001100_00101_10000_00000_011_10_00101, .fsqrt 0 5 0x10 3 2),
    (0b1_001100_01000_00001_11010_000_11_00110, .fmin 1 8 1 0x1a 3),
    (0b0_001100_01011_10010_11001_000_00_00111, .fmax 0 0xb 0x12 0x19 0),
    (0b1_001100_01110_00011_11000_101_10_01000, .fcmp 1 0xe 3 0x18 5 2),
    (0b0_001100_10001_10100_1_1010_101_00_01001, .fcvt 0 0x11 0x14 1 0xa 5 0),
    (0b1_001100_10100_00101_00000000_10_01010, .fclass 1 0x14 5 2),
    (0b0_001100_10111_10110_00000000_01_01011, .fmv 0 0x17 0x16 1)] = true := by decide +kernel

theorem test_decode_05 : reads [
    (0b1_001101_11010_00111_10100_0000000000, .clmul 1 0x1a 7 0x14),
    (0b0_001101_11101_11000_10011_0010000000, .clmulh 0 0x1d 0x18 0x13),
    (0b1_001101_00000_01001_10010_010_1_000000, .extr 1 0 9 0x12 1),
    (0b0_001101_00011_11010_10001_0110000000, .ins 0 3 0x1a 0x11),
    (0b1_001101_00110_01011_10000_10000_10101, .sel 1 6 0xb 0x10 0x15),
    (0b0_010000_01001_11100_000111011101111, .beq 0 9 0x1c 0xeef),
    (0b1_010001_01100_01101_000111100101110, .bne 1 0xc 0xd 0xf2e),
    (0b0_010010_01111_11110_000111101101101, .blt 0 0xf 0x1e 0xf6d),
    (0b1_010011_10010_01111_000111110101100, .bge 1 0x12 0xf 0xfac),
    (0b0_010100_10101_00000_000111111101011, .bltu 0 0x15 0 0xfeb),
    (0b1_010101_11000_10001_001000000101010, .bgeu 1 0x18 0x11 0x102a),
    (0b0_010110_11011_00000000110011000010, .jal 0 0x1b 0xcc2),
    (0b1_010111_11110_10011_001000010101000, .jalr 1 0x1e 0x13 0x10a8)] = true := by decide +kernel

theorem test_decode_06 : reads [
    (0b0_011000_0_00001_0100100100_000000000, .loop 0 1 0x124),
    (0b0_011000_1_0011_0100_100000_0101010101, .rpt 3 4 0x155),
    (0b0_011000_1_1000_0111_0_00110_0000000000, .rptRegisterCount 8 7 6),
    (0b1_011001_101_010_111_00_1_0000000000000, .mod 5 2 7 0 1),
    (0b1_011010_10010_01101_00_1000111100011, .ldl 0x12 0xd 0 0x11e3),
    (0b1_011011_00111_10000_01_1001000100010, .stl 7 0x10 1 0x1222),
    (0b1_011100_11100_10011_10_1001001100001, .ld 0x1c 0x13 2 0x1261),
    (0b1_011101_10001_10110_11_1001010100000, .st 0x11 0x16 3 0x12a0),
    (0b1_011110_00110_000000000000000_1_00_00, .lqr 6 1 0),
    (0b1_011110_11011_11100_0000000001_1_10_11, .lqg 0x1b 0x1c 1 2 3),
    (0b1_011111_10000_000000000000000_1_0_0_00, .sqw 0x10 1 0),
    (0b1_011111_00101_00010_0000000001_1_0_0_01, .sqs 5 2 1 0 1)] = true := by decide +kernel

theorem test_decode_07 : reads [
    (0b1_100000_11010_00101_10000_1_1_00000000, .amoadd 0x1a 5 0x10 1),
    (0b1_100000_01111_01000_00001_1_0_00010000, .amoand 0xf 8 1 0),
    (0b1_100000_00100_01011_10010_1_1_00100000, .amoor 4 0xb 0x12 1),
    (0b1_100000_11001_01110_00011_1_0_00110000, .amoxor 0x19 0xe 3 0),
    (0b1_100000_01110_10001_10100_1_1_01000000, .amomin 0xe 0x11 0x14 1),
    (0b1_100000_00011_10100_00101_1_0_01010000, .amomax 3 0x14 5 0),
    (0b1_100000_11000_10111_10110_1_1_01100000, .amominu 0x18 0x17 0x16 1),
    (0b1_100000_01101_11010_00111_1_0_01110000, .amomaxu 0xd 0x1a 7 0),
    (0b1_100000_00010_11101_11000_1_1_10000000, .amoswp 2 0x1d 0x18 1),
    (0b1_100000_10111_00000_01001_1_0_10010000, .amocas 0x17 0 9 0),
    (0b1_100000_01100_00011_11010_1_1_10100000, .amofadd 0xc 3 0x1a 1)] = true := by decide +kernel

theorem test_decode_08 : reads [
    (0b1_100001_0000000000000000000_001_000, .fence 1),
    (0b1_100001_0000000000000000000_110_001, .acq 6),
    (0b1_100001_0000000000000000000_011_010, .rel 3),
    (0b1_100001_00000_0000000000000_1_000011, .tclr 0 1),
    (0b1_100001_10101_10010_00000000_1_000100, .tmrg 0x15 0x12 1),
    (0b1_100001_01010_10101_00000000_0_000101, .tqry 0xa 0x15 0),
    (0b1_100010_11111_11000_10001_00000_0_1_000, .qenq 0x1f 0x18 0x11 0 1),
    (0b1_100010_10100_11011_00010_0000_01_0_001, .qdeq 0x14 0x1b 2 1 0),
    (0b1_100010_00000_01001_000000000000010, .qwait 9),
    (0b1_100010_11110_00001_000000000000011, .qstat 0x1e 1),
    (0b1_100010_00000_10011_000000000000100, .qinit 0x13),
    (0b1_100011_00000_01000_000000000_0111_00, .chsend 8 7),
    (0b1_100011_11101_00000000000000_1010_01, .chrecv 0x1d 0xa),
    (0b1_100011_10010_00000000000000_1101_10, .chpoll 0x12 0xd)] = true := by decide +kernel

theorem test_decode_09 : reads [
    (0b0_100100_0100111_00_11001_0_1_10100_0000, .saadd 0x27 0 0x19 0 1 0x14),
    (0b0_100100_000_0_1_10_01_11000_1_0_00110_0001, .sanrm 0 1 2 1 0x18 1 6),
    (0b0_100100_0000000_01_10110_1_0000000010, .saclr 1 0x16 1),
    (0b0_100100_00000_0_1_00_11111_0_0000000011, .safence 0 1 0 0x1f 0),
    (0b0_100100_00000_11_00_11101_0_0000000100, .saevict 3 0 0x1d 0),
    (0b0_100100_0000000_00_11111_0_0000000101, .saload 0 0x1f 0),
    (0b0_100100_0000000_01_00010_1_0_11100_0110, .sagain 1 2 1 0x1c),
    (0b0_100100_00_11010_01_10000_1_0000000111, .sasq 0x1a 1 0x10 1),
    (0b1_100101_01111_00000_01000_001_0000000, .lmzero 0xf 8 1),
    (0b1_100101_00100_01011_10010_001_0000001, .lmcopy 4 0xb 0x12 1),
    (0b1_100101_11001_01110_00011_000_0000010, .lmcmp 0x19 0xe 3 0),
    (0b1_100101_0000000000000000000000011, .lmfence)] = true := by decide +kernel

theorem test_decode_10 : reads [
    (0b1_100110_00011_10100_00101_110_0000000, .mcrd 3 0x14 5 6),
    (0b1_100110_11000_10111_00000_110_001_01_00, .redsend 0x18 0x17 6 1 0),
    (0b1_100110_01101_11010_00000000010_11_00, .redwait 0xd 0x1a 3),
    (0b1_100110_00010_11101_11000_011_011_1110, .xsend 2 0x1d 0x18 3 0xe),
    (0b1_100110_10111_0000000000000100_0000, .xrecv 0x17 0),
    (0b1_100111_0000000000000000000000_100, .bar 4),
    (0b1_100111_0000000000000010000000000, .barDomain),
    (0b1_100111_0000000000000000000001000, .sstep),
    (0b1_100111_00000_01011_00000_100_0010_101, .tlwait 0xb 4 5),
    (0b1_100111_00000_000000000000000110_11, .feset 0 3),
    (0b1_100111_10101_000000000000001000_10, .feclr 0x15 2),
    (0b1_100111_0000000000000_0_1_00001010_00, .fewait 0 1 0),
    (0b1_100111_11111_0000000000_000_0110000, .tladv 0x1f 0)] = true := by decide +kernel

theorem test_decode_11 : reads [
    (0b1_101000_10100_11011_00010_001_000_00_11, .cpy 0x14 0x1b 2 1 0 3),
    (0b1_101000_01001_11110_0011_0_000_001_01_10, .cpy2d 9 0x1e 3 0 1 2),
    (0b1_101000_11110_00001_00100_111_01000_10, .cpyga 0x1e 1 4 7 2),
    (0b1_101000_10011_00100_10101_110_01100_11, .cpysc 0x13 4 0x15 6 3),
    (0b1_101000_000_00_00111_00110_101_1000_0_11, .cpyfi 0 7 6 5 0 3),
    (0b1_101000_11101_01010_10111_100_1010_1_10, .cpycv 0x1d 0xa 0x17 4 1 2),
    (0b1_101000_00000_10010_01101_00011000_00, .pref 0x12 0xd 0),
    (0b1_101001_00111_10000_11001_0000000000, .launch 7 0x10 0x19),
    (0b1_101010_11100_10011_00000_10_00000000, .ldloc 0x1c 0x13 2),
    (0b1_101010_10001_10110_00000_11_10000000, .stloc 0x11 0x16 3),
    (0b1_101011_00110_11001_000001100000000, .ldctl 6 0x19),
    (0b1_101011_11011_11100_000001110000000, .stctl 0x1b 0x1c),
    (0b1_101100_10000_11111_01110_01_0_0_000000, .ldvir 0x10 0x1f 0xe 1 0),
    (0b1_101100_00101_00010_11111_00_1_1_000000, .stvir 5 2 0x1f 0 1)] = true := by decide +kernel

theorem test_decode_12 : reads [
    (0b1_101101_11010_00101_00000_00_00000000, .ldphy 0x1a 5 0),
    (0b1_101101_01111_01000_00000_01_10000000, .stphy 0xf 8 1),
    (0b1_101110_00100_01011_10010_01_00000000, .ldrem 4 0xb 0x12 1),
    (0b1_101110_11001_01110_00011_00_10000000, .strem 0x19 0xe 3 0),
    (0b1_101111_01110_10001_00000_00_00000000, .ldhst 0xe 0x11 0),
    (0b1_101111_00011_10100_00000_01_10000000, .sthst 3 0x14 1)] = true := by decide +kernel

theorem test_decode_13 : reads [
    (0b0_110000_1011000_0010111_1010110_0000, .vadd 0x58 0x17 0x56),
    (0b0_110000_1101101_0111010_0000111_0001, .vsub 0x6d 0x3a 7),
    (0b0_110000_0000010_1011101_0111000_0010, .vmul 2 0x5d 0x38),
    (0b0_110000_0010111_0000000_1101001_0011, .vfma 0x17 0 0x69),
    (0b0_110000_0101100_0100011_0011010_0100, .vfms 0x2c 0x23 0x1a),
    (0b0_110000_1000001_1000110_1001011_0101, .vfnma 0x41 0x46 0x4b),
    (0b0_110000_1010110_1101001_1111100_0110, .vmin 0x56 0x69 0x7c),
    (0b0_110000_1101011_0001100_0101101_0111, .vmax 0x6b 0xc 0x2d),
    (0b0_110000_0000000_0101111_00000001000, .vabs 0 0x2f),
    (0b0_110000_0010101_1010010_00000001001, .vneg 0x15 0x52),
    (0b0_110000_0101010_1110101_1000000_1010, .vcps 0x2a 0x75 0x40)] = true := by decide +kernel

theorem test_decode_14 : reads [
    (0b0_110001_0111111_0011000_1110001_0000, .vdiv 0x3f 0x18 0x71),
    (0b0_110001_1010100_0111011_00000000001, .vsqrt 0x54 0x3b),
    (0b0_110001_1101001_1011110_00000000010, .vrsq 0x69 0x5e),
    (0b0_110001_1111110_0000001_00000000011, .vrcp 0x7e 1),
    (0b0_110001_0010011_0100100_00000000100, .vexp2 0x13 0x24),
    (0b0_110001_0101000_1000111_00000000101, .vlog2 0x28 0x47),
    (0b0_110001_0111101_1101010_00000000110, .vtanh 0x3d 0x6a),
    (0b0_110001_1010010_0001101_00000000111, .vsig 0x52 0xd)] = true := by decide +kernel

theorem test_decode_15 : reads [
    (0b0_110010_1100111_0110000_1111001_0000, .viadd 0x67 0x30 0x79),
    (0b0_110010_1111100_1010011_0101010_0001, .visub 0x7c 0x53 0x2a),
    (0b0_110010_0010001_1110110_1011011_0010, .vimul 0x11 0x76 0x5b),
    (0b0_110010_0100110_0011001_0001100_1_011, .vimulh 0x26 0x19 0xc 1),
    (0b0_110010_0111011_0111100_0111101_0_100, .vimin 0x3b 0x3c 0x3d 0),
    (0b0_110010_1010000_1011111_1101110_1_101, .vimax 0x50 0x5f 0x6e 1),
    (0b0_110010_1100101_0000010_00000000110, .viabs 0x65 2)] = true := by decide +kernel

theorem test_decode_16 : reads [
    (0b0_110011_1111010_0100101_1010000_0000, .vand 0x7a 0x25 0x50),
    (0b0_110011_0001111_1001000_0000001_0001, .vor 0xf 0x48 1),
    (0b0_110011_0100100_1101011_0110010_0010, .vxor 0x24 0x6b 0x32),
    (0b0_110011_0111001_0001110_1100011_0011, .vandn 0x39 0xe 0x63),
    (0b0_110011_1001110_0110001_0010100_0100, .vshl 0x4e 0x31 0x14),
    (0b0_110011_1100011_1010100_1000101_0101, .vshr 0x63 0x54 0x45),
    (0b0_110011_1111000_1110111_1110110_0110, .vsra 0x78 0x77 0x76),
    (0b0_110011_0001101_0011010_00000000111, .vpopc 0xd 0x1a),
    (0b0_110011_0100010_0111101_1011000_1000, .vclmul 0x22 0x3d 0x58)] = true := by decide +kernel

theorem test_decode_17 : reads [
    (0b0_110100_0110111_1100000_0001001_0000, .vcmpF32Eq 0x37 0x60 9),
    (0b0_110100_1001100_0000011_0111010_0001, .vcmpF32Lt 0x4c 3 0x3a),
    (0b0_110100_1100001_0100110_1101011_0010, .vcmpF32Le 0x61 0x26 0x6b),
    (0b0_110100_1110110_1001001_0011100_0011, .vcmpF32Un 0x76 0x49 0x1c),
    (0b0_110100_0001011_1101100_1001101_0100, .vcmpI32Eq 0xb 0x6c 0x4d),
    (0b0_110100_0100000_0001111_1111110_0101, .vcmpI32Lt 0x20 0xf 0x7e),
    (0b0_110100_0110101_0110010_0101111_0110, .vcmpI32Le 0x35 0x32 0x2f),
    (0b0_110100_1001010_1010101_1100000_0111, .vcmpN32Lt 0x4a 0x55 0x60),
    (0b0_110100_1011111_1111000_0010001_1000, .vcmpN32Le 0x5f 0x78 0x11),
    (0b0_110100_1110100_0011011_1000010_1001, .vsel 0x74 0x1b 0x42),
    (0b0_110100_0001001_00_11110_00000001010, .vmskExpand 9 0x1e),
    (0b0_110100_00_11110_1100001_00000011010, .vmskPack 0x1e 0x61)] = true := by decide +kernel

theorem test_decode_18 : reads [
    (0b0_110101_0110011_0000100_1_000_110_0000, .vcvt 0x33 4 1 6),
    (0b0_110101_1001000_0100111_0110_101_0001, .vqnt 0x48 0x27 6 5),
    (0b0_110101_1011101_1001010_0111_100_0010, .vdqnt 0x5d 0x4a 7 4),
    (0b0_110101_1110010_1101101_00000_00_0011, .vamax 0x72 0x6d 0),
    (0b0_110110_0000111_0010000_0011001_0000, .vshuf 7 0x10 0x19),
    (0b0_110110_0011100_0110011_0_001010_0001, .vrot 0x1c 0x33 0xa),
    (0b0_110110_0110001_1010110_00000_11_0010, .vredsum 0x31 0x56 3),
    (0b0_110110_1000110_1111001_00000_00_0011, .vredmax 0x46 0x79 0),
    (0b0_110110_1011011_0011100_00000_01_0100, .vredmin 0x5b 0x1c 1),
    (0b0_110110_1110000_0111111_00000_10_0101, .vscan 0x70 0x3f 2),
    (0b0_110110_101_0000_010_000000000000110, .vxpose 5 2)] = true := by decide +kernel

theorem test_decode_19 : reads [
    (0b0_110111_0011010_0000101_00000000000, .vcpy 0x1a 5),
    (0b0_110111_0101111_000000000000000001, .vzero 0x2f),
    (0b0_110111_1000100_00_01011_00000_10_0010, .vbcast 0x44 0xb 2),
    (0b0_110111_00_11001_1101110_0_000011_0011, .vext 0x19 0x6e 3),
    (0b0_110111_1101110_00_10001_0_110100_0100, .vins 0x6e 0x11 0x34),
    (0b0_110111_0000011_00_10100_1100101_0101, .viota 3 0x14 0x65),
    (0b0_110111_000000_0_1010111_00000000110, .vsq 0 0x57)] = true := by decide +kernel

theorem test_decode_20 : reads [
    (0b0_111000_0101101_1111010_00111_0_0_0000, .vaddQ 0x2d 0x7a 7 0),
    (0b0_111000_1000010_0011101_11000_0_1_0001, .vsubQ 0x42 0x1d 0x18 1),
    (0b0_111000_1010111_1000000_01001_0_0_0010, .vmulQ 0x57 0x40 9 0),
    (0b0_111000_1101100_1100011_11010_000011, .vfmaQ 0x6c 0x63 0x1a),
    (0b0_111000_0000001_0000110_01011_000100, .vfmsQ 1 6 0xb),
    (0b0_111000_0010110_0101001_11100_000101, .vfnmaQ 0x16 0x29 0x1c),
    (0b0_111000_0101011_1001100_01101_0_0_0110, .vminQ 0x2b 0x4c 0xd 0),
    (0b0_111000_1000000_1101111_11110_0_1_0111, .vmaxQ 0x40 0x6f 0x1e 1),
    (0b0_111000_1010101_0000000_10010_001000, .vabsQ 0x55 0x12),
    (0b0_111000_1101010_0000000_10101_001001, .vnegQ 0x6a 0x15),
    (0b0_111000_1111111_1011000_10001_0_0_1010, .vcpsQ 0x7f 0x58 0x11 0)] = true := by decide +kernel

theorem test_decode_21 : reads [
    (0b0_111001_0010100_1111011_00010_0_1_0000, .viaddQ 0x14 0x7b 2 1),
    (0b0_111001_0101001_0011110_10011_0_0_0001, .visubQ 0x29 0x1e 0x13 0),
    (0b0_111001_0111110_1000001_00100_0_1_0010, .vimulQ 0x3e 0x41 4 1),
    (0b0_111001_1010011_1100100_10101_0_0_1_011, .vimulhQ 0x53 0x64 0x15 0 1),
    (0b0_111001_1101000_0000111_00110_0_1_0_100, .viminQ 0x68 7 6 1 0),
    (0b0_111001_1111101_0101010_10111_0_0_1_101, .vimaxQ 0x7d 0x2a 0x17 0 1),
    (0b0_111001_0010010_0000000_01101_000110, .viabsQ 0x12 0xd)] = true := by decide +kernel

theorem test_decode_22 : reads [
    (0b0_111010_0100111_1110000_11001_0_0_0000, .vandQ 0x27 0x70 0x19 0),
    (0b0_111010_0111100_0010011_01010_0_1_0001, .vorQ 0x3c 0x13 0xa 1),
    (0b0_111010_1010001_0110110_11011_0_0_0010, .vxorQ 0x51 0x36 0x1b 0),
    (0b0_111010_1100110_1011001_01100_0_1_0011, .vandnQ 0x66 0x59 0xc 1),
    (0b0_111010_1111011_1111100_11101_0_0_0100, .vshlQ 0x7b 0x7c 0x1d 0),
    (0b0_111010_0010000_0011111_01110_0_1_0101, .vshrQ 0x10 0x1f 0xe 1),
    (0b0_111010_0100101_1000010_11111_0_0_0110, .vsraQ 0x25 0x42 0x1f 0),
    (0b0_111010_0111010_0000000_00101_000111, .vpopcQ 0x3a 5),
    (0b0_111010_1001111_0001000_00001_0_0_1000, .vclmulQ 0x4f 8 1 0),
    (0b0_111011_1100100_1_000_010_11001_000000, .vcvtQ 0x64 1 2 0x19),
    (0b0_111011_1111001_1110_011_11000_000001, .vqntQ 0x79 0xe 3 0x18),
    (0b0_111011_0001110_0001_100_10111_000010, .vdqntQ 0xe 1 4 0x17),
    (0b0_111011_0100011_00000_00_00101_000011, .vamaxQ 0x23 0 5)] = true := by decide +kernel

theorem test_decode_23 : reads [
    (0b0_111100_00_111_10_01_000000000000_0_011, .mma 0 7 2 1 0 3),
    (0b0_111100_1_0_010_11_00_000100000000_1_110, .mma64 1 2 3 0 1 6),
    (0b0_111100_0_0_101_00_11_001000000000_0_001, .mmac 0 5 0 3 0 1),
    (0b0_111100_11_000_01_10_0011000000_11_0_101, .mmas 3 0 1 2 3 0 5),
    (0b0_111101_0000000000000000000000000, .gang),
    (0b0_111101_00_001_0000000100_00110_01011, .mshp 1 6 0xb),
    (0b0_111101_10_00000000010000000000000, .mzero 2),
    (0b0_111101_11_0000000001100000_100_0000, .mlda 3 4),
    (0b0_111101_00_0000000010000000_111_0000, .msta 0 7),
    (0b0_111101_01_010_00000101_01111_100_0000, .mepi 1 2 0xf 4),
    (0b0_111101_0000000000110000_10_0010101, .mdld 2 0x15),
    (0b0_111101_00000_11_000111000000_0_10001, .mfst 3 0 0x11)] = true := by decide +kernel

theorem test_decode_24 : reads [
    (0b0_111110_10100_00000000000000000000, .qpset 0x14),
    (0b0_111110_0000000000000000000010000, .qpfac),
    (0b0_111110_0000000000000000000100000, .qpiter),
    (0b0_111110_10011_00100_000000000110000, .qpshift 0x13 4),
    (0b0_111110_0000000000000000001000000, .qpres),
    (0b0_111110_0000000000_11101_0001010000, .qpstat 0x1d),
    (0b0_111110_10010_01101_01000_0001100000, .fchol 0x12 0xd 8),
    (0b0_111110_00111_10000_11001_0001110000, .ftrs 7 0x10 0x19)] = true := by decide +kernel

/-! ## Ill-formed terms: one for each check, refused (R182, R315, R345, R359 and each entry) -/

def refused (is : List Instr) : Bool := is.all (fun i => !i.wellFormed)

theorem test_illformed_destinations : refused [
    .add 0 16 1 1 0, .add 1 15 1 1 0, .lim 0 31 0, .jal 1 1 0, .ldl 15 0 0 0, .amoadd 1 0 0 0, .tqry 1 0 0, .qdeq 0 0 1 0 0,
    .chrecv 3 0, .sasq 16 0 0 0, .lmcmp 0 0 15 0, .tladv 1 0, .launch 0 0 1, .vmskPack 16 0, .vext 31 0 0, .mfst 0 0 16,
    .qpstat 20, .fchol 0 0 16, .mfc 0 16 0, .clkrd 1 1] = true := by decide +kernel

theorem test_illformed_scalar : refused [
    .bswap 0 1 1 0, .slli 0 1 1 0 8, .srli 0 1 1 1 16, .srai 0 1 1 2 32, .roli 0 1 1 0 63, .fadd 0 1 1 1 6 0, .fsqrt 0 1 1 6 0,
    .fcmp 0 1 1 1 4 0, .fcvt 0 1 1 0 8 0 0, .fcvt 0 1 1 0 1 0 1, .fcvt 0 1 1 1 3 0 0, .loop 0 1 0, .mod 6 0 0 0 0, .mod 0 5 0 0 0,
    .mod 0 0 4 0 0] = true := by decide +kernel

theorem test_illformed_memory_and_engines : refused [
    .fence 5, .acq 7, .rel 5, .tclr 8 1, .tmrg 8 0 1, .tqry 16 8 1, .qenq 16 0 0 1 0, .qenq 16 0 1 0 1, .qdeq 16 0 16 1 0,
    .qdeq 16 0 1 0 1, .saadd 0 1 0 1 0 0, .sanrm 0 0 0 2 0 1 0, .saclr 3 0 1, .safence 0 0 1 0 1, .saevict 0 1 0 1, .saevict 3 0 0 0,
    .saload 1 0 1, .sagain 1 0 1 0, .tlwait 0 0 5, .cpy 0 0 0 0 3 0, .cpy2d 0 0 0 0 3 0, .ldvir 16 0 1 0 1, .stvir 0 0 1 0 1] = true := by
  decide +kernel

theorem test_illformed_vector : refused [
    .vcvt 0 0 1 4, .vqnt 0 0 0 0, .vdqnt 0 0 0 0, .vamax 0 0 0, .vredsum 0 0 2, .vredmax 0 0 3, .vredmin 0 0 3, .vscan 0 0 2,
    .vbcast 0 0 3, .vcvtQ 0 1 7 8, .vqntQ 0 0 0 8, .vdqntQ 0 0 0 8, .vamaxQ 0 0 8] = true := by decide +kernel

theorem test_illformed_events : refused [
    .saSliceApply 8192, .gangStart 2048, .lnqctl 16 0, .lpwr 8192 0, .ecnt 7, .ctmp 256 0, .afpcfg 32 0, .bankDemote 0 32,
    .remoteTensorFill 0 0 4 0 [] [], .scrub 1 0 0 7 0, .busRepair 0 8, .tlbFill 4 0 0 0, .exchangeEntryPerform 0 { no := 4, hint := 1 },
    .engineCommandPerform 0 { no := 1, hint := 0 },
    .frameReceive 0 0 true { kind := .load, key := 0, ofs := 0, size := 0, data := List.replicate 4097 0 }, .hostAccess ⟨2, 0⟩ true 2 [0],
    .hostAccess ⟨1, 0⟩ false 8 [], .homeSliceRequest 0 0 0, .laneGroupArbitration 2048] = true := by
  decide +kernel

/-- R314, R315: words of reserved majors, of a wrong marker and of an unassigned minor. -/
theorem test_words_refused : ([0x00000000, 0x1C000000, 0x1FFFFFFF, 0x7E000000, 0xFE000000, 0x32000000, 0x5E000000, 0xE0000000,
    0xFC000000, 0x040000FF, 0x020000FF] : List Word).all (fun w => match decode w with | .ok _ => false | .error _ => true)
    = true := by decide +kernel

/-! ## The host's two probes -/

/-- R310: the words of ADD lie little-endian, and a step runs them. -/
theorem test_table_word : decodeTableWord 32 0x04531F00 = some (.add 0 5 6 7 3) := by decide +kernel

/-- The step after `withFetchWord` runs the word: LIM s5, 1 writes 4,096 (R340). -/
theorem test_step_runs_word : (match step (State.reset.withFetchWord 32 0x14500001) with
    | .next t => t.me.x 5 == 0x1000 && t.me.arch.pc == 0x10004
    | _ => false) = true := by decide +kernel

/-! ## One instruction each: results computed by hand from the rules -/

/-- What holds of the state after an instruction. -/
def after (i : Instr) (s : State) (p : State → Bool) : Bool :=
  match exec i s with
  | .next t => p t
  | _ => false

/-- R335: 0x7F + 1 in 8 bits is 0x80, sign-extended. -/
theorem test_add_wraps : after (.add 0 5 6 7 0) (regs [(6, 0x7F), (7, 0x101)]) (fun t => t.me.x 5 == 0xFFFFFFFFFFFFFF80)
    = true := by decide +kernel
/-- R335: shift counts are taken modulo the width. -/
theorem test_sra_count : after (.sra 0 5 6 7 2) (regs [(6, 0x80000000), (7, 36)]) (fun t => t.me.x 5 == 0xFFFFFFFFF8000000)
    = true := by decide +kernel
/-- R336: division by zero. -/
theorem test_divu_zero : after (.divu 0 5 6 7 3) (regs [(6, 9)]) (fun t => t.me.x 5 == 0xFFFFFFFFFFFFFFFF) = true := by decide +kernel
theorem test_rem_sign : after (.rem 0 5 6 7 3) (regs [(6, -7), (7, 2)]) (fun t => t.me.x 5 == -1) = true := by decide +kernel
/-- R337: imm15 is signed. -/
theorem test_addi_negative : after (.addi 0 5 6 0x7FFF) (regs [(6, 0)]) (fun t => t.me.x 5 == -1) = true := by decide +kernel
/-- R340. -/
theorem test_addpc : after (.addpc 0 5 1) (demo 0) (fun t => t.me.x 5 == 0x11000) = true := by decide +kernel
/-- R343: 1 + 2 = 3 in binary32. -/
theorem test_fadd : after (.fadd 0 5 6 7 0 1) (regs [(6, 0x3F800000), (7, 0x40000000)]) (fun t => t.me.x 5 == 0x40400000)
    = true := by decide +kernel
/-- R305: 1 / -0 is minus infinity and sets DZ. -/
theorem test_fdiv_zero : after (.fdiv 0 5 6 7 0 1) (regs [(6, 0x3F800000), (7, 0x80000000)])
    (fun t => t.me.x 5 == 0xFF800000 && t.me.arch.rmode == Flag.dz) = true := by decide +kernel
/-- R345: -1.5 to a signed 32-bit integer, to nearest even. -/
theorem test_fcvt_to_int : after (.fcvt 0 5 6 1 6 0 1) (regs [(6, 0xBFC00000)]) (fun t => t.me.x 5 == -2) = true := by decide +kernel
/-- R348: four bits from bit 4, sign-extended. -/
theorem test_extr : after (.extr 0 5 6 7 1) (regs [(6, 0xA5), (7, 0x304)]) (fun t => t.me.x 5 == -6) = true := by decide +kernel
/-- R349: back by two words. -/
theorem test_bne_taken : after (.bne 0 6 0 0x7FFE) (regs [(6, 1)]) (fun t => t.me.arch.pc == 0xFFF8) = true := by decide +kernel
/-- R352: JALR reads a before it writes d. -/
theorem test_jalr_link : after (.jalr 0 6 6 8) (regs [(6, 0x20000)]) (fun t => t.me.arch.pc == 0x20008 && t.me.x 6 == 0x10004)
    = true := by decide +kernel
/-- R353. -/
theorem test_loop_entry : after (.loop 0 6 3) (regs [(6, 2)]) (fun t => t.me.seq.loops == [⟨0x10004, 0x1000C, 2⟩])
    = true := by decide +kernel
/-- R362: little-endian stores of the low bytes. -/
theorem test_stl : after (.stl 6 7 1 2) (regs [(6, 0x123456), (7, 0x100)])
    (fun t => t.me.lsRd 0x102 == 0x56 && t.me.lsRd 0x103 == 0x34 && t.me.lsRd 0x104 == 0) = true := by decide +kernel
theorem test_ldl : after (.ldl 16 7 1 2) ((regs [(7, 0x100)]).modMe (fun k => k.lsWrite 0x102 [(0x56, false), (0x34, false)]))
    (fun t => t.me.x 16 == 0x3456) = true := by decide +kernel
/-- R362: a store to device memory that performs at issue. -/
theorem test_st : after (.st 6 7 2 0) (regs [(6, 0x89ABCDEF), (7, 0x30000)]) (fun t => t.rd 0x30000 == 0xEF && t.rd 0x30003 == 0x89)
    = true := by decide +kernel
/-- R369: the old value, and the sum. -/
theorem test_amoadd_local : after (.mod 1 0 1 0 0) (regs [(6, 5), (7, 0x100)])
    (fun t => after (.amoadd 16 7 6 0) (t.modMe (fun k => k.lsWrite 0x100 [(0xFF, false), (0, false), (0, false), (0, false)]))
      (fun u => u.me.x 16 == 0xFF && u.me.lsRd 0x100 == 4 && u.me.lsRd 0x101 == 1)) = true := by decide +kernel
/-- R384, R145: LMZERO issues under number 1 and clears its bytes when it performs. -/
theorem test_lmzero : after (.lmzero 6 7 2) ((regs [(6, 0x100), (7, 0x100)]).modMe (fun k => k.lsWrite 0x1FF [(1, false), (2, false)]))
    (fun t => t.me.lsRd 0x1FF == 1 && Map.get 0 t.me.arch.tlIssued 2 == 1 && after (.engineCommandPerform 0 { no := 0, hint := 1 }) t
      (fun u => u.me.lsRd 0x1FF == 0 && u.me.lsRd 0x200 == 2 && Map.get 0 u.me.arch.tlCount 2 == 1)) = true := by decide +kernel
/-- R401: lane by lane; a poison lane stays poison. -/
theorem test_vadd : after (.vadd 2 0 1) ((demo 0).modMe (fun k =>
      (k.setRow 0 (rowSplat 0x3F800000) false).setRow 1 (BitVec.ofNat 2048 (0x40000000 + Fmt.f32.poison * 2 ^ 32)) false))
    (fun t => lane (t.me.row 2) 0 == 0x40400000 && lane (t.me.row 2) 1 == Fmt.f32.poison && t.me.rowSideOf 2)
    = true := by decide +kernel
/-- R404, R405: 32-bit lanes wrap. -/
theorem test_viadd : after (.viadd 2 0 1) ((demo 0).modMe (fun k =>
      (k.setRow 0 (rowSplat 0xFFFFFFFF) false).setRow 1 (rowSplat 2) false))
    (fun t => lane (t.me.row 2) 63 == 1) = true := by decide +kernel
/-- R272: TRAP enters the handler with EPC at the next word. -/
theorem test_trap_enters : after (.trap 0 7) (handled (demo 0))
    (fun t => t.me.arch.pc == 0x20000 && t.me.level == 1 && t.me.epc == 0x10004 && t.me.ecause == 0x10 && t.me.faddr == 7)
    = true := by decide +kernel
theorem test_eret : after (.eret 0) ((atLevel 1 (demo 0)).modMe (fun k => { k with epc := 0x12340 }))
    (fun t => t.me.arch.pc == 0x12340 && t.me.level == 0) = true := by decide +kernel
/-- R271: without a handler a trap ends the task. -/
theorem test_trap_ends : after (.trap 0 7) (demo 0) (fun t => t.me.task.isNone) = true := by decide +kernel
/-- R457: RMODE reads as it was written. -/
theorem test_mtc_rmode : after (.mtc 0 6 0x01) (regs [(6, 3)]) (fun t => t.me.arch.rmode == 3) = true := by decide +kernel
theorem test_mfc_privileged : after (.mfc 0 5 0x50) (handled (demo 0)) (fun t => t.me.ecause == BitVec.ofNat 64 Cause.priv && t.me.level == 1)
    = true := by decide +kernel
/-- R197: HALT ends the task without a cause. -/
theorem test_halt : after (.halt 0) (demo 0) (fun t => t.me.task.isNone &&
    (match t.launch? 0 with | some l => (l.task 0).ended && (l.task 0).cause == 0 | none => false)) = true := by decide +kernel

/-! ## Witnesses: a concrete state and operands that meet the hypotheses of each statement -/

theorem test_witness_EncodeThenDecode : (Instr.add 0 5 6 7 3).wellFormed = true ∧ encode (.add 0 5 6 7 3) = some 0x04531F00 := by
  decide +kernel

theorem test_witness_DecodeThenEncode : decode 0x04531F00 = .ok (.add 0 5 6 7 3) :=
  decode_eq (by decide +kernel)

/-- Clause by clause, at the ends of the ranges of majors. -/
theorem test_witness_WordsThatDecodeToNothing :
    let m (w : Word) := (w.extractLsb' 25 6).toNat
    m 0 = 0x00 ∧ m 0x1C000000 = 0x0E ∧ m 0x1E000000 = 0x0F ∧ m 0x7E000000 = 0x3F ∧
    (m 0x32000000 = 0x19 ∧ (0x32000000 : Word).getLsbD 31 = false) ∧ (m 0x5E000000 = 0x2F ∧ (0x5E000000 : Word).getLsbD 31 = false) ∧
    (m 0xC8000000 = 0x24 ∧ (0xC8000000 : Word).getLsbD 31 = true) ∧ (m 0xE0000000 = 0x30 ∧ (0xE0000000 : Word).getLsbD 31 = true) ∧
    (m 0xFC000000 = 0x3E ∧ (0xFC000000 : Word).getLsbD 31 = true) := by decide +kernel

noncomputable def bootDead (es : List Instr) : State := { State.reset with bootFailed := true, agenda := es }

theorem test_witness_StepAnswers :
    State.reset.bootFailed = false ∧ (bootDead []).bootFailed = true ∧
    (∀ e es, (bootDead [.tempoAccrue]).agenda = e :: es → isServed e = false) ∧
    (bootDead [.hostAccess ⟨0, 0x10⟩ false 8 []]).agenda = [.hostAccess ⟨0, 0x10⟩ false 8 []] ∧
    isServed (.hostAccess ⟨0, 0x10⟩ false 8 []) = true := by
  refine ⟨rfl, rfl, ?_, rfl, rfl⟩
  intro e es h
  cases h
  rfl

/-- What StepRunsDecoded and StepRunsPair ask of the state alone. -/
def ready (st : State) : Prop :=
  st.agenda = [] ∧ st.turns = [] ∧ st.stalled = false ∧ st.bootFailed = false ∧ st.doubled = [] ∧ st.me.task.isSome = true ∧
    st.me.stopped = none ∧ st.pendingStop st.cur = none ∧ st.parked st.cur = false ∧ st.me.following = false ∧
    st.followersOf st.cur = [] ∧ st.me.seq.rpt = none ∧ st.errors = [] ∧ (st.square (squareOf st.cur)).gang = none

theorem test_ready : ready (demo 0x04531F00) := by unfold ready; decide +kernel

theorem test_witness_StepRunsDecoded :
    let st := demo 0x04531F00
    let i := Instr.add 0 5 6 7 3
    ready st ∧
    (∃ ps, st.check2 (st.whoOf st.cur 1) .fetch 0 st.me.arch.pc.toNat 4 0 = .ok ps ∧
      decide (ps.flatMap (fun p => st.rdBytes p.pa p.size) = [(0x00, false), (0x1F, false), (0x53, false), (0x04, false)]) = true) ∧
    decodeBytes [0x00, 0x1F, 0x53, 0x04] = .ok (i, []) ∧ i.wellFormed = true ∧ i.isMod = false ∧ i.frame? = none ∧
    st.me.hazard i = false ∧ i.pushes = none ∧ ∃ t, exec i (st.setMe { st.me with word := wordOfBytes 0x00 0x1F 0x53 0x04 }) = .next t :=
  ⟨test_ready, ex_ok' (by decide +kernel), bytes_eq (by decide +kernel), by decide +kernel, by decide +kernel, by decide +kernel,
    by decide +kernel, by decide +kernel, _, rfl⟩

/-- MOD with space 1, then AMOADD s16, [s7], s6. -/
def pair : State := (demo 0xB2410000).wrBytes 0x10004 (markBytes false (natBytes 4 0xC1039A00))

theorem test_ready_pair : ready pair := by unfold ready; decide +kernel

theorem test_witness_StepRunsPair :
    ready pair ∧ pair.me.endsLoop pair.me.arch.pc = false ∧
    (∃ p, pair.fetchWord pair.me.arch.pc = .ok p ∧ decide (p = (0xB2410000, false)) = true) ∧
    (∃ p, pair.fetchWord (pair.me.arch.pc + 4) = .ok p ∧ decide (p = (0xC1039A00, false)) = true) ∧
    readWord 0xB2410000 = some (.mod 1 0 1 0 0) ∧ prefixable 0xC1039A00 = true ∧ readWord 0xC1039A00 = some (.amoadd 16 7 6 0) ∧
    (Instr.amoadd 16 7 6 0).acceptsMod 1 1 0 = true ∧ pair.me.hazard (.amoadd 16 7 6 0) = false ∧
    (Instr.amoadd 16 7 6 0).pushes = none ∧
    ∃ t u, exec (.mod 1 0 1 0 0) (pair.setMe { pair.me with word := 0xC1039A00 }) = .next t ∧ exec (.amoadd 16 7 6 0) t = .next u :=
  ⟨test_ready_pair, by decide +kernel, ex_ok' (by decide +kernel), ex_ok' (by decide +kernel), by decide +kernel, by decide +kernel,
    by decide +kernel, by decide +kernel, by decide +kernel, by decide +kernel, _, _, rfl, rfl⟩

theorem test_witness_StepKeepsMemory : (demo 0x14500001).memOk ∧ ∃ t, step (demo 0x14500001) = .next t :=
  ⟨by decide +kernel, ex_next (by decide +kernel)⟩

/-! ### Traps -/

theorem test_witness_TrapEntryAndReturn :
    let s0 := handled (demo 0)
    let s1 := atLevel 1 s0
    let s2 := atLevel 2 s0
    let t : TrapInfo := { code := Cause.align }
    let lease : TrapInfo := { code := Cause.lease }
    (s0.me.loadsOut = false ∧ t.forGang = false ∧ s0.tvec s0.cur ≠ 0 ∧ s0.me.level = 0 ∧ t.code ≠ Cause.lease) ∧
    (s1.me.loadsOut = false ∧ lease.forGang = false ∧ s1.tvec s1.cur ≠ 0 ∧ s1.me.level = 1) ∧ s2.me.level = 2 := by decide +kernel

theorem test_witness_CauseRegisterAndTaskEnd :
    let s0 := demo 0
    let s2 := atLevel 2 (handled (demo 0))
    let t : TrapInfo := { code := 0xFF, sub := 0xFF }
    (t.code < 256 ∧ t.sub < 256) ∧ t.forGang = false ∧
    (s0.me.loadsOut = false ∧ s0.tvec s0.cur = 0 ∧ s0.me.sleep = none ∧ (s0.launchOf s0.cur).isSome = true) ∧
    (s2.me.loadsOut = false ∧ s2.tvec s2.cur ≠ 0 ∧ s2.me.level = 2 ∧ s2.me.sleep = none ∧ (s2.launchOf s2.cur).isSome = true) := by
  decide +kernel

/-! ### Scalar instructions -/

/-- Shift counts at the top of each width; SEL's two cases. -/
theorem test_witness_ImmediateAndBitFieldResults :
    (∀ z : BitVec 2, 8 * 2 ^ z.toNat - 1 < 8 * 2 ^ z.toNat) ∧ (63 : BitVec 6).toNat < 8 * 2 ^ (3 : BitVec 2).toNat ∧
    (7 : BitVec 6).toNat < 8 * 2 ^ (0 : BitVec 2).toNat ∧
    (poisoned 7 (demo 0)).me.sideOf 7 = true ∧ (regs [(7, 1)]).me.sideOf 7 = false ∧ (regs [(7, 1)]).me.x 7 ≠ 0 ∧
    (demo 0).me.x 7 = 0 := by decide +kernel

/-- Each of the six conditions holds and fails; JALR to a multiple of 4 and beside it. -/
theorem test_witness_BranchesAndJumps :
    let s := regs [(5, -1), (6, 1), (7, 1), (8, 0x20001)]
    let x := s.me.x
    (poisoned 5 s).me.sideOf 5 = true ∧ ((poisoned 6 s).me.sideOf 5 = false ∧ (poisoned 6 s).me.sideOf 6 = true) ∧
    (s.me.sideOf 5 = false ∧ s.me.sideOf 6 = false) ∧ x 6 = x 7 ∧ x 5 ≠ x 6 ∧ (x 5).toInt < (x 6).toInt ∧ (x 6).toInt ≤ (x 7).toInt ∧
    (x 6).toNat < (x 5).toNat ∧ (x 5).toNat ≥ (x 6).toNat ∧ (x 8 + (0 : BitVec 15).signExtend 64).toNat % 4 ≠ 0 ∧
    (x 8 + (0x7FFF : BitVec 15).signExtend 64).toNat % 4 = 0 := by decide +kernel

/-- A core with `n` loops around its word. -/
def looped (n : Nat) (stop : Dword) (s : State) : State :=
  s.modMe (fun k => k.setSeq { loops := List.replicate n ⟨0x10000, stop, 2⟩, rpt := none })

theorem test_witness_LoopsFramesAndPrefixes :
    let s := regs [(6, 3)]
    let k := s.me
    let full := (looped 4 0x20000 s).me
    let room := (looped 3 0x1000C s).me
    let last : Dword := k.arch.pc + 4 * (3 : BitVec 10).setWidth 64
    ((poisoned 6 s).me.sideOf 6 = true) ∧ (k.sideOf 5 = false ∧ k.x 5 = 0 ∧ k.seq.rpt = none) ∧
    (full.x 6 ≠ 0 ∧ 4 ≤ full.seq.loops.length) ∧ (∃ e, (looped 1 0x10008 s).me.seq.loops.head? = some e ∧ e.stop.toNat < last.toNat) ∧
    (room.sideOf 6 = false ∧ room.x 6 ≠ 0 ∧ room.seq.loops.length < 4 ∧ room.seq.loops.head? = some ⟨0x10000, 0x1000C, 2⟩ ∧
      last.toNat ≤ (0x1000C : Dword).toNat) :=
  ⟨by decide +kernel, by decide +kernel, by decide +kernel, ⟨⟨0x10000, 0x10008, 2⟩, by decide +kernel⟩, by decide +kernel⟩

/-- A core at the last word of a loop's body, with the passes left; a core in a frame. -/
theorem test_witness_RetirementFlow :
    let at' (n : Nat) : Core := (demo 0).me.setSeq { loops := [⟨0xFFF0, 0x10000, n⟩, ⟨0xFF00, 0x10000, 2⟩], rpt := none }
    let frame (word pass : Nat) : Core := (demo 0).me.setSeq
      { loops := [], rpt := some { addr := 0xFFF8, count := 2, pass := pass, word := word, len := 2, stagger := 0 } }
    ((demo 0).me.seq.rpt = none ∧ (demo 0).me.seq.loops = []) ∧ (at' 2).lastWord = 0x10000 ∧ (at' 2).seq.rpt = none ∧
    (frame 0 0).seq.rpt = some { addr := 0xFFF8, count := 2, pass := 0, word := 0, len := 2, stagger := 0 } ∧
    (frame 1 0).seq.rpt = some { addr := 0xFFF8, count := 2, pass := 0, word := 1, len := 2, stagger := 0 } ∧
    (frame 1 1).seq.rpt = some { addr := 0xFFF8, count := 2, pass := 1, word := 1, len := 2, stagger := 0 } := by decide +kernel

def modeSet (v : Dword) (s : State) : State := s.modMe (fun k => { k with arch := { k.arch with rmode := v } })

/-- A mode from RM, a dynamic one, and the two reserved values. -/
theorem test_witness_FloatArithmeticResults :
    let low (s : State) := (s.me.arch.rmode.extractLsb' 0 3).toNat
    roundMode 5 = some .rto ∧ roundMode (low (modeSet 4 (demo 0))) = some .rna ∧ low (modeSet 6 (demo 0)) = 6 ∧
    low (modeSet 7 (demo 0)) = 7 ∧ (poisoned 6 (demo 0)).me.sideOf 6 = true ∧
    (regs [(6, 0x3F800000)]).me.sideOf 6 = false ∧ 0x3F800000 ≠ Fmt.f32.poison := by decide +kernel

theorem test_witness_RoundingAndInvalidOperations :
    (∀ f : BitVec 2, (Fmt.ofField f).nan < 2 ^ (Fmt.ofField f).width ∧ ((Fmt.ofField f).val (Fmt.ofField f).nan).isNan = true ∧
      ((Fmt.ofField f).val 0).isNan = false ∧ 2 ^ (Fmt.ofField f).width - 1 < 2 ^ (Fmt.ofField f).width) ∧
    (Fmt.f32.val 0x7F800001).signals = true := by decide +kernel

theorem test_witness_FloatCompareConvertClassify :
    roundMode 0 = some .rne ∧ 4 ≤ (4 : BitVec 4).toNat ∧ (7 : BitVec 4).toNat < 8 ∧
    (poisoned 6 (demo 0)).me.sideOf 6 = true ∧ (demo 0).me.sideOf 6 = false := by decide +kernel

/-! ### Memory -/

def clean (s : State) (rs : List R5) : Bool :=
  rs.all (fun r => !s.me.sideOf r) && (s.me.taints (rs.map BitVec.toNat)).isEmpty

def okUnit : Checked Unit → Bool
  | .ok _ => true
  | _ => false

/-- Whether a local access of `n` bytes at `va` meets the conditions of a load and of a store. -/
def localReady (s : State) (m : ModFields) (va n : Nat) : Bool :=
  decide (va / 2 ^ 21 % 8 = 0) && okUnit (s.me.checkLocal va n) && s.me.freeSlotNo.isSome && s.orderly .load m && s.orderly .store m

/-- The first and the last dword of the local store, at level 0 and above. -/
theorem test_witness_LocalLoads_LocalStores :
    let s := regs [(7, 0x1FFFF8)]
    clean s [7, 6] = true ∧ localReady s (s.me.mods .load false) 0x1FFFF8 8 = true ∧
    localReady s (s.me.mods .store false) 0x1FFFF8 8 = true ∧ localReady s (s.me.mods .load false) 0 8 = true ∧
    localReady (atLevel 1 s) privMods 0x1FFFF8 8 = true ∧ (atLevel 1 s).me.level ≠ 0 ∧ s.me.level = 0 := by decide +kernel

/-- The last space that LDREM names, and the first past it. -/
def far (v : Dword) : State := atLevel 1 (regs [(6, 0x89ABCDEF), (7, 0x30000), (8, v)])

def onePart (sp : Nat) (ps : List Part) : Bool := match ps with
  | [p] => !p.isDone && p.idx == 0 && p.size == 4 && (decide (sp = 5) || decide (2 ≤ p.ca))
  | _ => false

theorem test_witness_FarLoads_virtual :
    let s := regs [(7, 0x30000)]
    (s.Unlogged ∧ s.Single ∧ s.me.early = [] ∧ s.me.freeSlotNo = some 0) ∧ clean s [7, 8] = true ∧ ({ s with delays := [true] } : State).delays = [true] ∧ s.delays = [] ∧
    s.me.inflight = [] ∧ (s.square 0).xbuf = [] ∧ s.refuses s.cur s.me.serial 0x30000 = false ∧
    (s.me.mods .load false).space = 0 ∧ (s.modMe (fun k => { k with pendMod := some ⟨1, 1, 0, 0, false⟩ })).me.mods .load false = ⟨1, 1, 0, 0, false⟩ ∧
    (∃ ps, s.checkSpace (s.whoOf s.cur 0) 2 .load 2 0x30000 4 0 = .ok ps ∧ onePart 2 ps = true) ∧
    (∃ ps, s.checkSpace (s.whoOf s.cur 0) 2 .load 2 0x3007E 4 0 = .ok ps ∧ decide (ps.length = 2) = true) :=
  by
  refine ⟨plain_meets (by decide +kernel), by decide +kernel, rfl, ?_, ?_, ?_, ?_, ?_, ?_, ex_ok' ?_, ex_ok' ?_⟩ <;> decide +kernel

theorem test_witness_FarLoads_privileged :
    let s := far 63
    (s.Unlogged ∧ s.Single ∧ s.me.early = [] ∧ s.me.freeSlotNo = some 0) ∧ s.me.level ≠ 0 ∧ clean s [7, 8, 6] = true ∧ (s.me.x 8).toNat ≤ 63 ∧ (∃ ps, check5 0x30000 4 0 = .ok ps ∧ onePart 5 ps = true) ∧
    (∃ ps, s.check2 (s.whoOf s.cur 0) .load 2 0x30000 4 0 = .ok ps ∧ onePart 2 ps = true) ∧
    (∃ ps, s.check2 { s.whoOf s.cur 0 with ctx := 1 } .load 2 0x30000 4 0 = .ok ps ∧ onePart 2 ps = true) ∧
    63 < ((far 64).me.x 8).toNat ∧ ((far 0x3FFFF).me.x 8).toNat < 2 ^ 18 ∧ 2 ^ 18 ≤ ((far 0x40000).me.x 8).toNat :=
by
  refine ⟨plain_meets (by decide +kernel), ?_, ?_, ?_, ex_ok' ?_, ex_ok' ?_, ex_ok' ?_, ?_, ?_, ?_⟩ <;> decide +kernel

theorem test_witness_FarStores :
    let s := regs [(6, 0x89ABCDEF), (7, 0x30000)]
    let c := stepped s
    (s.Unlogged ∧ s.Single ∧ s.me.early = [] ∧ s.me.freeSlotNo = some 0) ∧ clean s [7, 6] = true ∧
    (s.me.mods .store false).space = 0 ∧ (s.square 0).xbuf = [] ∧ s.inCompute s.cur = false ∧ c.inCompute c.cur = true ∧
    (∃ ps, s.checkSpace (s.whoOf s.cur 0) 2 .store 0 0x30000 4 0 = .ok ps ∧ onePart 5 ps = true) ∧
    (∃ id q l, c.launchOf c.cur = some (id, q, l) ∧ (!l.dbl && l.pendFits q 4) = true) ∧
    (∃ ps, c.check2 (c.whoOf c.cur 0) .store 0 0x30000 4 0 = .ok ps ∧ decide (ps.length = 1) = true) ∧
    (c.square 0).xbuf.length < Config.exchangeEntries ∧ c.me.inflight = [] ∧ s.refuses s.cur s.me.serial 0x30000 = false ∧
    ((far 0).me.level ≠ 0 ∧ (poisoned 6 (far 0)).me.sideOf 6 = true) :=
by
  refine ⟨plain_meets (by decide +kernel), ?_, ?_, ?_, ?_, ?_, ex_ok' ?_, ex_launch ?_, ex_ok' ?_, ?_, ?_, ?_, ?_⟩ <;> decide +kernel

/-- F1 is an FP8 format with four exponent bits. -/
def formatted (s : State) : State := s.modMe (fun k => { k with arch := { k.arch with fmts := [(1, 0x8000074F)] } })

/-- Raw, through F1's window, through a window without a format, and to device memory; a full and an empty queue. -/
theorem test_witness_RowLoads :
    let s := formatted (regs [(7, 0x100), (8, 4)])
    let m := s.me.mods .load false
    let el (z : Nat) (i : Nat) : Nat := (s.me.x 7 + BitVec.ofNat 64 i * s.me.x 8).toNat + z
    (s.Unlogged ∧ s.Single ∧ s.me.early = [] ∧ s.me.freeSlotNo = some 0) ∧ clean s [7] = true ∧ clean s [7, 8] = true ∧
    (s.me.queue 0).length < 8 ∧ localReady s m 0x1FFF00 256 = true ∧
    (∃ f, s.me.fmtReg (0x2FFF00 / 2 ^ 21 % 8) = some f ∧ okUnit (s.me.checkLocal 0x2FFF00 f.rowBytes) = true) ∧
    0x2FFF00 / 2 ^ 21 % 8 ≠ 0 ∧ s.me.fmtReg (0x400000 / 2 ^ 21 % 8) = none ∧
    (∀ i < 64, el 0 i / 2 ^ 21 % 8 = 0 ∧ okUnit (s.me.checkLocal (el 0 i) 4) = true) ∧
    (∃ ps, s.checkSpace (s.whoOf s.cur 0) 2 .load 0 0x30000 256 0 = .ok ps ∧ decide (ps.length = 2) = true) ∧
    (∃ ps, checkElems 0x100 (fun e => s.checkSpace (s.whoOf s.cur 0) 2 .load 0 e.1 4 e.2) (strided 0x100 4 4) = .ok ps ∧
      decide (ps ≠ []) = true) ∧
    8 ≤ ((queued 0 (List.replicate 8 (entry 0)) s).me.queue 0).length ∧ s.reserves = [] :=
by
  refine ⟨plain_meets (by decide +kernel), ?_, ?_, ?_, ?_, ex_some' ?_, ?_, ?_, ?_, ex_ok' ?_, ex_ok' ?_, ?_, ?_⟩ <;> decide +kernel

theorem test_witness_RowStores :
    let s := queued 4 [entry 5] (formatted (regs [(7, 0x100), (8, 4)]))
    let c := stepped s
    let p := queued 4 [{ entry 5 with pois := true }] s
    let m := s.me.mods .store false
    let el (i : Nat) : Nat := (s.me.x 7 + BitVec.ofNat 64 i * s.me.x 8).toNat
    (s.Unlogged ∧ s.Single ∧ s.me.early = [] ∧ s.me.freeSlotNo = some 0) ∧
    clean s [7, 8] = true ∧ s.me.queue 4 = [entry 5] ∧ (entry 5).taint.isEmpty = true ∧ localReady s m 0x100 256 = true ∧
    (∀ i < 64, el i / 2 ^ 21 % 8 = 0 ∧ okUnit (s.me.checkLocal (el i) 4) = true) ∧
    (∃ f, s.me.fmtReg (0x200100 / 2 ^ 21 % 8) = some f ∧ okUnit (s.me.checkLocal 0x200100 f.rowBytes) = true) ∧
    roundMode (s.me.arch.rmode.extractLsb' 0 3).toNat = some .rne ∧ s.me.fmtReg 2 = none ∧ (demo 0).me.queue 4 = [] ∧
    (∃ ps, s.checkSpace (s.whoOf s.cur 0) 2 .store m.cache 0x30000 256 0 = .ok ps ∧ decide (ps.length = 2) = true) ∧
    s.inCompute s.cur = false ∧ (entry 5).pois = false ∧ p.me.queue 4 = [{ entry 5 with pois := true }] ∧
    (∃ id u j, c.launchOf c.cur = some (id, u, j) ∧ (j.pendFits u 256) = true) ∧ c.inCompute c.cur = true ∧ c.me.inflight = [] ∧
    (c.square 0).xbuf.length + 2 ≤ Config.exchangeEntries := by
  refine ⟨plain_meets (by decide +kernel), ?_, ?_, ?_, ?_, ?_, ex_some' ?_, ?_, ?_, ?_, ex_ok' ?_, ?_, ?_, ?_, ex_launch ?_, ?_, ?_, ?_⟩ <;>
    decide +kernel

def withMod (o sp : Nat) (s : State) : State := s.modMe (fun k => { k with pendMod := some ⟨o, sp, 0, 2, false⟩ })

/-- An atomic at the local store, at device memory, in a compute phase and at the host. -/
theorem test_witness_AtomicResults :
    let s := regs [(6, 5), (7, 0x30000)]
    let here := withMod 1 1 (regs [(6, 5), (7, 0x1FFFF8)])
    let c := stepped s
    let w := c.whoOf c.cur 0
    (s.Unlogged ∧ s.Single ∧ s.me.early = [] ∧ s.me.freeSlotNo = some 0) ∧ (c.Unlogged ∧ c.Single ∧ c.me.early = [] ∧ c.me.freeSlotNo = some 0) ∧
    clean s [7, 6, 16] = true ∧ clean here [7, 6, 16] = true ∧ spaceOf (here.me.mods .atomic false).space = 1 ∧
    localReady here (here.me.mods .atomic false) 0x1FFFF8 8 = true ∧ here.orderly (.atomic .add) (here.me.mods .atomic false) = true ∧
    spaceOf ((withMod 1 3 s).me.mods .atomic false).space = 4 ∧ spaceOf (s.me.mods .atomic false).space = 2 ∧
    (∃ ps, s.check2 (s.whoOf s.cur 0) .atomic 0 0x30000 4 0 = .ok ps ∧ onePart 5 ps = true) ∧
    (∃ ps, s.checkSpace (s.whoOf s.cur 0) 2 .atomic 0 0x30000 4 0 = .ok ps ∧ onePart 5 ps = true) ∧
    s.inCompute s.cur = false ∧ c.inCompute c.cur = true ∧ (∃ ps, c.check2 w .atomic 0 0x30000 4 0 = .ok ps ∧ onePart 5 ps = true) ∧
    (∃ id u l, c.launchOf c.cur = some (id, u, l) ∧ (l.pendFits u 4) = true) ∧ (c.square 0).xbuf.length < Config.exchangeEntries ∧
    (s.square 0).xbuf = [] ∧ c.me.inflight = [] ∧
    s.delays = [] ∧ s.me.inflight = [] ∧ s.refuses s.cur s.me.serial 0x30000 = false ∧
    ({ s with delays := [true] } : State).delays = [true] := by
  refine ⟨plain_meets ?_, plain_meets ?_, ?_, ?_, ?_, ?_, ?_, ?_, ?_, ex_ok' ?_, ex_ok' ?_, ?_, ?_, ex_ok' ?_, ex_launch ?_, ?_, ?_, ?_, ?_, ?_, ?_,
    rfl⟩ <;> decide +kernel

/-! ### Slice control, ordering, queues -/

def okBounds (va : Nat) : Bool := va % 8 == 0 && (decide (2 ^ 27 ≤ va) || decide (va % 65536 < 0x1000) || decide (0x4000 ≤ va % 65536))
def isQueue (va : Nat) : Bool := va % 8 == 0 && decide (va < 2 ^ 27) && decide (0x1000 ≤ va % 65536) && decide (va % 65536 < 0x2000)
def isVector (va : Nat) : Bool := va % 8 == 0 && decide (va < 2 ^ 27) && decide (0x2000 ≤ va % 65536) && decide (va % 65536 < 0x4000)

/-- The ends of the three ranges; a descriptor word accepted and the three refused. -/
theorem test_witness_SliceControl :
    let s := atLevel 1 (regs [(7, 0x1000), (6, 0x50000)])
    (s.Unlogged ∧ s.Single ∧ s.me.early = [] ∧ s.me.freeSlotNo = some 0) ∧ s.me.level ≠ 0 ∧ clean s [7, 6] = true ∧ 0x1001 % 8 ≠ 0 ∧
    [0xFF8, 0x4000, 2 ^ 27, 0xFFF8].all okBounds = true ∧ [0x1000, 0x1FF8, 2 ^ 27 - 65536 + 0x1008].all isQueue = true ∧
    [0x2000, 0x3FF8].all isVector = true ∧ s.me.freeSlotNo.isSome = true ∧ s.orderly .load privMods = true ∧ s.orderly .store privMods = true ∧
    (let e := (s.slice 0).qdesc 0; e.zeros = 0 ∧ e.head < 2 ^ 16 ∧ e.tail < 2 ^ 16 ∧ e.ctx < 64 ∧ e.base < 2 ^ 15 ∧ e.logd < 16) ∧
    ((s.slice 0).writeQueue 0 false 0x50000).isSome = true ∧ ((s.slice 0).writeQueue 0 false 0x10000).isNone = true ∧
    ((0x10000 : Dword).getLsbD 16 = true ∧ (0x10000 : Dword).extractLsb' 18 4 = 0) ∧
    ((0x2F0000 : Dword).getLsbD 16 = true ∧ (0x2F0000 : Dword).getLsbD 17 = true ∧ 10 < ((0x2F0000 : Dword).extractLsb' 18 4).toNat) ∧
    ((0x50001 : Dword).getLsbD 16 = true ∧ 8 * ((0x50001 : Dword).extractLsb' 0 15).toNat % (2 ^ 1 * 8) ≠ 0) ∧
    (s.writeVec 0 0 0 0).isSome = true ∧ s.writeVec 0 0 4 1 = none := by
  refine ⟨plain_meets ?_, ?_⟩ <;> decide +kernel

def loading (s : State) : State := s.modMe (fun k => { k with
  loads := [(0, 1)], pend := [(6, 0)],
  inflight := [{ mkAccess .load 2 ⟨0, 0, 0, 0, false⟩ 4 (.reg 6) (some 0) [mkPart 0x30000 0x30000 4 2 0] with id := 9 }] })

theorem test_witness_OrderingAndTaint :
    (demo 0).me.inflight = [] ∧ (loading (demo 0)).me.inflight ≠ [] ∧ (demo 0).me.loadsOut = false ∧ (loading (demo 0)).me.loadsOut = true ∧
    Map.has (loading (demo 0)).me.pend 6 = true ∧ Map.has (demo 0).me.pend 6 = false := by decide +kernel

/-- Slice 0's queue 0 holds dwords, two entries at most; queue 1 holds rows. -/
def withQueues (n : Nat) (s : State) : State := s.modSlice 0 (fun x => { x with queues :=
  [(0, { QDesc.reset with ctx := 1, valid := true, logd := 1, tail := n }),
   (1, { QDesc.reset with ctx := 1, valid := true, logd := 1, rows := true, base := 64, tail := n })] })

def queueIs (s : State) (h : Nat) (rows : Bool) (n : Nat) : Bool := match s.queueOf h with
  | some (_, _, e) => e.rows == rows && e.count == n && e.logd == 1 && decide (e.head < 2 ^ 16) && decide (e.tail < 2 ^ 16)
  | none => false

theorem test_witness_SliceQueueOperations :
    let s := withQueues 0 (regs [(6, 5)])
    let full := withQueues 2 (regs [(6, 5)])
    let row := queued 4 [entry 5] s
    clean s [7, 6] = true ∧ (∃ id u l, s.launchOf s.cur = some (id, u, l) ∧ (!l.dbl && l.scr == 0) = true) ∧
    s.queueOf 2 = none ∧ s.queueOf (2 ^ 19) = none ∧ queueIs s 0 false 0 = true ∧ queueIs full 0 false 2 = true ∧ queueIs full 1 true 2 = true ∧
    queueIs s 1 true 0 = true ∧ s.orderly .store (s.me.mods .store true).strong = true ∧
    s.orderly .load (s.me.mods .load true).strong = true ∧ s.me.freeSlotNo.isSome = true ∧ (0 : BitVec 2).toNat < 2 ∧ (entry 5).taint.isEmpty = true ∧ row.me.queue 4 = [entry 5] ∧ (s.me.queue 0).length < 8 ∧ s.me.sleep = none :=
by
  refine ⟨?_, ex_launch ?_, ?_⟩ <;> decide +kernel

/-! ### Channels and the fabric -/

/-- A channel table at 0x40000: channel 0 of task 0 sends, channel 1 receives; tree 0 is task 0's own; an exchange schedule
of one slot. -/
def tabled (s : State) : State :=
  let put (s : State) (a n v : Nat) : State := s.wrBytes a (markBytes false (natBytes n v))
  record (0x40000 * 2 ^ 768 + 2 ^ 20) (put (put (put (put s 0x40000 4 (2 ^ 31 + 2 ^ 21)) 0x40010 8 (2 ^ 63 + 1000)) 0x40100 16
    (2 ^ 95 + 2 ^ 81 + 2 * 2 ^ 77 + 2 ^ 68)) 0x40110 16 (2 ^ 95 + 2 ^ 94 + 2 ^ 81 + 3 * 2 ^ 77 + 2 ^ 68 + 4))

def chan (c : Nat) (x : Chan) (s : State) : State := s.modMe (fun k => k.setChan c x)

theorem test_witness_ChannelTransfers :
    let s := tabled (regs [(7, 0x100)])
    let send := chan 0 ⟨2, 0, none⟩ s
    let got := chan 1 ⟨0, 1, some 1⟩ s
    (∃ id n l, s.launchOf s.cur = some (id, n, l) ∧
      (!(s.chEntry l 0 n 15).v && (let e := s.chEntry l 0 n 0; e.v && !e.receives && e.size == 256) &&
        (let e := s.chEntry l 0 n 1; e.v && e.receives) && l.pendFits n 256 && !l.dbl && l.sxc &&
        decide (0 < (s.schedule l 0).2.2.1) && decide ((s.schedule l 0).2.2.1 ≤ 1)) = true) ∧
    (∃ id n l, (demo 0).launchOf 0 = some (id, n, l) ∧ (!l.sxc) = true) ∧
    clean s [7] = true ∧ localReady s (s.me.mods .store true) 0x100 256 = true ∧ (s.me.chan 0).count = 0 ∧ (send.me.chan 0).count ≠ 0 ∧
    0x101 % 256 ≠ 0 ∧ s.orderly .load (s.me.mods .load true) = true ∧ ((s.me.chan 1).waiting = 0 ∧ (s.me.chan 1).held = none) ∧
    ((got.me.chan 1).waiting ≠ 0 ∧ (got.me.chan 1).held ≠ none) ∧ s.me.freeSlotNo.isSome = true :=
by
  refine ⟨ex_launch ?_, ex_launch ?_, ?_⟩ <;> decide +kernel

/-- Whether [va, va + len) meets the conditions of an in-layer range beside `first`. -/
def inside (k : Core) (first va len : Nat) : Bool :=
  va % 256 == 0 && decide (va < 2 ^ 21) && va / 2 ^ 20 == (va + len - 1) / 2 ^ 20 &&
    decide (va % 2 ^ 20 + len ≤ (k.layer (decide (2 ^ 20 ≤ va))).usable) && va / 2 ^ 20 == first / 2 ^ 20

/-- The least length, a whole layer, and lengths and ranges just past the limits. -/
theorem test_witness_InLayerCommandsIssue :
    let s := regs [(5, 0x100000), (6, 0x100100), (7, 0x100)]
    let turning := s.modMe (fun k => { k with layerB := { k.layerB with busy := true } })
    clean s [5, 6, 7] = true ∧ inside s.me 0x100000 0x100000 0x100 = true ∧ inside s.me 0x100000 0x100100 0x100 = true ∧
    inside s.me 0 0 0x100000 = true ∧ inside s.me 0 0x100 0x100000 = false ∧ inside s.me 0x100000 0xFFF00 0x100 = false ∧
    (0x100 % 256 = 0 ∧ 0 < 0x100 ∧ 0x100 ≤ 2 ^ 20) ∧ ¬(0x100100 ≤ 2 ^ 20) ∧ okUnit (s.me.checkLocal 0x100000 0x100) = true ∧
    okUnit (s.me.checkLocal 0 0x100000) = true ∧ s.me.scoreboard + 2 ≤ Config.scoreboardEntries ∧ s.me.freeSlotNo = some 0 ∧
    s.me.cmds.any (fun x => x.word.isInLayer) = false ∧ (match turning.me.checkLocal 0x100000 0x100 with | .hold => true | _ => false) = true ∧
    inside turning.me 0x100000 0x100000 0x100 = true ∧
    (s.modMe (fun k => { k with cmds := [mkCmd (.lmzero 0 256) 0 [(0, 256, true)]] })).me.cmds.any (fun x => x.word.isInLayer) = true := by
  decide +kernel

/-- MCRD of two cores, REDSEND of the most elements, XSEND of one block; each in and out of a compute phase. -/
theorem test_witness_FabricCommandsIssue :
    let s := tabled (regs [(5, 0x30000), (6, 0x3), (7, 0x100), (8, 0x100), (9, 64), (10, 2 ^ 32)])
    let c := stepped s
    clean s [5, 6, 7, 8, 9, 10] = true ∧ s.inCompute s.cur = false ∧ c.inCompute c.cur = true ∧
    ((s.me.x 6).extractLsb' 0 16 ≠ 0 ∧ (s.me.x 6).extractLsb' 25 7 = 0 ∧ (s.me.x 6).toNat < 2 ^ 43 ∧ (s.me.x 7).toNat % 256 = 0 ∧
      (s.me.x 7).toNat + 256 ≤ 2 ^ 21) ∧ (s.me.x 4).extractLsb' 0 16 = 0 ∧
    (∃ ps, s.check2 (s.whoOf s.cur 0) .load (s.me.mods .load false).cache 0x30000 256 0 = .ok ps ∧ decide (ps.length = 2) = true) ∧
    (∃ id u l, s.launchOf s.cur = some (id, u, l) ∧ (l.pendFits u 512 && (let tr := s.tree l 0 0; tr.v &&
      (l.members tr (l.instOf tr.lvl u)).contains u) && !(s.tree l 0 1).v && l.sxc && decide (0 < (s.schedule l 0).2.2.1) && !l.dbl &&
      decide (((s.me.x 10).extractLsb' 32 13).toNat < l.count) && decide (l.count ≤ ((2 ^ 35 : Dword).extractLsb' 32 13).toNat)) = true) ∧
    localReady s (s.me.mods .store true) 0x100 256 = true ∧ s.me.scoreboard + 1 ≤ Config.scoreboardEntries ∧
    ((s.me.x 8).toNat % 256 = 0 ∧ (s.me.x 8).toNat ≤ 65536 ∧ (s.me.x 10).extractLsb' 21 11 = 0 ∧ (s.me.x 10).toNat < 2 ^ 45) ∧
    ((s.me.x 9).toNat ≤ 64 ∧ 64 < 65) :=
by
  refine ⟨?_, ?_, ?_, ?_, ?_, ex_ok' ?_, ex_launch ?_, ?_⟩ <;> decide +kernel

/-! ### Copies and launches -/

def copyReady (s : State) (w : CmdKind) : Bool :=
  let cmd := mkCmd w 0 (w.localRanges s.me)
  (s.tableFault w).isNone && (s.copyFault (s.copyWho s.cur (s.me.level != 0) s.me.mdefCache) w).isNone &&
    (!w.byElement || !s.me.conflicts { cmd with id := s.me.serial, ranges := cmd.ranges.take 1 }) &&
    decide (s.me.scoreboard + cmd.ranges.length ≤ Config.scoreboardEntries)

/-- Each command with its least or greatest operand, and the values just past the limits. -/
theorem test_witness_CopyCommandsIssue :
    let s := formatted (regs [(5, 0x100), (6, 0x30000), (7, 0x100)])
    (s.Unlogged ∧ s.Single ∧ s.me.early = [] ∧ s.me.freeSlotNo = some 0) ∧ clean s [5, 6, 7, 8, 9] = true ∧ s.inCompute s.cur = false ∧
    (stepped s).inCompute s.cur = true ∧ (CmdKind.cpy 1 0 0x30000 0x100 256).spaces = some (2, 1) ∧
    [CmdKind.cpy 0 0 0x100 0x30000 1, .cpy 2 0 0x30000 0x40000 1, .cpy 1 0 0x30000 0x100 256, .cpy2d 0 0 0x100 0x30000 256 2 256 0,
      .cpyga 0 0x1000 0x100 1 8, .cpysc 0 0x100 0x1000 1 8, .cpyfi 0 false 0 0x30000 32, .cpyfi 0 true 0 0x100 Config.fifoBytes,
      .cpycv true 0 0x100 0x30000 1 0x8000074F 0].all (copyReady s) = true ∧
    (1 ≤ 1 ∧ 2 ^ 21 ≤ 2 ^ 21 ∧ 2 ^ 21 < 2 ^ 21 + 1) ∧ (s.me.fmtReg 1).isSome = true ∧ s.me.fmtReg 2 = none ∧
    (roundMode (s.me.arch.rmode.extractLsb' 0 3).toNat).isSome = true ∧ s.me.level = 0 ∧ (atLevel 1 s).me.level ≠ 0 :=
by
  refine ⟨plain_meets ?_, ?_⟩ <;> decide +kernel

/-- Queue 3 with its ring at 0x50000, `n` of two records in it. -/
def ring (n : Nat) (s : State) : State := s.modLqueue 3 (fun q => { q with base := 0x50000, logd := 1, tail := n, enabled := true })

theorem test_witness_LaunchAppends :
    let s := ring 0 (regs [(5, 0x30000), (6, 3)])
    let full := ring 2 s
    clean s [5, 6] = true ∧ 0x30001 % 256 ≠ 0 ∧ 15 < 16 ∧ s.me.freeSlotNo.isSome = true ∧ s.me.inflight = [] ∧
    ((s.lqueue 3).usable = true ∧ (s.lqueue 3).full = false) ∧ (full.lqueue 3).full = true ∧
    (∃ ps, s.check2 (s.whoOf s.cur 0) .load 0 0x30000 256 0 = .ok ps ∧
      (let bs := (ps.flatMap (fun p => s.overlay s.cur (s.lastLoad s.cur) 0 p.pa (s.rdBytes p.pa p.size))).map (·.1)
       bitsOf (bytesNat bs) 34 6 != s.ctxOf s.cur) = true) ∧ s.me.level = 0 ∧ (atLevel 1 s).me.level ≠ 0 :=
by
  refine ⟨?_, ?_, ?_, ?_, ?_, ?_, ?_, ex_ok' ?_, ?_⟩ <;> decide +kernel

/-! ### Vectors -/

def busyUops (n : Nat) (s : State) : State := s.modMe (fun k => { k with uops := List.replicate n ⟨4, 4⟩ })

/-- Room for one more micro-operation and none; a sampled mode that rounds and both reserved ones; VSEL's, VSHUF's masks. -/
theorem test_witness_vector_instructions :
    let low (s : State) := (s.me.arch.rmode.extractLsb' 0 3).toNat
    let p := (demo 0).modMe (fun k => k.setRow 3 0 true)
    (busyUops 15 (demo 0)).me.uops.length < 16 ∧ 16 ≤ (busyUops 16 (demo 0)).me.uops.length ∧ (demo 0).reserves = [] ∧
    roundMode (low (modeSet 5 (demo 0))) = some .rto ∧ 6 ≤ low (modeSet 6 (demo 0)) ∧ 6 ≤ low (modeSet 7 (demo 0)) ∧
    (p.me.rowOperand 3).2.1 = true ∧ (p.me.rowOperand 2).2.1 = false ∧ (List.range 64).any (p.me.rowOperand 3).bad = true ∧
    (List.range 64).any (p.me.rowOperand 2).bad = false ∧ ((demo 0).me.queue 4).length < 8 ∧ (2 : BitVec 2).toNat < 3 := by decide +kernel

/-- A popped head, a head left in place, a scalar, an unfilled head and an empty queue. -/
theorem test_witness_QueueSourcedResults :
    let s := queued 0 [entry 5] (demo 0)
    let u := queued 0 [{ entry 5 with filled := false }] (demo 0)
    s.me.queue ((3 : R5).toNat % 4) = [] ∧ s.me.queue ((0 : R5).toNat % 4) = [entry 5] ∧ (entry 5).filled = true ∧
    s.me.queue ((4 : R5).toNat % 4) = [entry 5] ∧ (0 : R5).toNat < 4 ∧ ¬(4 : R5).toNat < 4 ∧ 8 ≤ (8 : R5).toNat ∧ (7 : R5).toNat < 8 ∧
    u.me.queue 0 = [{ entry 5 with filled := false }] ∧ s.me.uops.length < 16 := by decide +kernel

theorem test_witness_QOperand : (demo 0).me.QOperand 8 ((demo 0).me.splatOperand 8) (demo 0).me ∧
    (queued 0 [entry 5] (demo 0)).me.QOperand 0 (5, false, Taint.clean) ((queued 0 [entry 5] (demo 0)).me.setQueue 0 []) := by
  constructor
  · exact ⟨rfl, rfl⟩
  · exact ⟨entry 5, [], by decide +kernel, rfl, rfl, rfl⟩

/-- A valid format, none, and a packed row that just fits and just does not. -/
theorem test_witness_VectorConversions :
    let s := formatted (demo 0)
    (∃ F, s.me.fmtReg 1 = some F ∧ decide (F.rowBytes = 64) = true) ∧ s.me.fmtReg 2 = none ∧ 16 * 12 + 64 ≤ 256 ∧ 256 < 16 * 13 + 64 :=
  ⟨ex_some' (by decide +kernel), by decide +kernel, by decide, by decide⟩

/-! ### The array -/

def gangOp : GangIssue :=
  { form := formMma, acc := 0, shape := 0, fifoA := 0, fifoB := 1, zero := true, mb := 0, sel := 0, armed := true }

/-- Cores 0 to 3 run the four tasks, armed; all but the first `n` of them have issued `gangOp`; each FIFO holds 32 bytes. -/
def ganged (n : Nat) : State :=
  let s := (List.range 4).foldl (fun s c => s.modCore c (fun k => { k with
    task := some (0, c), armed := true, gangWait := if c < n then none else some gangOp })) (handled (demo 0))
  let s := s.modLaunch 0 (fun l => (List.range 4).foldl (fun l t =>
    l.modTask t (fun x => { x with bound := true, begun := true })) l)
  s.modSquare 0 (fun q => { q with fifos := [(0, { Fifo.reset with bytes := List.replicate 32 0, pois := [false] }),
    (1, { Fifo.reset with bytes := List.replicate 32 0, pois := [false] })] })

theorem gang_ready {s : State} (h : (
    (match s.launchOf (4 * 0) with
      | some (_, _, l) => (List.range l.count).all (fun t => !decide (squareOf (l.pcore t) = 0) || !(l.task t).ended)
      | none => false) &&
    decide ((s.core (4 * 0)).gangWait = some gangOp) &&
    (List.range 4).all (fun c => match (s.core (4 * 0 + c)).gangWait with
      | some gc => gc.armed && decide ((s.core (4 * 0 + c)).gangKey gc = (s.core (4 * 0)).gangKey gangOp)
      | none => false) &&
    (List.range 4).all (fun c => decide ((s.core (4 * 0 + c)).level = 0)) && (s.square 0).gang.isNone &&
    decide ((s.core (4 * 0)).gangRecs gangOp = (0, 0)) &&
    (gangNeeds gangOp (streamBytes formMma true (ShapeRec.of 0) none) (streamBytes formMma false (ShapeRec.of 0) none)).all (fun e =>
      decide (e.2 ≤ Config.fifoBytes) && decide (e.2 ≤ ((s.square 0).fifo e.1).bytes.length)) &&
    decide ((((if (s.square 0).tempoAsked then s.tempoQueue else s.tempoQueue ++ [0]).filter (fun q =>
      columnOf q == columnOf 0 && decide ((s.gangIssued q).length = 4))).head?) = some 0) &&
    decide (1000 * gangTokens gangOp (ShapeRec.of 0).rows (ShapeRec.of 0).cols (ShapeRec.of 0).cols ≤ (s.column (columnOf 0)).milli)) =
      true) : s.GangReady 0 gangOp (ShapeRec.of 0) (ShapeRec.of 0) none none := by
  simp only [Bool.and_eq_true, List.all_eq_true, decide_eq_true_eq, List.mem_range] at h
  obtain ⟨⟨⟨⟨⟨⟨⟨⟨h1, h2⟩, h3⟩, h4⟩, h5⟩, h6⟩, h7⟩, h8⟩, h9⟩ := h
  refine { launch := ?_, first := h2, issued := ?_, level := h4, idle := by simpa using h5, recA := by rw [h6]; exact ⟨rfl, rfl⟩,
           recB := by rw [h6]; exact ⟨rfl, rfl⟩, formats := fun n hn => absurd hn (by revert n; decide), suits := by decide, inner := by decide,
           metas := fun h => absurd h (by decide), bytes := h7, turn := h8, tempo := h9 }
  · split at h1
    · rename_i i u l e
      refine ⟨i, u, l, e, fun t ht hs => ?_⟩
      have := List.all_eq_true.mp h1 t (List.mem_range.mpr ht)
      simpa [hs] using this
    · cases h1
  · intro c hc
    have := h3 c hc
    split at this
    · rename_i gc e
      simp only [Bool.and_eq_true, decide_eq_true_eq] at this
      exact ⟨gc, e, this⟩
    · cases this

/-- The fourth core's MMA, with the other three waiting: its state once it has issued may start. -/
theorem test_witness_MatrixOperations_fourth :
    (∃ id u l, (ganged 1).launchOf (ganged 1).cur = some (id, u, l) ∧ l.gang = true) ∧ (ganged 1).me.gangWait = none ∧
    (ganged 1).me.cmds = [] ∧ (ganged 1).me.uops.length < 16 ∧ 16 ≤ (busyUops 16 (ganged 1)).me.uops.length ∧ (ganged 1).reserves = [] ∧
    ((ganged 1).setMe { (ganged 1).me with armed := false, gangWait := some gangOp }).GangReady 0 gangOp (ShapeRec.of 0) (ShapeRec.of 0)
      none none ∧ (ganged 0).GangReady 0 gangOp (ShapeRec.of 0) (ShapeRec.of 0) none none :=
by
  refine ⟨ex_launch ?_, ?_, ?_, ?_, ?_, ?_, gang_ready ?_, gang_ready ?_⟩ <;> decide +kernel

/-- One that is not the fourth; a FIFO that lacks bytes; trailing checks. -/
theorem test_witness_MatrixOperations_waits :
    (((ganged 2).setMe { (ganged 2).me with gangWait := some gangOp }).gangIssued 0).length < 4 ∧
    (∃ id u l, (ganged 2).launchOf 0 = some (id, u, l) ∧ ((List.range l.count).all (fun t => !(l.task t).ended) &&
      (((ganged 2).setMe { (ganged 2).me with gangWait := some gangOp }).gangIssued 0).all (fun w => match (ganged 2).launchOf w.1 with
        | some (_, _, l') => l' == l
        | none => false)) = true) ∧
    (let s := (ganged 0).modSquare 0 (fun q => { q with fifos := [] })
     (gangNeeds gangOp 32 32).find? (fun e => decide (((s.square 0).fifo e.1).bytes.length < e.2) && s.fillsOf 0 e.1 == 0) = some (0, 32) ∧
     streamBytes formMma true (ShapeRec.of 0) none = 32 ∧ ∀ c < 4, (s.core (4 * 0 + c)).loadsOut = false ∧ s.tvec (4 * 0 + c) ≠ 0) ∧
    (let g : GangOp := { op := gangOp, pcs := [], marks := [], old := [], flags := [], replays := 0, epilogue := false }
     ((demo 0).modSquare 0 (fun q => { q with gang := some g })).square 0 = { (demo 0).square 0 with gang := some g } ∧
     2 ≤ 2 ∧ g.epilogue = false) :=
  ⟨by decide +kernel, ex_launch (by decide +kernel), by decide +kernel, by decide +kernel⟩

def shaped (v : Nat) (s : State) : State := s.modMe (fun k => { k with arch := { k.arch with shapes := [(0, BitVec.ofNat 128 v)] } })

/-- MEPI with a stride, none, and a narrow output without a format. -/
theorem test_witness_MatrixOperations_epilogue :
    let s := shaped (16 * 2 ^ 84) (regs [(7, 0x100)])
    let e := EpiRec.of (s.me.shape 0).toNat
    (∃ id u l, s.launchOf s.cur = some (id, u, l) ∧ l.gang = true) ∧ clean s [7] = true ∧ e.ostr = 16 ∧ e.out ≠ 3 ∧
    roundMode (if e.orm = 7 then 0 else e.orm) = some .rne ∧ 0x100 / 2 ^ 21 % 8 = 0 ∧
    okUnit (s.me.checkLocal 0x100 (0 * 16 * e.ostr + epiRowBytes e (Narrow.ofReg 0) 1)) = true ∧
    s.me.scoreboard + 1 ≤ Config.scoreboardEntries ∧ (EpiRec.of 0).ostr = 0 ∧
    (let e' := EpiRec.of (3 * 2 ^ 75 + 2 ^ 78 + 2 ^ 84); e'.out = 3 ∧ e'.ostr ≠ 0 ∧ (Narrow.ofReg 0).valid = false) ∧
    0x200100 / 2 ^ 21 % 8 ≠ 0 :=
by
  refine ⟨ex_launch ?_, ?_⟩ <;> decide +kernel

/-- Accepted and refused shape records and metadata rows; a launch without G. -/
theorem test_witness_MatrixRegisters :
    let word (v : Row) (j : Nat) : Dword := v.extractLsb' (64 * j) 64
    let valid (v : Row) : Bool := (List.range 16).all (fun j => (List.range 16).all (fun g =>
      decide ((word v j).extractLsb' (4 * g) 2 < (word v j).extractLsb' (4 * g + 2) 2)))
    shapeOk 0 = true ∧ shapeOk (2 ^ 12) = false ∧ valid (BitVec.ofNat 2048 ((List.range 512).foldl (fun a _ => 16 * a + 4) 0)) = true ∧
    valid 0 = false ∧ (demo 0).me.rowSideOf 3 = false ∧ ((demo 0).modMe (fun k => k.setRow 3 0 true)).me.rowSideOf 3 = true ∧
    (∃ id u l, ((demo 0).modLaunch 0 (fun l => { l with record := l.record - BitVec.ofNat 2048 (2 ^ 17) })).launchOf 0 = some (id, u, l) ∧
      l.gang.not = true) ∧ (∃ id u l, (demo 0).launchOf 0 = some (id, u, l) ∧ l.gang = true) ∧ (demo 0).me.uops.length < 16 :=
by
  refine ⟨?_, ?_, ?_, ?_, ?_, ?_, ex_launch (p := fun _ _ l => l.gang.not) ?_, ex_launch ?_, ?_⟩ <;> decide +kernel

/-! ### Stream accumulators -/

/-- Vector 0 of slice 0 is resident in context 1 with 64 elements and slot 0 captured; the context lends two ways. -/
def withVec (s : State) : State :=
  ({ s with lending := 2 }.modContext 1 (fun c => { c with inForce := Map.put c.inForce 0x46 2 })).modSlice 0 (fun x => { x with vecs :=
    [(0, { SaVec.reset with nr := 1, st := 1, ctx := 1, valid := true, sv0 := true, back := 0x1000 })] })

def saReq (op : Nat) : SaReq :=
  { op := op, handle := 0, ofs := 0, slot := 0, fmt := 0, scope := 0, dest := 0, row := 0, pois := false, addr := 0, eps := 0, gain := some [] }

theorem sa_ready {s s1 : State} {r : SaReq} (h : (decide (r.handle.toNat < 2 ^ 16) && (s.vec (saSlice r.hnd) (saIndex r.hnd)).valid &&
      decide ((s.vec (saSlice r.hnd) (saIndex r.hnd)).ctx = s.ctxOf 0) && decide (r.off < 64 * (s.vec (saSlice r.hnd) (saIndex r.hnd)).nr) &&
      r.off % 64 == 0 && !(s.square (saSlice r.hnd)).withheld && s.ways (s.ctxOf 0) != 0 && r.slot == 0 &&
      (s.vec (saSlice r.hnd) (saIndex r.hnd)).sv0 && r.addr.toNat % 64 == 0 && r.gain == some [] && (s1.saGain 0 []).isSome) = true)
    (h1 : if r.op = saOpClr then s1 = s ∧ ((s.square (squareOf 0)).revocable = false ∨ (s.vec (saSlice r.hnd) (saIndex r.hnd)).st < 2) else if r.op = saOpEvict then
      (s.vec (saSlice r.hnd) (saIndex r.hnd)).st = 1 ∧ s.hasUndo (saSlice r.hnd) (saIndex r.hnd) = false ∧
        s.saBusy 0 (saSlice r.hnd) (saIndex r.hnd) true = false ∧ s.evictVec (saSlice r.hnd) (saIndex r.hnd) (if r.fmt = 2 then (s.vec (saSlice r.hnd) (saIndex r.hnd)).compact else r.fmt == 1) = .ok s1
      else s.saResident 0 (saSlice r.hnd) (saIndex r.hnd) = (s1, .ok ())) : s.SaReady 0 r s1 := by
  simp only [Bool.and_eq_true, decide_eq_true_eq, beq_iff_eq, bne_iff_ne, ne_eq, Bool.not_eq_true'] at h
  obtain ⟨⟨⟨⟨⟨⟨⟨⟨⟨⟨⟨a, b⟩, c⟩, d⟩, e⟩, f⟩, g⟩, i⟩, j⟩, k⟩, n⟩, m⟩ := h
  refine { handle := a, vector := ⟨b, c, d⟩, offset := e, slice := f, ways := g, captured := fun _ => by rw [if_pos i]; exact j,
           gain := fun _ => k, row := fun _ => ⟨[], n, m⟩, ready := ?_ }
  by_cases q : r.op = saOpClr
  · simp only [if_pos q] at h1 ⊢; exact h1
  · by_cases q' : r.op = saOpEvict
    · simp only [if_neg q, if_pos q'] at h1 ⊢; rw [if_pos h1.1]; exact h1.2
    · simp only [if_neg q, if_neg q'] at h1 ⊢; exact h1

/-- A page of the backing image's vector, written back into device memory. -/
def backed (s : State) : State := s.wrBytes 0x3000 (markBytes false (natBytes 8 (2 ^ 5 + 0xF)))

/-- Every operation on the resident vector. -/
theorem test_witness_SaReady :
    (∀ op ∈ [saOpAdd, saOpNrm, saOpFence, saOpLoad, saOpGain, saOpSq], ∃ s1, (withVec (demo 0)).SaReady 0 (saReq op) s1) ∧
    (∃ s1, (withVec (demo 0)).SaReady 0 (saReq saOpClr) s1) ∧ ∃ s1, (backed (withVec (demo 0))).SaReady 0 (saReq saOpEvict) s1 := by
  have hs : ((withVec (demo 0)).saResident 0 0 0).2 = .ok () := ok_unit (by decide +kernel)
  have h0 : saSlice (saReq 0).hnd = 0 ∧ saIndex (saReq 0).hnd = 0 := by decide +kernel
  refine ⟨fun op hop => ⟨((withVec (demo 0)).saResident 0 0 0).1, sa_ready (r := saReq op) ?_ ?_⟩,
    ⟨withVec (demo 0), sa_ready (r := saReq saOpClr) (by decide +kernel) ⟨rfl, by decide +kernel⟩⟩, ?_⟩
  · revert op; decide +kernel
  · have h : op ≠ saOpClr ∧ op ≠ saOpEvict := by revert op; decide
    rw [if_neg (show ¬(saReq op).op = saOpClr from h.1), if_neg (show ¬(saReq op).op = saOpEvict from h.2)]
    show (withVec (demo 0)).saResident 0 (saSlice (saReq 0).hnd) (saIndex (saReq 0).hnd) = _
    rw [h0.1, h0.2]
    exact Prod.ext rfl hs
  · have h : ∃ s1, (backed (withVec (demo 0))).evictVec 0 0 false = .ok s1 ∧ (s1.saGain 0 []).isSome = true :=
      ex_ok' (by decide +kernel)
    obtain ⟨s1, h1, h2⟩ := h
    refine ⟨s1, sa_ready (r := saReq saOpEvict) ?_ ⟨by decide +kernel, by decide +kernel, by decide +kernel, h1⟩⟩
    rw [h2]; decide +kernel

theorem test_witness_StreamAccumulatorOperations :
    let s := withVec (regs [(7, 0), (8, 0)])
    let c := stepped s
    let e : State := { backed s with lending := 0 }
    (s.Unlogged ∧ s.Single ∧ s.me.early = [] ∧ s.me.freeSlotNo = some 0) ∧ (c.Unlogged ∧ c.Single ∧ c.me.early = [] ∧ c.me.freeSlotNo = some 0) ∧
    (clean s [7, 8] = true ∧ s.me.saWait = none ∧ s.inCompute s.cur = false ∧ c.inCompute c.cur = true ∧
    s.orderly .store (saMods 1 0) = true ∧ s.orderly .load (saMods 1 0) = true ∧ s.orderly .store (saMods 3 0) = true ∧
    s.orderly (.atomic .swp) (saMods 2 0) = true ∧ s.saBuffered s.cur 0 = false ∧ s.me.inflight = [] ∧ s.delays = []) ∧
    ((s.vec 0 0).st = 1 ∧ (s.vec 0 0).gaddr = 0 ∧ (demo 0).vec 0 0 = SaVec.reset ∧ s.saCheck 1 (saReq 1) = none ∧ (s.me.queue 2).length < 8) ∧
    (∃ g, s.saGainAt 0 (saReq 1) = .ok g ∧ decide (g = some []) = true) ∧ (∃ y, s.saCheck 1 { saReq 0 with ofs := 64 } = some y ∧ decide (y = 2) = true) ∧
    s.me.loadsOut = false ∧ c.saCheck (c.ctxOf c.cur) (saReq 0) = none ∧ (c.square 0).xbuf.length < Config.exchangeEntries ∧
    (∃ id u l, c.launchOf c.cur = some (id, u, l) ∧ l.pendFits u 256 = true) ∧
    (e.owed 0 = [0] ∧ (e.slice 0).leaving = [] ∧ e.hasUndo 0 0 = false ∧
      isOk (e.evictVec 0 0 (e.vec 0 0).compact) = true) ∧ (e.me.saWait = none ∧
      (e.modMe (fun k => { k with saWait := some (saReq 0) })).me.saWait = some (saReq 0) ∧ (saReq 7).op < 8) := by
  refine ⟨plain_meets ?_, plain_meets ?_, ?_, ?_, ex_ok' ?_, ex_some' ?_, ?_, ?_, ?_, ex_launch ?_, ?_⟩ <;> decide +kernel

/-! ### Synchronisation -/

/-- SSTEP from a compute phase; BAR from an exchange phase, the last to arrive and not. -/
theorem test_witness_SupersteppingAndBarriers :
    let c := stepped (demo 0)
    let x := inPhase .exchange c
    (∃ id u l, c.launchOf c.cur = some (id, u, l) ∧ (decide (l.domainLevel = some 0) && decide ((l.task u).phase = .compute) && l.barr 0 &&
      !l.barr 1) = true) ∧ c.me.inflight = [] ∧
    (∃ id u l, x.launchOf x.cur = some (id, u, l) ∧
      (decide (l.domainLevel = some 0) && decide ((l.task u).phase = .exchange) &&
        (let ts := l.instTasks 0 (l.instOf 0 u); let l1 := l.modTask u (fun t => { t with phase := .wait 0 })
         ts.contains u && !(l.task u).ended && ts.all (fun v => !({ x with launches := Map.put x.launches id l1 } : State).taskBusy id l1 v) && decide (l1.clashes ts = []) && decide (ts = [u]) && decide (l.pcore u = x.cur) &&
         ts.all (fun v => (l1.task v).ended || decide ((l1.task v).phase = .wait 0)) && decide (l.pend 0 (l.instOf 0 u) = 0) &&
         !l.spansDevices 0)) = true) ∧
    (∃ id u l, (demo 0).launchOf 0 = some (id, u, l) ∧ decide (l.domainLevel = none) = true) ∧
    (∃ id u l, (record 2 (inPhase .exchange c)).launchOf 0 = some (id, u, l) ∧ (l.pend 0 0 == 0) = true) ∧
    (∃ l, (inPhase (.wait 0) c).launch? 0 = some l ∧ (let ts := l.instTasks 0 0
      decide (l.clashes ts = []) && decide (ts = [0]) && decide ((l.task 0).phase = .wait 0) && !(l.task 0).ended &&
      !(inPhase (.wait 0) c).taskBusy 0 l 0 && l.pend 0 0 == 0 && decide (l.domainLevel = some 0)) = true) := by
  refine ⟨ex_launch ?_, ?_, ex_launch ?_, ex_launch ?_, ex_launch ?_, ex_some' ?_⟩ <;> decide +kernel

/-- A reduction of tree 0 that is over, with task 0's one element. -/
def reduced (flush mixed : Bool) (s : State) : State :=
  let p : Partial := { mask := 1, vals := [0x3F800000], pois := [false] }
  let other := if mixed then [(1, (1, p))] else []
  { s with reds := [(0, { launch := 0, tree := 0, inst := 0, ordinal := 0, given := (0, (0, p)) :: other, sent := [(0, p)], flushed := [],
                          flushing := flush, timedOut := flush, isOver := true })] }

theorem test_witness_WaitsAndFlags :
    let s := tabled (regs [(7, 0x100), (8, 0)])
    let b (n : Nat) : Nat := n * 2 ^ 665
    let described := record (b 1) s
    (s.me.sideOf 8 = false ∧ Map.get 0 s.me.arch.tlIssued 0 < 1 ∧ 0 ≤ Map.get 0 s.me.arch.tlCount 0) ∧
    (let i := s.modMe (fun k => { k with arch := { k.arch with tlIssued := [(0, 1)] } })
     1 ≤ Map.get 0 i.me.arch.tlIssued 0 ∧ Map.get 0 i.me.arch.tlCount 0 < 1) ∧
    s.me.scoreboard ≤ Config.scoreboardEntries ∧ clean s [7, 8] = true ∧ s.me.inflight = [] ∧ (loading s).me.inflight ≠ [] ∧
    (∃ id u l, s.launchOf 0 = some (id, u, l) ∧ (l.tbRole 0 == 0 && decide (0 < l.count) && decide (l.count ≤ 4) &&
      Map.get false l.full 0 == false) = true) ∧
    (∃ id u l, described.launchOf 0 = some (id, u, l) ∧ (l.tbRole 0 != 0 && !l.tbRem 0) = true) ∧
    (∃ id u l, s.launchOf 0 = some (id, u, l) ∧ (let tr := s.tree l 0 0
      tr.v && (l.members tr (l.instOf tr.lvl u)).contains u && decide (l.rootOf tr u = some u) && decide (s.redFind id 0 (l.instOf tr.lvl u) 0 = none) &&
      !(s.tree l 0 1).v) = true) ∧
    (∃ jr, (reduced false false s).redFind 0 0 0 0 = some jr ∧ (!jr.2.mixed && !jr.2.flushing) = true) ∧
    (∃ jr, (reduced true false s).redFind 0 0 0 0 = some jr ∧ (!jr.2.mixed && jr.2.flushing) = true) ∧
    (∃ jr, (reduced false true s).redFind 0 0 0 0 = some jr ∧ jr.2.mixed = true) ∧
    (∃ id u l, s.launchOf 0 = some (id, u, l) ∧ (match (reduced false false s).redFind 0 0 0 0 with
      | some (_, r) => (r.result l u).isSome | none => false) = true) ∧ s.me.loadsOut = false ∧ okUnit (s.me.checkLocal 0x100 4) = true :=
by
  refine ⟨?_, ?_, ?_, ?_, ?_, ?_, ex_launch ?_, ex_launch ?_, ex_launch ?_, ex_some' ?_, ex_some' ?_, ex_some' ?_, ex_launch ?_, ?_⟩ <;>
    decide +kernel

/-! ### The solver -/

def words (a : Nat) (vs : List Nat) (k : Core) : Core := k.lsWrite a (markBytes false (vs.flatMap (natBytes 4)))

/-- A bound block at 0x1000 with n = m = 1, P = `p`, ITER `iter` and status word `st`. -/
def block (p iter st : Nat) : State := (regs [(7, 0x1000), (8, 0x0101)]).modMe (fun k =>
  { words 0x1E00 [p] (words 0x1000 [1, 1, 0x3F800000, 0x3F800000, 0x3F800000, 0, 0, 0, 2, 1, iter, st] k) with qp := some 0x1000 })

def freeRange (s : State) (va n : Nat) : Bool :=
  decide (va / 2 ^ 21 % 8 = 0) && okUnit (s.me.checkLocal va n) &&
    !s.me.conflicts { mkCmd .tladv 0 [(va % 2 ^ 21, n, true)] with id := s.me.serial } && !s.me.inflight.any (fun x => x.acquires)

/-- A launch with SOLV and without; a good header and a bad one; a factor that exists and one that does not; each state of
ITER; shifts that fit and do not. -/
theorem test_witness_SolverInstructions :
    let s := block 0 0 0
    let q := Qp.of s.me 0x1000
    let qk (p : Nat) := formK q (s.me.rdMat (0x1000 + 3584) 1 1 |>.map (fun r => r.map (fun _ => p))) (s.me.rdMat q.aOfs 1 1)
    (∃ id u l, s.launchOf 0 = some (id, u, l) ∧ l.solv = true) ∧
    (∃ id u l, ((demo 0).modLaunch 0 (fun l => { l with record := l.record - BitVec.ofNat 2048 (2 ^ 21) })).launchOf 0 = some (id, u, l) ∧
      l.solv.not = true) ∧
    clean s [7, 8] = true ∧ 0x1001 % 256 ≠ 0 ∧ freeRange s 0x1000 3584 = true ∧ freeRange s 0x1000 q.size = true ∧ q.headerOk s.me = true ∧
    q.dims = true ∧ (Qp.of (demo 0).me 0x1000).headerOk (demo 0).me = false ∧ (Qp.of (demo 0).me 0x1000).dims = false ∧
    (demo 0).me.qp = none ∧ s.me.qp = some 0x1000 ∧ (qk 0).any (fun r => r.contains f32Poison) = false ∧ (cholesky (qk 0) []).2 = true ∧
    (cholesky (qk 0xC0000000) []).2 = false ∧ (qk f32Poison).any (fun r => r.contains f32Poison) = true ∧
    (q.fv = false ∧ (Qp.of (block 0 0 0x100).me 0x1000).fv = true) ∧
    ((Qp.of (block 0 0 0x300).me 0x1000).iter < 2 ∧ (Qp.of (block 0 0 0x300).me 0x1000).maxit = 2) ∧
    (let r := Qp.of (block 0 2 0x300).me 0x1000; r.run = true ∧ r.maxit ≤ r.iter) ∧
    (s.me.scoreboard + 3 ≤ Config.scoreboardEntries ∧ s.me.uops.length < 16) ∧ (1 ≤ 64 ∧ 1 * 1 ≤ q.n ∧ 1 * 1 ≤ q.m ∧ ¬(2 * 1 ≤ q.n)) ∧ freeRange s 0x1000 (256 * 64) = true ∧ freeRange s 0x2000 256 = true := by
  refine ⟨ex_launch ?_, ex_launch (p := fun _ _ l => l.solv.not) ?_, ?_⟩ <;> decide +kernel

/-! ### System instructions -/

/-- Numbers of each kind of register take a value at either level; the two levels; a value that is refused. -/
theorem test_witness_ControlRegisters :
    let s := atLevel 1 (regs [(7, 0x1000)])
    let at0 := regs [(7, 0x1000)]
    s.me.level ≠ 0 ∧ at0.me.level = 0 ∧ s.me.sideOf 7 = false ∧ (poisoned 7 s).me.sideOf 7 = true ∧
    [0x0C, 0x3F, 0x4F, 0x60, 0x7F, 0xB0, 0x3FF].all (fun n => !crListed n) = true ∧
    [(0, 0xC0), (1, 4), (2, 0x8000074F), (8, 0x8000074F), (0x09, 1), (0x0B, 0x80000000), (0x40, 0x10000), (0x45, 0), (0x46, 8), (0x48, 0x20000),
      (0x49, 1000), (0x4B, 1), (0x4C, 3), (0x4D, 0x1E0040), (0x50, 4), (0x57, 1), (0x58, 0), (0x5F, 0), (0x80, 0x50000), (0x8F, 0x50000),
      (0x90, 0x0001000000100001), (0x9F, 0x0001000000100001)].all (fun e => crListed e.1 && crAccepts e.1 (BitVec.ofNat 64 e.2)) = true ∧
    [(0, 0xC00), (0x46, 9), (0x49, 999), (0x90, 2)].all (fun e => crListed e.1 && !crAccepts e.1 (BitVec.ofNat 64 e.2)) = true := by
  decide +kernel

/-- A launch that records its choices, with a log at 0x30000; the same at its end. -/
def logging (pos : Nat) (s : State) : State :=
  (record (2 ^ 22 + 0x30 * 2 ^ 204) s).modLaunch 0 (fun l => { l with logPos := [(0, pos)] })

theorem test_witness_RecordsMarksAndClock :
    let at1 (v : Dword) : State := atLevel 1 (regs [(7, v)])
    (demo 0).me.level = 0 ∧ (at1 0).me.level ≠ 0 ∧ clean (at1 0) [7] = true ∧ (at1 0).me.freeSlotNo.isSome = true ∧
    [0, 8, 0x40, 0x78, 0x6F8].all (fun x => decide (x % 8 = 0) && decide (x ≤ 0x6F8)) = true ∧
    (∃ id u l, (demo 0).launchOf 0 = some (id, u, l) ∧ (l.scr == 0) = true) ∧
    (∃ id u l, (logging 0 (demo 0)).launchOf 0 = some (id, u, l) ∧ (l.scr == 1 && !l.logFull u &&
      (match (logging 0 (demo 0)).check2 (State.deviceWho l.ctx 0) .store 0 (l.logAt u) 16 0 with
        | .ok [p] => p.size == 16 && p.idx == 0
        | _ => false)) = true) ∧
    (∃ id u l, (logging 65520 (demo 0)).launchOf 0 = some (id, u, l) ∧ (l.scr == 1 && !l.logFull u) = true) ∧
    (∃ id u l, (logging 65536 (demo 0)).launchOf 0 = some (id, u, l) ∧ (l.scr == 1 && l.logFull u) = true) := by
  refine ⟨?_, ?_, ?_, ?_, ?_, ex_launch ?_, ex_launch ?_, ex_launch ?_, ex_launch ?_⟩ <;> decide +kernel

/-- Requests and revocations: at the bounds of a range and of a number, and while one waits for its units. -/
theorem test_witness_Ranges :
    let s (d a b : Dword) : State := atLevel 1 (regs [(9, d), (7, a), (8, b)])
    let good (va n : Nat) : Bool := va % 65536 == 0 && canonical va && n != 0 && n % 65536 == 0 && canonical (va + n - 1) &&
      !(decide (va < 2 ^ 56) && decide (2 ^ 56 < va + n))
    let v (r : Bool) (xs : List Nat) : Inval := { core := 0, revoke := r, base := 0x20000, len := 65536, asid := 1, toReach := xs, toAck := [] }
    let held (r : Bool) (xs : List Nat) : State := { s 1 0x20000 65536 with invals := [(0, v r xs)] }
    clean (s 1 0x20000 65536) [7, 8, 9] = true ∧ (s 1 0x20000 65536).me.inflight = [] ∧ (s 1 0x20000 65536).invals = [] ∧
    (good 0x20000 65536 && good 0 65536 && good (2 ^ 56 - 65536) 65536 && !good 0x20001 65536 && !good 0x20000 0) = true ∧
    [false, true].all (fun r => (held r [10240]).invalOf 0 r == some (0, v r [10240]) && (held r []).invalOf 0 r == some (0, v r [])) = true ∧
    (s 1 0x20000 65536).hasTask 1 = true ∧ (s 1 0x20000 65536).hasTask 63 = false ∧ ((s 1 0x20000 65536).context 1).revoked.length < 16 ∧
    16 ≤ (((s 1 0x20000 65536).modContext 1 (fun c => { c with revoked := List.replicate 16 (0, 65536) })).context 1).revoked.length := by
  decide +kernel

/-- TRAP at each level that has a handler; stops, sleeps and wakes; a square's and a single core's event flags; a task with
a follower. -/
theorem test_witness_TrapsStopsAndEvents :
    let s := handled (regs [(7, 0)])
    let asked (s : State) : State := s.modMe (fun k => { k with stopReq := [.preempt true false] })
    let live : Dword := BitVec.ofNat 64 (2 + 2 ^ 50)
    let ranged := (asked (regs [(7, live)])).modMe (words 0 [1 + 2 ^ 13])
    (s.me.loadsOut = false ∧ s.tvec 0 ≠ 0 ∧ s.me.level ≠ 2 ∧ (atLevel 1 s).me.level ≠ 2) ∧
    (liveOk 1 = false ∧ liveOk live = true ∧ s.preemptible s.cur = false ∧ ranged.preemptible ranged.cur = true ∧ ((asked (loading s)).preemptible s.cur = true ∧ (asked (loading s)).me.loadsOut = true) ∧ ranged.me.liveRanges live = some [(256, 256)] ∧
      (asked s).me.liveRanges live = none) ∧ (s.me.eventFlag = false ∧ s.me.stopReq = [] ∧ (asked s).me.stopReq ≠ [] ∧
    (s.modMe (fun k => { k with eventFlag := true })).me.eventFlag = true ∧ s.me.sideOf 7 = false ∧ s.me.inflight = [] ∧
    (loading s).me.inflight ≠ []) ∧ (∃ id u l, s.launchOf 0 = some (id, u, l) ∧ (s.coreOfVirtual id 0 l == some 0 && l.ctx == 1) = true) ∧
    s.me.cmds = [] ∧ s.me.saWait = none ∧ s.me.gangWait = none ∧ (s.square 0).gang = none ∧ s.followersOf 0 = [] := by
  refine ⟨?_, ?_, ?_, ex_launch ?_, ?_⟩ <;> decide +kernel

/-! ### Issued work -/

/-- The local ranges of a command of core 0. -/
def rangesOf (w : CmdKind) : List (Nat × Nat × Bool) := match w with
  | .lmzero a n => [(a % 2 ^ 21, n, true)]
  | .lmcopy a b n => [(a % 2 ^ 21, n, true), (b % 2 ^ 21, n, false)]
  | .lmcmp a b n _ => [(a % 2 ^ 21, n, false), (b % 2 ^ 21, n, false)]
  | w => w.localRanges (demo 0).me

/-- `s` with issued commands of core 0, numbered from 1. -/
def issued (ws : List CmdKind) (s : State) : State := s.modMe (fun k => { k with
  cmds := ws.mapIdx (fun i w => { mkCmd w 0 (rangesOf w) with id := i + 1, num := i + 1 }) })

/-- An issued command of core 0 of `demo`. -/
def cmdOf (w : CmdKind) : Cmd := { mkCmd w 0 (rangesOf w) with id := 1, num := 1 }

/-- Whether command `id` is there and neither an older one nor a REL holds it back, with no error to meet. -/
def mayRun (id : Nat) (s : State) : Bool := match List.find? (fun y => y.id == id) s.me.cmds with
  | some x => !s.me.conflicts x && !s.me.relHolds x && s.errors.isEmpty && x.sent == 0 && x.got.isEmpty && x.refusals.isEmpty &&
    !s.behindRefused 0 x
  | none => false

/-- Whether the layers of command `id`'s ranges serve it, and it has staged nothing. -/
def served (id : Nat) (s : State) : Bool := match List.find? (fun y => y.id == id) s.me.cmds with
  | some x => okUnit (s.me.rangesServe x) && x.staged == none
  | none => false

/-- Whether a copy's ranges check good and its bytes may move: its source and destination spaces as CPY derives them. -/
def copies (d sp a b n : Nat) : Bool :=
  let s := issued [.cpy d sp a b n] (demo 0)
  let w := s.cmdWho 0 (cmdOf (.cpy d sp a b n))
  let ss := if d = 0 then 1 else spSpace sp
  let ds := if d = 1 then 1 else spSpace sp
  match s.rangeCheck w ss .load false b n, s.rangeCheck w ds .store false a n with
  | .ok ps, .ok qs => mayRun 1 s && ps.all (fun p => ss == 1 || !s.refuses 0 1 p.pa) && qs.all (fun q => ds == 1 || !s.refuses 0 1 q.pa) &&
      (!(decide (2 ≤ ss) && decide (2 ≤ ds)) || !partsMeet ps qs) && (partAddrs ps).length == n && (partAddrs qs).length == n &&
      decide (partAddrs qs).Nodup && decide ((CmdKind.cpy d sp a b n).steps s.me = (CmdKind.cpy d sp a b n).moves s.me)
  | _, _ => false

/-- `s` with one line of device memory in a given state. -/
def lineAt (n : Nat) (l : Line) (s : State) : State := { s with lines := [(n, l)] }

/-- One command of each kind performs: an LMCMP of equal and of differing ranges, a reduction that is new and one that its
launch has begun, a multicast of a present line to bound cores, copies of each direction; a staged row that faults. -/
theorem test_witness_EngineCommandsPerform :
    let s := demo 0
    let lm := issued [.lmzero 0x100000 256, .lmcopy 0x100400 0x100800 256, .lmcmp 0x100C00 0x101000 256 6, .lmcmp 0x100C00 0x100D00 256 6] s
    let cmp := lm.modMe (fun k => { (k.lsWrite 0x100D00 [(1, false)]) with loads := [(0, 1)], pend := [(6, 0)] })
    let red := issued [.redsend 0 0 0x100 1 0] (tabled s)
    let begun (r : Red) : State := { red with reds := [(0, r)] }
    let r : Red := { launch := 0, tree := 0, inst := 0, ordinal := 0, given := [], sent := [], flushed := [], flushing := false, timedOut := false,
                     isOver := false }
    let ep := (issued [.mepi 0 0x100] s).modMe (fun k => { k with cmds := k.cmds.map (fun x => { x with staged := some [(0x100, [(7, false)])] }) })
    let busy (b : Bool) : State := s.modMe (fun k => { k with layerB := { k.layerB with on := false, busy := b } })
    let layers := [(cmdOf (.lmzero 0x100000 256), busy true), (cmdOf (.lmzero 0x100100 256), busy false)]
    let mc := lineAt 192 { Line.reset with valid := 0xFF, way := 3 } (issued [.mcrd 0x30000 0x100 256 1 0 0 0 0] s)
    [1, 2, 3, 4].all (fun i => mayRun i lm && served i lm) = true ∧ layers.all (fun e => match e.2.me.rangesServe e.1 with
      | .hold => e.1.word == .lmzero 0x100000 256 | .fault _ => e.1.word == .lmzero 0x100100 256 | _ => false) = true ∧
    (Map.find? cmp.me.pend 6 = some 0 ∧ cmp.me.lsRd 0x100C00 ≠ cmp.me.lsRd 0x100D00 ∧ cmp.me.lsRd 0x101000 = cmp.me.lsRd 0x100C00) ∧
    (mayRun 1 (issued [.tladv] s) = true ∧ (issued [.tladv] s).me.cmds.head?.isSome = true) ∧ (mayRun 1 red && served 1 red) = true ∧
    (∃ id u l, red.launchOf 0 = some (id, u, l) ∧ (let tr := red.tree l 0 0; tr.v && decide (red.redFind id 0 (l.instOf tr.lvl u) 0 = none) &&
      decide ((begun r).redFind id 0 (l.instOf tr.lvl u) 0 = some (0, r)) && !Map.has r.sent (l.vcore u / 4) && !Map.has r.given u && !l.dbl) = true) ∧
    (mayRun 1 ep = true ∧ (ep.square 0).gang = none ∧ okUnit (ep.me.checkLocal 0x100 1) = true) ∧ mayRun 1 mc = true ∧
    (∃ ps, mc.check2 (mc.cmdWho 0 (cmdOf (.mcrd 0x30000 0x100 256 1 0 0 0 0))) .load 0 0x30000 256 0 = .ok ps ∧
      (decide (mcrdLines 0x30000 256 = [(0, 0x30000, 256, 0)]) && decide ((ps.map (·.pa)).head? = some 0x30000) &&
        ps.all (fun p => decide (0x30000 ≤ p.va) && decide (p.va < 0x30000 + 256)) && !mc.refuses 0 1 0x30000 && !mc.mcastFills 192 &&
        decide (sectorsOf 0x30000 (ps.foldl (fun n p => n + p.size) 0) &&& ~~~(mc.line 192).valid = 0)) = true) ∧
    (∃ id u l, mc.launchOf 0 = some (id, u, l) ∧ (match l.taskAt 0 with | some d => (l.task d).bound && l.scr == 0 | none => false) = true) ∧
    (match s.me.checkLocal (2 ^ 21 - 32) 64 with | .fault _ => true | _ => false) = true ∧
    (mayRun 1 (issued [.xsend 0 0x100 256 0 0x200] s) && served 1 (issued [.xsend 0 0x100 256 0 0x200] s)) = true ∧
    (copies 0 0 0x30000 0x100 64 && copies 1 0 0x100 0x30000 64 && copies 2 0 0x40000 0x30000 64 && copies 0 1 0x30000 0x100 1) = true := by
  refine ⟨?_, ?_, ?_, ?_, ?_, ex_launch ?_, ?_, ?_, ex_ok' ?_, ex_launch ?_, ?_⟩ <;> decide +kernel

/-- `s` with entries in the exchange buffer of core 0's square. -/
def placed (es : List XEntry) (s : State) : State := s.modSquare 0 (fun q => { q with xbuf := es })

def xentry (va size : Nat) (kind : XKind) : XEntry :=
  { core := 0, launch := 0, task := 0, pc := 0x10000, va := va, pa := va, start := va, size := size, privileged := false, kind := kind, step := 0,
    id := 1, cache := 0, slot := none, refusals := 0 }

/-- An entry of each kind performs; a store to a page that the launch does not lease faults, its task running, stopped and
waiting at a barrier. -/
theorem test_witness_SlicesServeRequests_entries :
    let who : Who := { core := 0, unit := 0, ctx := 1, privileged := false, leases := ((demo 0).launch? 0).elim [] Launch.leases }
    let st := xentry 0x30000 8 (.store 2 (natBytes 8 5) false)
    let at' := xentry 0x30000 8 (.atomic .add 8 1 0 false)
    let bad := xentry 0x40000000 8 (.store 2 (natBytes 8 5) false)
    let halted := placed [bad] ((demo 0).modMe (fun k => { k with stopped := some { live := none, ranges := [], cause := 0x12 } }))
    let waiting := placed [bad] (inPhase (.wait 0) (demo 0))
    [st, at', bad].all (fun e => decide ((placed [e] (demo 0)).entryHead 0 0 = some e) && (placed [e] (demo 0)).entryMay e) = true ∧
    (∃ l, (demo 0).launch? 0 = some l ∧ (l.leases == who.leases && l.ctx == 1 && l.scr == 0 && !(l.task 0).ended && decide ((l.task 0).phase = .compute)) =
      true) ∧
    (∃ ps, (demo 0).checkSpace who 2 .store 0 0x30000 8 0 = .ok ps ∧
      (ps.all (fun p => !(demo 0).refuses 0 1 p.pa && decide (p.idx + p.size ≤ 8)) && decide (partAddrs ps).Nodup) = true) ∧
    (∃ ps, (demo 0).checkSpace who 2 .atomic 0 0x30000 8 0 = .ok ps ∧ (ps.length == 1 && ps.all (fun p => !(demo 0).refuses 0 1 p.pa)) = true) ∧
    ((demo 0).square 0).revocable = false ∧ (match (demo 0).checkSpace who 2 .store 0 0x40000000 8 0 with | .fault _ => true | _ => false) = true ∧
    (demo 0).me.task = some (0, 0) ∧ (demo 0).me.stopped = none ∧ (halted.me.stopped ≠ none ∧ halted.entryMay bad = true) ∧
    (∃ l, waiting.launch? 0 = some l ∧ (decide ((l.task 0).phase = .wait 0) && waiting.entryMay bad) = true) := by
  refine ⟨?_, ex_some' ?_, ex_ok' ?_, ex_ok' ?_, ?_, ?_, ?_, ?_, ?_, ex_some' ?_⟩ <;> decide +kernel

/-- `loading` with its access's line in a given state, and reservations of it by others. -/
def lined (l : Line) (rs : List (Nat × Nat × Nat)) (s : State) : State :=
  let s := loading s
  lineAt 192 l (s.modSlice (s.homeOf 192) (fun x => { x with reservations := rs }))

/-- A request refused by a busy line and by another's reservation, for the first and the fourth time; one that fills a
missing sector and one that need not; a response. -/
theorem test_witness_SlicesServeRequests_requests :
    let s := loading (demo 0)
    let p := mkPart 0x30000 0x30000 4 2 0
    let a := { mkAccess .load 2 ⟨0, 0, 0, 0, false⟩ 4 (.reg 6) (some 0) [p] with id := 9 }
    let toHost := { a with space := 4 }
    let toDev := { a with space := 3, parts := [{ p with dev := 7, ask := (0x30000, 4) }] }
    let sent := s.modMe (fun k => { k with inflight := [{ a with sent := true }] })
    let busy := lined { Line.reset with filling := 1 } [] (demo 0)
    let wrote := lined { Line.reset with writing := 1, way := 3 } [] (demo 0)
    let other := { mkAccess .load 2 ⟨0, 0, 0, 0, false⟩ 4 (.reg 6) (some 0) [p] with id := 1 }
    let kept := (lined { Line.reset with valid := 1, way := 3 } [(192, 5, 1)] (demo 0)).modCore 5 (fun k => { k with inflight := [other] })
    s.access? 0 9 = some a ∧ memoryOf a.space = 2 ∧ s.mayPerform 0 a = true ∧ a.pending = some p ∧ 0 < p.size ∧ s.joins a p = false ∧
    (∃ id u l, s.launchOf 0 = some (id, u, l) ∧ (l.scr == 0) = true) ∧ (busy.refuses 0 9 0x30000 && wrote.refuses 0 9 0x30000 &&
      kept.refuses 0 9 0x30000 && !s.refuses 0 9 0x30000) = true ∧
    ((s.line 192).valid.getLsbD 0 = false ∧ (s.victim 192).1 ≠ 16 ∧ p.ca ≠ 3 ∧ (1 : BitVec 12) ≠ 0 ∧ (kept.line 192).valid.getLsbD 0 = true) ∧
    a.sent = false ∧ a.kind ≠ .rel ∧ s.errors = [] ∧ (sent.access? 0 9 = some { a with sent := true } ∧ Map.find? sent.me.pend 6 = some 0 ∧ sent.me.early = []) ∧
    ((toHost.requests.all (fun o => o.dev == 2 ^ 18) && !toDev.requests.all (fun o => o.dev == 2 ^ 18)) = true ∧
      takeAnswers (toDev.requests.flatMap Outgoing.pieces) [] = none ∧
      (takeAnswers (toDev.requests.flatMap Outgoing.pieces) [⟨32, 7, ⟨.answer, 0, 0x30000, 4, natBytes 4 9⟩⟩]).map (fun r => (r.1, r.2.1, r.2.2.length)) = some (natBytes 4 9, false, 0)) := by
  refine ⟨?_, ?_, ?_, ?_, ?_, ?_, ex_launch ?_, ?_⟩ <;> decide +kernel

/-- `s` in which context 1 alone has a root table in device memory. -/
def unmapped (s : State) : State := { s with contexts := (List.range Config.contexts).map (fun n =>
  (n, if n = 1 then s.context 1 else { Context.reset with inForce := [(0x43, 0xFFFFFFFFF000)] })) }

/-- A finished fill and write-backs, with a way and without; a region with a clean line and with a dirty one, which one context maps. -/
theorem test_witness_SlicesServeRequests_lines :
    let fill := lineAt 192 { Line.reset with filling := 1, way := 3 } (demo 0)
    let wrote (w : Nat) : State := lineAt 192 { Line.reset with writing := 1, way := w } (demo 0)
    let held (d : BitVec 8) : State := lineAt 192 { Line.reset with valid := 1, dirty := d, way := 3 } (unmapped (demo 0))
    ((fill.line 192).filling ≠ 0 ∧ (fill.line 192).way ≠ 16 ∧ (fill.line 192).mcast = false ∧ ((wrote 3).line 192).writing ≠ 0 ∧
      ((wrote 16).line 192).way = 16) ∧
    ((fill.slice (fill.homeOf 192)).reservations = [] ∧ fill.cores.all (fun e => e.2.inflight.isEmpty) = true ∧
      Map.find? fill.moving (192 / 2048) = none ∧ fill.inbound = []) ∧
    ((held 0).undo = [] ∧ ((List.range Config.contexts).filter ((held 0).ctxMaps 0)).length = 1 ∧ (held 0).inbound = [] ∧
      ((held 0).slice ((held 0).homeOf 192)).reservations = [] ∧ Map.find? (held 0).moving 0 = none ∧
      (held 0).lines.all (fun e => decide (e.1 / 2048 = 0) && !e.2.busy && e.2.way != 16 && e.2.dirty == 0) = true ∧
      (held 1).lines.all (fun e => decide (e.1 / 2048 = 0) && !e.2.busy && e.2.way != 16 && e.2.dirty != 0) = true ∧
      Map.sortedFrom 0 (held 1).lines = true) ∧ ([0, 5].length = 2 ^ 1 ∧ [7].length = 2 ^ 0 ∧ 11 < 12 ∧ 5 < Config.squares) := by
  refine ⟨?_, ?_, ?_, ?_⟩ <;> decide +kernel

/-! ### Outside -/

/-- A sent load of core 0. -/
def sentLoad (s : State) : State := s.modMe (fun k => { k with
  loads := [(0, 1)], pend := [(6, 0)],
  inflight := [{ mkAccess .load 3 ⟨0, 0, 0, 0, false⟩ 4 (.reg 6) (some 0) [mkPart 0x30000 0x30000 4 2 0] with id := 9, sent := true }] })

/-- A rejected access; requests of another device under an export: at its last byte and past it, writable and not, to a leased
range and one that is not; the host's window at its end and past it, with and without a checkpoint. -/
theorem test_witness_OutsideAccesses :
    let s := sentLoad (demo 0)
    let room (s : State) : Bool := decide (((s.heqctl.extractLsb' 48 16).toNat + 65536 - (s.heqctl.extractLsb' 32 16).toNat) % 65536 <
      2 ^ (s.heqctl.extractLsb' 20 4).toNat)
    let x : Export := { key := 9, ctx := 1, base := 0x30000, len := 8, writes := true }
    let q (kind : PayloadKind) (ofs : Nat) : Payload := { kind := kind, key := 9, ofs := ofs, size := 4, data := natBytes 4 7 }
    let sent (p : Payload) : Delivered := { port := 32, dev := 7, what := p }
    let next (s : State) : Option Delivered := List.find? (fun y : Delivered => y.dev == 7 && y.what.kind != .answer && y.what.kind != .reject) s.delivered
    let e (x : Export) (p : Payload) : State := { demo 0 with exports := [(4, x)], delivered := [sent p] }
    let chk (x : Export) (kind : Kind) : Checked (List Part) := let s := e x (q .load 4)
      s.check2 { core := walkerUnit, unit := 4, ctx := x.ctx, privileged := false, leases := s.ctxLeases x.ctx } kind 0 (x.base + 4) 4 0
    (∃ a, s.access? 0 9 = some a ∧ (a.sent && decide (a.parts.length = 1) && decide (a.dest = .reg 6) && a.slot == some 0 &&
      ((takeAnswers (a.requests.flatMap Outgoing.pieces) [{ sent (q .reject 0x30000) with dev := 0 }]).map (fun r => (r.2.1, r.2.2.length)) == some (true, 0)) &&
      { a with space := 4 }.requests.all (fun o => o.dev == 2 ^ 18)) = true) ∧ s.me.early = [] ∧
    Map.find? s.me.pend 6 = some 0 ∧ room s = true ∧
    (next (e x (q .load 4)) = some (sent (q .load 4)) ∧ (demo 0).inbound = [] ∧ q .load 4 ≠ q .store 4 ∧ next (e x (q .answer 4)) = none ∧ (demo 0).errors = [] ∧
      List.find? (fun y : Nat × Export => y.2.key == 9) (e x (q .load 4)).exports = some (4, x) ∧ (demo 0).exports = [] ∧
      (4 + 4 ≤ x.len ∧ x.len < 5 + 4)) ∧
    (let ls := (demo 0).ctxLeases 1; let revs := (demo 0).revokedFor walkerUnit 1; leasesHold ls revs .load x.base x.len = true ∧
      leasesHold ls [(0x30000, 65536)] .load x.base x.len = false ∧ leasesHold ls revs .load 0x40000000 8 = false) ∧
    ((q .physStore 4).data.length = (q .physStore 4).size ∧ 7 ∉ (demo 0).admitted ∧ 7 ∈ ({ demo 0 with admitted := [7] } : State).admitted ∧
      4 + 4 ≤ Config.memTop ∧ (List.range 4).all (fun j => !(demo 0).refuses Config.cores (demo 0).inboundNo (4 + j)) = true) ∧
    (∃ ps, chk x .store = .ok ps ∧ (ps.all (fun p => p.idx + p.size == 4 && !(demo 0).refuses Config.cores (demo 0).inboundNo p.pa) &&
      decide (partAddrs ps).Nodup) = true) ∧
    (∃ ps, chk x .load = .ok ps ∧ (ps.all (fun p => !(demo 0).refuses Config.cores (demo 0).inboundNo p.pa) && decide ((partAddrs ps).length ≤ 4096)) = true) ∧
    (match chk { x with base := 0x40000000 } .store with | .fault _ => true | _ => false) = true ∧
    ((demo 0).checkpointing = false ∧ (demo 0).bootFailed = false ∧ 2 ^ 36 - 8 + 8 ≤ 2 ^ 36 ∧ 2 ^ 36 < 2 ^ 36 - 8 + 9 ∧
      (demo 0).hapb.toNat / 2 ^ 36 * 2 ^ 36 + (2 ^ 36 - 8) + 8 ≤ Config.memTop ∧
      (List.range 8).all (fun j => !(demo 0).refuses Config.cores (demo 0).inboundNo ((demo 0).hapb.toNat / 2 ^ 36 * 2 ^ 36 + (2 ^ 36 - 8) + j)) = true) := by
  refine ⟨ex_some' ?_, ?_, ?_, ?_, ?_, ?_, ?_, ex_ok' ?_, ex_ok' ?_, ?_, ?_⟩ <;> decide +kernel

/-- A translation whose TLB is empty, full, and has the entry; invalidations at units of each kind, drained and not. -/
theorem test_witness_Translations :
    let entry (unit va : Nat) : TlbEntry := { unit := unit, asid := 1, va := va, size := 65536, leaf := 0xF }
    let full := (demo 0).modMe (fun k => { k with tlb := (List.range 8).map (fun i => entry 2 (65536 * (i + 16))) })
    let v (r : Bool) (xs ys : List Nat) : Inval := { core := Config.cores, revoke := r, base := 0x20000, len := 65536, asid := 1, toReach := xs, toAck := ys }
    let i : State := { demo 0 with invals := [(0, v false [0, 8192] []), (1, v false [] [0, 10240]), (2, v true [0] [])] }
    let away := i.modMe (fun k => { k with inflight :=
      [{ mkAccess .load 2 ⟨0, 0, 0, 0, false⟩ 4 .discard none [mkPart 0x20000 0x20000 4 2 0] with id := 1, ctx := 1 }] })
    ((demo 0).asid 1 = 1 ∧ canonical 0x30000 = true ∧ (match (demo 0).walk 1 0x30000 with | .leaf _ _ => true | _ => false) = true) ∧
    (tlbFind (demo 0).me.tlb 2 1 0x30000 = none ∧ 8 ≤ (full.me.tlb.filter (fun e => e.unit == 2)).length ∧
      tlbFind full.me.tlb 2 1 0x30000 = none ∧ (tlbFind [entry 0 0x30000] 0 1 0x30000).isSome = true) ∧
    (Map.find? i.invals 0 = some (v false [0, 8192] []) ∧ Map.find? i.invals 1 = some (v false [] [0, 10240]) ∧
      Map.find? i.invals 2 = some (v true [0] [])) ∧
    (i.drained 0 1 0x20000 65536 = true ∧ away.drained 0 1 0x20000 65536 = false) := by
  refine ⟨?_, ?_, ?_, ?_⟩ <;> decide +kernel

/-! ### The fabric -/

/-- A message of task 0 to itself. -/
def msgOf (b : MsgBody) : Msg :=
  { cls := 1, launch := 0, task := 0, superstep := 0, number := 3, ctx := 1, src := 0, here := 0, dst := 0, waypoint := none, vc := 0, body := b }

def sending (m : Msg) (s : State) : State := { tabled s with msgs := [(0, m)], msgId := 1 }

def copyAt (here : Nat) : Copy := { task := 0, here := here, waypoint := none, vc := 0 }

/-- A message short of its destination, a multicast with a copy under way; a fault entry round square 1 that one route meets and
another does not; the squares at which the hop goes either way round. -/
theorem test_witness_Messages_routes :
    let far (n : Nat) : Msg := { msgOf (.slotReturn 0 0 0) with dst := n }
    let e : Dword := BitVec.ofNat 64 (2 ^ 63 + 2 ^ 1 + 2 ^ 31 + 2 ^ 27 + 2 ^ 44)
    let hits (m : Msg) : Bool := (routeFrom ((demo 0).orderOf 1 1) m.dst 20 m.here).any (faultHits e 1)
    let s := (demo 0).modSquare 0 (fun q => { q with faults := [(0, e)] })
    (dimOrder 0 = [] ++ 0 :: [1, 2] ∧ coord 0 0 ≠ coord 3 0 ∧ coord 0 0 ≠ coord 8 0 ∧ coord 0 0 ≠ coord 9 0) ∧ (far 3).here ≠ (far 3).dst ∧
    hits (far 3) = true ∧ hits (far 32) = false ∧ List.find? (fun _ => hits (far 3)) (s.square 0).faults = some (0, e) ∧ faultWaypoint e = 16 ∧
    nextHop ((demo 0).orderOf 1 1) 0 16 = 16 ∧ (demo 0).square 0 = Square.reset ∧ (demo 0).reserves = [] ∧
    (∃ l, (demo 0).launch? 0 = some l ∧ (squareOf (l.pcore (copyAt 5).task) == 0) = true) ∧ ((demo 0).square 5).faults = [] := by
  refine ⟨?_, ?_, ?_, ?_, ?_, ?_, ?_, ?_, ?_, ex_some' ?_, ?_⟩ <;> decide +kernel

/-- Deliveries of each kind, new and seen, to a bound task whose ring slot or range its layers take; a multicast's last copy and
one that is not. -/
theorem test_witness_Messages_deliveries :
    let data := natBytes 256 7
    let c := sending (msgOf (.chan 0 0 1 data [])) (demo 0)
    let m := sending (msgOf (.mcast 0 [copyAt 0] 0x100 data [] 0 5)) (demo 0)
    let m2 := sending (msgOf (.mcast 0 [copyAt 0, copyAt 5] 0x100 data [] 0 5)) (demo 0)
    let x := sending (msgOf (.xslot 0 0 2 0x100 data [] 0 5)) (demo 0)
    let r := sending (msgOf (.slotReturn 0 0 0)) (demo 0)
    let seen := c.modMe (fun k => k.accept (msgOf (.chan 0 0 1 data [])))
    [c, x, r].all (fun s => match Map.find? s.msgs 0 with | some y => s.arrived 0 y | none => false) = true ∧
    [m, m2].all (fun s => match Map.find? s.msgs 0 with | some y => s.inTurn 0 y 0 && !s.me.seen y | none => false) = true ∧
    (∃ l, c.launch? 0 = some l ∧ ((l.task 0).bound && l.pcore 0 == 0 && (let e := c.chEntry l 0 0 1; c.me.takes e.base 256 && decide (e.slots ≠ 0))) =
      true) ∧
    c.me.seen (msgOf (.chan 0 0 1 data [])) = false ∧ seen.me.seen (msgOf (.chan 0 0 1 data [])) = true ∧
    (∃ id u l, c.launchOf 0 = some (id, u, l) ∧ (l.scr == 0) = true) ∧ okUnit (c.me.checkLocal 0x100 256) = true ∧
    (m.messagesOf 0 5 = true ∧ (demo 0).messagesOf 0 5 = false) := by
  refine ⟨?_, ?_, ex_some' ?_, ?_, ?_, ex_launch ?_, ?_⟩ <;> decide +kernel

/-- A reduction with every input and one that flushes; the time-out of a REDWAIT of a root. -/
theorem test_witness_Reductions :
    let p : Partial := { mask := 1, vals := [0x3F800000], pois := [false] }
    let r (f : Bool) : Red := { launch := 0, tree := 0, inst := 0, ordinal := 0, given := [(0, (0, p))], sent := [], flushed := [], flushing := f,
                                timedOut := f, isOver := false }
    let s := tabled (demo 0)
    let timed := (tabled (demo 0)).modMe (fun k => { k with redWait := some (0, 0) })
    (∃ y, s.redTree (r false) = some y ∧ (let (l, tr, ms, root) := y; (l.treeSquares tr ms root).contains root && root == 0 &&
      (r false).ready l tr ms root root && decide (ms = [0]) && (treeInputs tr.ord (l.treeSquares tr ms root) root root).all (fun n => Map.has (r true).sent n) &&
      !(r false).mixed && decide (nextHop tr.ord 1 0 = 0)) = true) ∧
    p.vals[0]? = some 0x3F800000 ∧ p.pois[0]? = some false ∧ timed.me.redWait = some (0, 0) ∧
    (∃ id u l, timed.launchOf 0 = some (id, u, l) ∧ (let tr := timed.tree l 0 0
      l.rootOf tr u == some u && decide (timed.redFind id 0 (l.instOf tr.lvl u) 0 = none) &&
        decide (({ timed with reds := [(0, r false)] } : State).redFind id 0 (l.instOf tr.lvl u) 0 = some (0, r false))) = true) := by
  refine ⟨ex_some' ?_, ?_, ?_, ?_, ex_launch ?_⟩ <;> decide +kernel

/-- A slot whose square is within its guard, at its limit and out of it; before and after its guard; judged and not. -/
theorem test_witness_Exchange :
    let m (n : Nat) : SlotMsg := { core := 0, cmd := 1, launch := 0, task := 0, step := 0, number := 0, cls := 0, peer := 0, ofs := 0x200,
                                   data := natBytes 256 7, pois := [], missed := n, hashes := none }
    let s (off : Int) (t : Dword) : State := ({ tabled (demo 0) with clock := t }).modSquare 0 (fun q => { q with slotMsgs := [m 0, m 1], offset := off })
    let judged := (s 0 20).modSquare 0 (fun q => { q with slotEnd := 1000, slotOut := false })
    List.find? (fun c => ((s 0 0).core c).task.isSome) ((List.range 4).map (4 * 0 + ·)) = some 0 ∧
    (∃ id u l, (s 20 20).launchOf 0 = some (id, u, l) ∧ (l.scr == 0 && l.sxc && decide ((s 20 20).schedule l 0 = (true, 20, 1, 1000)) &&
      decide (slotAt 1000 1 ((s 20 20).clockOf 0).toNat = some (0, 0, 1000)) && decide (slotAt 1000 1 ((s 20 19).clockOf 0).toNat = some (0, 0, 1000))) =
        true) ∧
    ((s 20 20).square 0).slotMsgs.filter ((s 20 20).slotDue 0) = [m 0, m 1] ∧
    (((s 20 20).square 0).offset.natAbs ≤ 20 ∧ 20 < ((s (-21) 0).square 0).offset.natAbs) ∧ ((s 0 0).launch? 0).isSome = true ∧
    (((s 20 20).square 0).slotEnd == 0 / 1000 * 1000 + 1000) = false ∧ ((judged.square 0).slotEnd == 0 / 1000 * 1000 + 1000) = true ∧
    (¬(0 / 1000 * 1000 + 1000 < ((s 20 20).square 0).slotEnd) ∧ ¬(0 / 1000 * 1000 + 1000 < (judged.square 0).slotEnd)) ∧ (m 0).hashes = none ∧
    ({ m 0 with hashes := some (5, 6) } : SlotMsg).hashes ≠ none ∧ (judged.square 0).slotOut = false := by
  refine ⟨?_, ex_launch ?_, ?_⟩ <;> decide +kernel

/-! ### Clocks, tempo, probes, layers -/

/-- A circuit to the time source, lit, and none; heads the arbiter affords and does not; a blocked queue; probes that return, end
and go on; slices without a valid vector and with one that can be written back; a fault table with a free entry. -/
theorem test_witness_ClocksTempoArbiterAndProbes :
    let s := demo 0
    let lit : State := { s with ports := [(31, { Port.reset 31 with lit := true, circuit := some 7 })], grandmaster := Config.deviceNo + 1 }
    let work (d : Nat) : State := s.modMe (fun k => { k with uops := [⟨4, 8⟩, ⟨1, 4⟩], deficit := d })
    let full := s.modMe (fun k => { k with uops := List.replicate 16 ⟨4, 8⟩ })
    let probe (p : Probe) : State := { s with probes := [(0, p)] }
    let p : Probe := { origin := 5, here := 6, hops := 1, seen := [] }
    let q (n : Nat) : Column := { Column.reset with volts := n }
    (lit.grandmaster ≠ Config.deviceNo ∧ (lit.port 31).lit = true ∧ (lit.port 31).circuit = some 7 ∧ (s.port 0).lit = false) ∧
    ((q 450).frozen = false ∧ 450 ≤ (q 450).volts ∧ ¬450 ≤ (q 449).volts) ∧
    ((work 8).me.uops = [⟨4, 8⟩, ⟨1, 4⟩] ∧ (8 ≤ (work 8).me.deficit ∧ (work 7).me.deficit < 8) ∧
      [1, 2, 3].all (fun d => (s.core d).uops.isEmpty && (s.core d).deficit == 0) = true ∧
      [0, 1, 2, 3].all (fun i => decide ((s.square 0).groupBusy i ≤ 1)) = true ∧ 8 / 4 < 256) ∧
    (full.reserveUsed (uopReserve 0) = false ∧ full.blocked (uopReserve 0) = true ∧ s.blocked (uopReserve 0) = false ∧ s.reserveUsed 5 = false ∧
      s.blocked 5 = true) ∧
    (Map.find? (probe p).probes 0 = some p ∧ p.here ≠ p.origin ∧ p.hops < 64 ∧ p.here ∉ p.seen) ∧
    (∃ id u l, (probe p).launchOf ((probe p).firstBound (5 / 128)) = some (id, u, l) ∧ (l.scr == 0) = true) ∧
    (s.me.task.isSome = true ∧ s.ctxOf 0 ∈ [1] ∧ s.ctxOf 1 ∉ [1]) ∧
    ((s.slice 0).vecs = [] ∧ (s.evictEach 0 []).2.isSome = true ∧
      (let v := backed (withVec s)
       ((v.slice 0).vecs.filter (fun e => e.2.valid)).map (·.1) = [0] ∧ (v.evictEach 0 [0]).2.isSome = true ∧
        (let held := (withVec s).wrBytes 0x3000 (markBytes false (natBytes 8 (2 ^ 5 + 0x4F))); (held.evictEach 0 [0]).2.isSome = false) ∧
          [0, 1, 15].all (fun i => decide ((s.vec 0 i).st ≠ 1)) = true)) ∧
    (Map.get 0 (s.square 3).faults 0).getLsbD 63 = false := by
  refine ⟨⟨Nat.succ_ne_self _, ?_⟩, ?_, ?_, ?_, ?_, ex_launch ?_, ?_, ?_, ?_⟩ <;> decide +kernel

/-- A layer asked off and on, at each end of its transitions; a bank's word within its threshold, at it and past it, in a column
under 500 mV and at it, with a journal entry in its reserve and without; a line's sector, clean and dirty; a bus with a spare,
without one, and retraining. -/
theorem test_witness_LayersPromotionAndScrubbing :
    let s := demo 0
    let layer (l : Layer) : State := s.modMe (fun k => { k with layerA := l })
    let down := layer { Layer.reset with want := false, busy := true, down := true }
    let off := layer { Layer.reset with want := false, on := false, busy := true, down := true }
    let up := layer { Layer.reset with on := false, busy := true }
    let banked (n : Nat) : State := s.modMe (fun k => { k with banks := [(0, { Bank.reset with count := n })] })
    let kept := (banked 64).modMe (fun k => { k with journal := [(0, [], [], 0)] })
    let under := { banked 64 with columns := [(0, { Column.reset with volts := 490 })] }
    let bus (b : Bus) : State := s.modMe (fun k => { k with buses := [(0, b)] })
    let line (d : BitVec 8) : State := lineAt 0 { Line.reset with valid := 1, dirty := d } s
    (s.me.layer false).busy = false ∧ (s.me.layer false).on = true ∧ down.me.layerOwes false = false ∧
    ((down.me.layer false).busy && (down.me.layer false).down && (down.me.layer false).on && !(off.me.layer false).on && !(off.me.layer false).want &&
      (up.me.layer false).busy && !(up.me.layer false).down && (up.me.layer false).want) = true ∧
    (Memory.wf none s.me.ls = true ∧ Map.sortedFrom 0 s.me.lsPois = true) ∧ s.me.task.isSome = true ∧ (s.core 1).task = none ∧ s.me.journal = [] ∧
    ((s.err 1).escr.getLsbD 0 && (s.err 3).escr.getLsbD 0 && (s.err 5).escr.getLsbD 0) = true ∧ (s.me.lsecc.extractLsb' 0 16).toNat = 64 ∧
    (s.me.bankAt 0 = 0 ∧ kept.me.reserveHolds 0 ≠ 0 ∧ s.me.reserveHolds 0 = 0 ∧
      ((s.modMe (fun k => { k with banks := [(0, { Bank.reset with waiting := true })] })).me.bank 0).waiting = true) ∧
    (((banked 63).me.bank 0).count + 1 ≠ 64 + 1 ∧ ((banked 64).me.bank 0).count + 1 = 64 + 1 ∧ ((banked 64).me.bank 0).promoted = false ∧
      ((banked 64).me.bank 0).waiting = false) ∧ ((under.column (columnOf (squareOf 0))).volts < 500 ∧ (under.me.bank 0).fresh = false ∧
      500 ≤ ((banked 64).column (columnOf (squareOf 0))).volts) ∧
    (Map.has (line 0).lines 0 && ((line 0).line 0).valid.getLsbD 0 && !((line 0).line 0).dirty.getLsbD 0 && ((line 1).line 0).dirty.getLsbD 0) = true ∧
    ((s.me.bus 0).repairing = false ∧ (s.me.bus 0).spares ≠ 0 ∧ ((bus ⟨4, 0, false⟩).me.bus 0).spares = 0 ∧ ((bus ⟨1, 3, true⟩).me.bus 0).repairing = true) ∧
    (s.launchOf 0).isSome = true ∧ s.me.loadsOut = false ∧ (loading s).me.loadsOut = true := by
  decide +kernel

/-! ### The scheduler -/

/-- Queue 3 with `extra` added to a good record at its head. -/
def heading (extra : Nat) (s : State) : State :=
  (ring 1 s).wrBytes 0x50000 (markBytes false (natBytes 256 (placeRecord.toNat + extra)))

/-- A record that is resolved, one that fails its checks, leases that fail, are unmapped or migrate. -/
theorem test_witness_SchedulerRuns_leaseWalk :
    let s := heading 0 (demo 0)
    let walk (x : Nat) : Option (Nat × LeaseWalk) := (heading x (demo 0)).walkLeases ((heading x (demo 0)).headLaunch 3) (List.range 8)
    let second (base : Nat) : Nat := (base / 65536 * 2 ^ 16 + 2 ^ 64 + 2 ^ 106) * 2 ^ 1152
    let moving := (heading (second (2 ^ 30)) (demo 0)).wrBytes 0x3008 (markBytes false (natBytes 8 (2 ^ 30 + 0x4F)))
    ((s.lqueue 3).active = true ∧ (s.head 3).leases ≠ some true ∧ (s.head 3).asked = false) ∧
    (s.recordOk (s.headLaunch 3) = true ∧ s.contextOk (s.headLaunch 3).ctx = true) ∧
    (s.modContext 1 (fun c => { c with inForce := Map.put c.inForce 0x44 0 })).contextOk 1 = false ∧ s.recordOk ((heading 1 (demo 0)).headLaunch 3) = false ∧
    ((List.range 8).all (s.headLaunch 3).leaseOk = true ∧ ((heading (2 ^ 1152 + 2 ^ (1152 + 106)) (demo 0)).headLaunch 3).leaseOk 1 = false ∧
      ((heading (2 ^ 1152 + 2 ^ (1152 + 106)) (demo 0)).headLaunch 3).leaseOk 0 = true) ∧
    walk 0 = none ∧ (s.chTableOk (s.headLaunch 3) 0 && (List.range 4).all (s.rtOk (s.headLaunch 3) 0) && s.poolOk (s.headLaunch 3)) = true ∧
    walk (second (2 ^ 40)) = some (1, .unmapped (2 ^ 40)) ∧ moving.walkLeases (moving.headLaunch 3) (List.range 8) = some (1, .migrating (2 ^ 30)) := by
  refine ⟨?_, ?_, ?_, ?_, ?_, ?_, ?_, ?_, ?_⟩ <;> decide +kernel

/-- A head whose walk is done and a free square, with its context's window good and lost; a task that waits for its core, with
and without a remote tensor, and circuits lit and dark; heads that wait; a ring's limit. -/
theorem test_witness_SchedulerRuns_starts :
    let s0 := heading 0 (demo 0)
    let s := { s0 with heads := [(3, { Head.reset with leases := some true })] }
    let lost := s.modContext 1 (fun c => { c with inForce := Map.put c.inForce 0x44 0 })
    let l := s.headLaunch 3
    let waiting := { s with heads := [(3, { Head.reset with leases := some false, waitsCtx := some 1, asked := true })] }
    let part := record (2 ^ 665 + 2 ^ 667 + 2 ^ 653) (demo 0)
    (s.selected = some (3, .fresh 3, l) ∧ s.placeable l [1] = true ∧ s.contextOk l.ctx = true ∧ s.slices = []) ∧
    (lost.selected = some (3, .fresh 3, lost.headLaunch 3) ∧ s.candidates.takeWhile (fun i => !s.firstFits i) = [] ∧ lost.placeable (lost.headLaunch 3) [1] = true ∧ lost.contextOk 1 = false) ∧
    s.placeable l [0] = false ∧
    (let p := { l with place := [1] }
     p.count = 4 ∧ p.buffersReady 3 = true ∧ p.pcore 3 = 7 ∧ (s.core 7).task = none ∧ (s.core 7).inflight = [] ∧ (s.core 7).cmds = []) ∧
    (∃ l, part.launch? 0 = some l ∧ (l.tbRem 0 && !(l.task 1).begun && l.tbLen 0 == 256 && decide (1 < l.count) && !l.buffersReady 1) = true) ∧
    (part.litTo 0 = false ∧ (part.modPort 0 (fun p => { p with circuit := some 0, lit := true })).litTo 0 = true) ∧
    (∃ l, (demo 0).launch? 0 = some l ∧ (!l.dbl && !(l.task 1).bound && !(l.task 1).begun && !(l.task 1).ended && l.buffersReady 1 && !l.saved &&
      !l.preempting && l.pcore 1 == 1 && ((demo 0).core 1).task.isNone && ((demo 0).core 1).inflight.isEmpty && ((demo 0).core 1).cmds.isEmpty) = true) ∧
    ((waiting.head 3).asked = true ∧ (waiting.head 3).waitsCtx = some 1) ∧ (64 ≤ (64 : Dword).toNat ∧ (63 : Dword).toNat < 64) ∧
    crAccepts 0x93 0x0001000000100001 = true := by
  refine ⟨?_, ?_, ?_, ?_, ex_some' ?_, ?_, ex_some' ?_, ?_, ?_, ?_⟩ <;> decide +kernel

/-! ### Stops, saves, restores -/

/-- Context 1 with a pool of `n` save slots at `va`. -/
def pooled (n : Nat) (va : Dword) (s : State) : State := s.modContext 1 (fun c => { c with
  inForce := Map.put (Map.put c.inForce 0x4A va) 0x4B (BitVec.ofNat 64 n) })

def stopping (rs : List StopReq) (s : State) : State := s.modMe (fun k => { k with stopReq := rs })

/-- Launches that may and may not be asked to stop; requests in each state; each kind of stop that is due. -/
theorem test_witness_Stops :
    let s := pooled 4 0x100000 (demo 0)
    let l (f : Launch → Launch) : State := s.modLaunch 0 f
    s.savn 1 = 4 ∧ (demo 0).savn 1 = 0 ∧ (∃ l, s.launch? 0 = some l ∧ (!l.isOver && !l.saved && !l.preempting) = true) ∧
    (∃ k : Launch, (l (fun l => { l with preempting := true })).launch? 0 = some k ∧ k.preempting = true) ∧ s.me.task = some (0, 0) ∧
    ((stopping [.slotMiss 1, .preempt false false] s).me.stopReq = [.slotMiss 1] ++ .preempt false false :: []) ∧
    [StopReq.preempt true false, .preempt true true, .slotMiss 3, .engine 1 false 7 9, .deferred 0x03 false 0x10000 0 0].all
      (fun r => (stopping [r] (handled s)).dueStop 0 == some r) = true ∧ (stopping [.preempt false false] s).dueStop 0 = none ∧
    (handled s).tvec 0 ≠ 0 ∧ s.me.level ≠ 2 ∧ (s.launchOf 0).isSome = true := by
  refine ⟨?_, ?_, ex_some' ?_, ex_some' (p := fun k : Launch => k.preempting) ?_, ?_, ?_, ?_, ?_, ?_, ?_, ?_⟩ <;> decide +kernel

/-- A launch whose one bound core has stopped with s1 live; the save engine has the leaf of its save slot. -/
def stoppedLaunch (g : Option Saving) : State :=
  let w : Dword := 2
  { ((pooled 4 0x100000 (demo 0)).modMe (fun k => { k with stopped := some { live := some w, ranges := [], cause := 0x12 } })).modLaunch 0
    (fun l => { l with preempting := true, saving := g }) with heldLeaves := [{ unit := 0, asid := 1, va := 0, size := 2 ^ 30, leaf := 0xF }] }

theorem putBlocks_ends {s : State} {ctx c va n : Nat} {bs : List PBytes} (h : (s.putBlocks ctx c va n bs).2.isNone = true) :
    ∃ s', s.putBlocks ctx c va n bs = (s', none) :=
  ⟨(s.putBlocks ctx c va n bs).1, Prod.ext rfl (Option.isNone_iff_eq_none.mp h)⟩

/-- The image of that launch, and its last block after a fault, are written whole. -/
theorem test_witness_Saves :
    let s := stoppedLaunch none
    let g : Saving := { seq := 5, image := 0, block := 3, faulted := true }
    let f := (stoppedLaunch (some g)).modLaunch 0 (fun l => { l with saving := some { g with faulted := false } })
    let p : Stopped := { live := some 2, ranges := [], cause := 0x12 }
    let ready (s : State) (g : Option Saving) : Bool := match s.launch? 0 with
      | some l => s.saveReady l && decide (l.boundTasks = [0]) && l.pcore 0 == 0 && l.saving == g
      | none => false
    (ready s none && ready (stoppedLaunch (some g)) (some g)) = true ∧
    s.me.stopped = some p ∧ s.me.task = some (0, 0) ∧ s.slices = [] ∧
    (∃ s', State.putBlocks { s with saveSeq := s.saveSeq + 1 } 1 0 0x100000 0
      (s.image 0 0 0 (s.saveSeq + 1) p ((s.launch? 0).getD (Launch.ofRecord 0 0))) = (s', none)) ∧
    (∃ s', f.putBlocks 1 0 (0x100000 + 4096 * g.block) g.block
      ((f.image 0 0 0 g.seq p (((stoppedLaunch (some g)).launch? 0).getD (Launch.ofRecord 0 0))).drop g.block) = (s', none)) ∧
    (∃ ps, s.check2 (State.deviceWho 1 0) .store 0 0x100000 4096 0 = .ok ps ∧ (ps.all (fun p => decide (p.idx + p.size ≤ 4096) && !s.lineRefused p.pa p.size) && s.errors.isEmpty &&
      decide (ps.Pairwise (fun p q => p.pa + p.size ≤ q.pa ∨ q.pa + q.size ≤ p.pa))) = true) := by
  refine ⟨?_, ?_, ?_, ?_, putBlocks_ends ?_, putBlocks_ends ?_, ex_ok' ?_⟩
  · decide +kernel
  · decide +kernel
  · decide +kernel
  · decide +kernel
  · decide +kernel
  · decide +kernel
  · decide +kernel

theorem tag_bytes (t : BitVec 128) : BitVec.ofNat 128 (bytesNat (natBytes 16 t.toNat)) = t := by
  apply BitVec.eq_of_toNat_eq
  have ht : t.toNat < 2 ^ 128 := t.isLt
  simp only [natBytes, bytesNat, BitVec.toNat_ofNat]
  omega

/-- Memory that holds an image's tag and nothing else. -/
def tagCells (t : BitVec 128) : List Host.Cell := (natBytes 16 t.toNat).mapIdx (fun i b => (0x101000 + i, b))

theorem rd_tagCells (s : State) (t : BitVec 128) (h : s.mem = tagCells t) :
    (s.rdBytes 0x101000 16).map (·.1) = natBytes 16 t.toNat := by
  have e : natBytes 16 t.toNat = (List.range 16).map (fun i => (natBytes 16 t.toNat).getD i 0) := by
    simp [natBytes, List.range_succ]
  simp only [State.rdBytes, State.rd, h, List.map_map]
  rw [e]
  apply List.map_congr_left
  intro i hi
  simp only [List.mem_range] at hi
  simp only [Function.comp, Memory.read, tagCells, natBytes]
  obtain rfl | rfl | rfl | rfl | rfl | rfl | rfl | rfl | rfl | rfl | rfl | rfl | rfl | rfl | rfl | rfl : i = 0 ∨ i = 1 ∨ i = 2 ∨ i = 3 ∨ i = 4 ∨ i = 5 ∨ i = 6 ∨ i = 7 ∨ i = 8 ∨ i = 9 ∨ i = 10 ∨ i = 11 ∨ i = 12 ∨ i = 13 ∨ i = 14 ∨ i = 15 := by omega
  all_goals simp [Map.get]

theorem headAt_first {s : State} {p : Part} {ps : List Part} (h : 16 ≤ p.size) :
    headAt ((p :: ps).flatMap (fun p => s.rdBytes p.pa p.size)) 0 16 = bytesNat ((s.rdBytes p.pa 16).map (·.1)) := by
  have hl : (s.rdBytes p.pa p.size).length = p.size := by simp [State.rdBytes]
  simp only [headAt, List.drop_zero, List.flatMap_cons]
  rw [List.take_append_of_le_length (by omega)]
  congr 2
  simp only [State.rdBytes, ← List.map_take, List.take_range, Nat.min_eq_left h]

/-- What a block reads: its parts in order. -/
theorem getBlock_ok {s : State} {ctx c va : Nat} {ps : List Part} (h : s.check2 (State.deviceWho ctx c) .load 0 va 4096 0 = .ok ps) :
    s.getBlock ctx c va = some (ps.flatMap (fun p => s.rdBytes p.pa p.size)) := by
  simp only [State.getBlock, h]

/-- An image of one block whose tag is right checks good. -/
theorem checkImage_one {s : State} {ctx c va : Nat} {h : PBytes} {p : Part} {ps : List Part} {rs : List (Nat × Nat)}
    (hb : s.getBlock ctx c va = some h) (hp : s.check2 (State.deviceWho ctx c) .load 0 (va + 4096) 4096 0 = .ok (p :: ps))
    (hs : 16 ≤ p.size) (hg : h.any (·.2) = false) (hn : (imageShape h rs).foldl (· + ·) 0 = 0)
    (hr : ∀ i ∈ [1, 2, 3], (s.blockOk ctx c va h i).isSome = true)
    (hq : ((p :: ps).flatMap (fun p => s.rdBytes p.pa p.size)).any (·.2) = false)
    (ht : (s.rdBytes p.pa 16).map (·.1) = natBytes 16 (s.tagOf (headAt h 8 8 % 2 ^ 48) 0 h).toNat) :
    s.checkImage ctx c va rs = .ok [h] := by
  have hblk' : s.getBlock ctx c (va + 4096) = some ((p :: ps).flatMap (fun p => s.rdBytes p.pa p.size)) := by
    simp only [State.getBlock, hp]
  have h0 : s.blockOk ctx c va h 0 = some h := by
    have hq' : (((p :: ps).flatMap (fun p => s.rdBytes p.pa p.size)).take 16).any (·.2) = false := by
      rw [List.any_eq_false] at hq ⊢
      exact fun x hx => hq x (List.mem_of_mem_take hx)
    simp only [State.blockOk, Nat.mul_zero, Nat.add_zero, Nat.zero_div, Nat.zero_mod, Nat.mul_one, hb, hblk', hg, List.drop_zero, hq',
      headAt_first hs, ht, tag_bytes]
    simp
  obtain ⟨b1, h1⟩ := Option.isSome_iff_exists.mp (hr 1 (by simp))
  obtain ⟨b2, h2⟩ := Option.isSome_iff_exists.mp (hr 2 (by simp))
  obtain ⟨b3, h3⟩ := Option.isSome_iff_exists.mp (hr 3 (by simp))
  have hl : (imageBlocks h va rs).length = 4 := by simp [imageBlocks, hn]
  simp [State.checkImage, hb, hl, List.range_succ, h0, h1, h2, h3]

/-- A saved launch of context 1 whose one saved task has its slot at `va`, whose leaf the save engine has. -/
def savedLaunch (va : Dword) : State :=
  let kept : Kept := { ranges := [], entries := [], chans := [], accepted := [], redSent := [], redAwaited := [], sendNo := 0, qp := none,
                       eventFlag := false, following := false, stops := [] }
  { ((pooled 4 va (demo 0)).modMe (fun k => { k with task := none })).modLaunch 0 (fun l =>
    { l with saved := true, kept := [(0, kept)], tasks := [(0, { Task.reset with begun := true, saveSlot := some 0 })] }) with
      heldLeaves := [{ unit := 0, asid := 1, va := 0, size := 2 ^ 30, leaf := 0xF }] }

def restorable (s : State) : Bool := match s.launch? 0 with
  | some l => decide (s.selected = some (l.queue, .resumed 0, l)) && s.placeable l [1] && decide ((List.range l.count).filter (fun v => Map.has l.kept v) = [0]) && l.ctx == 1 &&
      s.slices.isEmpty && ({ l with place := [1] } : Launch).pcore 0 == 4
  | none => false

def zeroBlock : PBytes := (List.replicate 32 (List.replicate 128 (0, false))).flatten

def tagged (s : State) : State := { s with mem := tagCells (s.tagOf 0 0 zeroBlock) }

def taggedLaunch : State := tagged (savedLaunch 0x100000)

theorem zeroBlock_seq : headAt zeroBlock 8 8 % 2 ^ 48 = 0 := by decide +kernel

theorem tagOf_mem (s : State) (m : List Host.Cell) (n i : Nat) (b : PBytes) : ({ s with mem := m } : State).tagOf n i b = s.tagOf n i b := by
  simp only [State.tagOf]

theorem rd_tagged (s : State) (t : BitVec 128) : ((({ s with mem := tagCells t } : State).rdBytes 0x101000 16).map (·.1)) = natBytes 16 t.toNat :=
  rd_tagCells _ t (by simp only)

theorem tagged_reads (s : State) : ((tagged s).rdBytes 0x101000 16).map (·.1) = natBytes 16 ((tagged s).tagOf 0 0 zeroBlock).toNat := by
  rw [tagged, tagOf_mem]
  exact rd_tagged s _

/-- Whether no block of an image at `va` waits. -/
def blocksServed (s : State) (va : Nat) : Bool :=
  (imageBlocks ((s.getBlock 1 4 va).getD []) va []).all (fun a => !s.blockWaits 1 4 a) && s.errors.isEmpty

/-- The image of zeros checks good under its tag; one whose first block cannot be read does not. -/
theorem test_witness_Restores : (blocksServed taggedLaunch 0x100000 && blocksServed (savedLaunch 0x40000000) 0x40000000) = true ∧ restorable taggedLaunch = true ∧ restorable (savedLaunch 0x40000000) = true ∧
    taggedLaunch.checkImage 1 4 0x100000 [] = .ok [zeroBlock] ∧
    (match (savedLaunch 0x40000000).checkImage 1 4 0x40000000 [] with | .error a => a == 0x40000000 | .ok _ => false) = true := by
  refine ⟨by decide +kernel, by decide +kernel, by decide +kernel, ?_, by decide +kernel⟩
  have hb : taggedLaunch.getBlock 1 4 0x100000 = some zeroBlock := by
    obtain ⟨ps, h, hz⟩ : ∃ ps, taggedLaunch.check2 (State.deviceWho 1 4) .load 0 0x100000 4096 0 = .ok ps ∧
        decide (ps.map (fun p => taggedLaunch.rdBytes p.pa p.size) = List.replicate 32 (List.replicate 128 (0, false))) = true :=
      ex_ok' (by decide +kernel)
    rw [getBlock_ok h, List.flatMap_def, of_decide_eq_true hz, zeroBlock]
  have hp : ∃ ps, taggedLaunch.check2 (State.deviceWho 1 4) .load 0 (0x100000 + 4096) 4096 0 = .ok ps ∧
      (match ps with | p :: _ => p.pa == 0x101000 && decide (16 ≤ p.size) | [] => false) = true := ex_ok' (by decide +kernel)
  obtain ⟨ps, hp, hq⟩ := hp
  cases ps with
  | nil => cases hq
  | cons p ps =>
    simp only [Bool.and_eq_true, beq_iff_eq, decide_eq_true_eq] at hq
    refine checkImage_one hb hp hq.2 (by decide +kernel) (by decide +kernel) (by decide +kernel) ?_ ?_
    · have clear : (taggedLaunch.getBlock 1 4 (0x100000 + 4096)).elim true (fun b => b.any (·.2)) = false := by decide +kernel
      rw [getBlock_ok hp] at clear
      exact clear
    rw [hq.1, zeroBlock_seq]
    exact tagged_reads (savedLaunch 0x100000)

/-! ### Optical fabric, doubled runs, management -/

/-- A window boundary in and out of guard, rounds that grant and one that does not; ports that are enabled, lit and dark; a
tier port; tokens newer and stale, held and passed on, with and without frames; the frame awaited, a duplicate and a gap. -/
theorem test_witness_OpticalFabricAndDoubledRuns_links :
    let s := demo 0
    let on : Port := { Port.reset 3 with cfg := (Port.reset 3).cfg ||| 1, circuit := some 7, lit := true }
    let load : Payload := { kind := .load, key := 5, ofs := 64, size := 8, data := [] }
    let p : State := { s with ports := [(3, on), (25, { Port.reset 25 with cfg := (Port.reset 25).cfg ||| 1 })], outbox := [{ dev := 7, what := load }, { dev := 8, what := load }], clock := 2000 }
    ((s.afmw.extractLsb' 0 16).toNat = 50 ∧ s.clock.toNat % 50000 = 0 ∧ s.offset.natAbs ≤ 20 ∧ (s.afmw.extractLsb' 16 10).toNat = 20 ∧
      p.clock.toNat % 50000 ≠ 0 ∧ ¬(({ s with offset := -21 } : State).offset.natAbs ≤ 20)) ∧
    (p.matchRound 1 ([], []) ([(4, 10), (2, 10), (9, 3)], [7, 8, 6]) = ([2], [7]) ∧ p.matchRound 1 ([2], [7]) ([(2, 9)], [8]) = ([2], [7])) ∧
    ((p.port 3).cfg.getLsbD 0 = true ∧ (p.port 3).down = false ∧ (p.port 3).circuit = some 7 ∧ (p.port 3).lit = true ∧
      (p.port 3).changed.toNat + 2000 ≤ p.clock.toNat ∧ 22 ≤ 25 ∧ (p.port 25).cfg.getLsbD 0 = true) ∧
    (¬(2 ^ 15 ≤ ((1 : BitVec 16) - (p.port 3).gen).toNat) ∧ 2 ^ 15 ≤ ((0x8000 : BitVec 16) - (p.port 3).gen).toNat ∧
      (p.port 3).held = false ∧ ({ on with held := true } : Port).held = true) ∧
    (p.toSend 7 = [(none, load)] ∧ p.toSend 6 = [] ∧ p.loggedCores = [] ∧ ¬(2 ^ 15 ≤ ((1 : BitVec 16) - (p.peer 7).gen).toNat)) ∧
    ((0 : BitVec 32) = (s.peer 7).nextRecv ∧ 2 ^ 31 ≤ ((0xFFFFFFFF : BitVec 32) - (s.peer 7).nextRecv).toNat ∧
      ¬(2 ^ 31 ≤ ((1 : BitVec 32) - (s.peer 7).nextRecv).toNat) ∧ s.checkpointing = false ∧ load.kind ≠ .answer ∧ load.kind ≠ .reject) := by
  refine ⟨?_, ?_, ?_, ?_, ?_, ?_⟩ <;> decide +kernel

/-- Resets within a second; hashes that wait, match and differ in a doubled run; a replay; an inbox. -/
theorem test_witness_OpticalFabricAndDoubledRuns_copies :
    let s := demo 0
    let resets (ts : List Dword) : State := { s with ports := [(3, { Port.reset 3 with resets := ts })], clock := 1000000000 }
    let recent (s : State) : Nat := ((s.port 3).resets.filter (fun x => decide ((s.clock - x).toNat < 1000000000))).length
    let doubled := (record (2 ^ 18) s).modLaunch 0 (fun l => { l with place := [0, 1] })
    let pass (b : Bool) := s.modMe (fun k => { k with hashPass := some b })
    let held (h : Dword) (x : Option Dword) : State := (doubled.modMe (fun k => { k with hashWait := some h })).modCore 4 (fun k => { k with hashWait := x })
    let slotted (h x : Dword) : State := s.modSquare 0 (fun q => { q with slotMsgs := [⟨0, 1, 0, 0, 0, 0, 0, 0, 0x200, natBytes 256 7, [], 0, some (h, x)⟩] })
    let replay := record (2 ^ 23) s
    let f : Forward := { pc := 0x10000, words := [0], nextPc := 0x10004, seq := SeqCtx.reset, arrived := false }
    (recent (resets [1]) < 2 ∧ 2 ≤ recent (resets [2, 1]) ∧ recent (resets [2, 0]) < 2) ∧
    ((s.modMe (fun k => { k with hashWait := some 5 })).me.hashWait = some 5 ∧ s.me.hashWait = none ∧ s.me.hashPass = none) ∧
    (held 5 none).hashSent 0 5 = false ∧ (held 5 (some 5)).hashSent 0 5 = true ∧ s.hashSent 0 5 = true ∧ ((slotted 5 6).square 0).slotMsgs ≠ [] ∧
    ((slotted 5 6).me.hashWait = none ∧ (s.square 0).slotMsgs = [] ∧ (pass false).gangLoads 0 = false ∧ (loading (pass false)).gangLoads 0 = true) ∧
    ((pass true).me.hashPass = some true ∧ (pass false).me.hashPass = some false ∧ (pass false).me.loadsOut = false) ∧
    (∃ id u l, doubled.launchOf doubled.cur = some (id, u, l) ∧ l.dbl = true) ∧
    (∃ l, replay.launch? 0 = some l ∧ (l.scr == 2 && decide (0 < l.count) && l.sqIndex 0 == 0 && (l.task 0).bound && !(l.task 0).ended) = true) ∧
    (s.me.stopReq = [] ∧ (s.modMe (fun k => { k with inbox := [f] })).me.inbox = [] ++ f :: [] ∧ f.arrived = false) := by
  refine ⟨?_, ?_, ?_, ?_, ?_, ?_, ?_, ?_, ex_launch (p := fun _ _ l => l.dbl) ?_, ex_some' ?_, ?_⟩ <;> decide +kernel

/-- A device that has stopped and one that has not, its tier lit and dark, a checkpoint with nothing on its way; the last key;
a block of zeros that is good, and one that is too short. -/
theorem test_witness_ManagementController_checkpoints :
    let s := State.reset
    let lit := { s with ports := [(22, { Port.reset 22 with lit := true })] }
    let saving := { lit with checkpointing := true }
    (s.allStopped = true ∧ (demo 0).allStopped = false) ∧
    (s.checkpointing = false ∧ (lit.port 22).lit = true ∧ ¬(∃ p, 22 ≤ p ∧ p < 32 ∧ (s.port p).lit = true)) ∧
    (saving.checkpointing = true ∧ (∀ o ∈ saving.outbox, o.dev < 2 ^ 19) ∧ (∀ e ∈ saving.peers, 2 ^ 19 ≤ e.1 → e.2.window = []) ∧ saving.inbound = []) ∧
    (s.lmsIndex < 2 ^ 20 ∧ 2 ^ 20 ≤ ({ s with lmsIndex := 2 ^ 20 } : State).lmsIndex) ∧
    ((List.replicate 4096 (0 : Byte)).length = 4096 ∧ (List.replicate 4095 (0 : Byte)).length ≠ 4096 ∧ Map.sortedFrom 0 s.cores = true) := by
  refine ⟨?_, ⟨?_, ?_, ?_⟩, ?_, ?_, ?_⟩
  · decide +kernel
  · decide +kernel
  · decide +kernel
  · rintro ⟨p, _, hp, h⟩
    have : ∀ p < 32, (State.reset.port p).lit = false := by decide +kernel
    simp [this p hp] at h
  all_goals decide +kernel

/-- Values at the limits of what each register takes, a boot that failed and one that did not. -/
theorem test_witness_ManagementController :
    let good (v : Dword) : Bool := let burst := (v.extractLsb' 16 16).toNat; let tloss := (v.extractLsb' 32 20).toNat
      v.extractLsb' 52 12 == 0 && v.extractLsb' 2 14 == 0 && decide (4 ≤ burst) && decide (burst ≤ 1024) && decide (1000 ≤ tloss) &&
        decide (tloss ≤ 1000000) && decide (1024 * burst + 100000 ≤ 100 * tloss)
    let window (v : Dword) : Bool := let guard := (v.extractLsb' 16 10).toNat; let window := (v.extractLsb' 0 16).toNat
      decide (v.toNat < 2 ^ 26) && decide (1 ≤ guard) && decide (10 ≤ window) && decide (window ≤ 10000)
    (good 0x00000FA000400001 && good 0x000F424004000001 && !good 0x000003E804000001 && !good 0x00000FA000030001 && !good 0x00000FA000400004) = true ∧
    (window 0x140032 && window 0x1000A && window 0x3FF2710 && !window 0x140009 && !window 0x0032 && !window 0x4140032) = true ∧
    [0, 1, 2, 8, 0x0B, 0x40, 0x4B, 0x4D, 0x50, 0x57, 0x58, 0x5F, 0x80, 0x8F].all (fun n => crListed n && (crAccepts n 0 || crAccepts n 0x1E0040)) = true ∧
    (crListed 0x2FF = false ∧ crAccepts 0x4D 0x1E0040 = true ∧ crAccepts 0x4D 0 = false) ∧
    ((State.reset.column 0).milli ≤ 4096000 ∧ (State.reset.column 0).rate ≤ 4096) ∧
    (State.reset.bootFailed = false ∧ ({ State.reset with bootFailed := true } : State).bootFailed = true) := by
  refine ⟨?_, ?_, ?_, ?_, ?_, ?_⟩ <;> decide +kernel

/-! ### Clauses of the local store's order, a clash of levels and QPITER's exits -/

/-- A row access that crosses a bank row performs whole or in parts, and one at a raw row's start is whole; an LQG whose
second element has a window; a poisoned head for the host. -/
theorem test_witness_RowLoads_RowStores_clauses :
    let s := regs [(7, 0xFC), (8, 2 ^ 21)]
    let d : State := { s with delays := [true] }
    let f := formatted (regs [(7, 0x100), (8, 2 ^ 21)])
    let el (i : Nat) : Nat := (f.me.x 7 + BitVec.ofNat 64 i * f.me.x 8).toNat
    let p := withMod 1 3 (queued 4 [{ entry 5 with pois := true }] (regs [(7, 0x100), (8, 4)]))
    (d.splits 0xFC 8 = true ∧ s.splits 0xFC 8 = false ∧ d.splits 0xF8 8 = false ∧ d.splits 0x180 256 = true ∧ s.splits 0x180 256 = false) ∧
    s.me.localClear [(0xFC, 8)] = true ∧ f.me.localClear ((List.range 64).map (fun i => (el i, 4))) = true ∧
    el 1 / 2 ^ 21 % 8 ≠ 0 ∧ (∀ j < 64, el j < el 1 → el j / 2 ^ 21 % 8 = 0 ∧ okUnit (f.me.checkLocal (el j) 4) = true) ∧
    spaceOf (p.me.mods .store false).space = 4 ∧ p.me.queue 4 = [{ entry 5 with pois := true }] ∧ clean p [7, 8] = true := by
  decide +kernel

/-- Four tasks on one square, the domain, with a barrier at the two lowest levels: task 1 waits at level 1 while
task 0 is in `p`; the other two have ended. -/
def clashing (p : Phase) : State :=
  let s := record (2 ^ 8 + 2 ^ 256 + 2 ^ 263 + 2 ^ 288 + 2 ^ 295) (inPhase p (handled (demo 0)))
  (s.modLaunch 0 (fun l => ((l.modTask 1 (fun t => { t with phase := .wait 1 })).modTask 2 (fun t => { t with ended := true })).modTask 3
    (fun t => { t with ended := true }))).modCore 1 (fun k => { k with task := some (0, 1) })

def clashes (s : State) (l : Launch) : Bool :=
  let ts := l.instTasks 0 0
  let live := ts.filter (fun v => !(l.task v).ended)
  decide (l.domainLevel = some 0) && decide (l.clashes ts = [0]) && decide (live = [0, 1]) && decide (l.pcore 0 ≠ l.pcore 1) &&
    live.all (fun v => decide (s.tvec (l.pcore v) ≠ 0) && decide ((s.core (l.pcore v)).level = 0) && !(s.core (l.pcore v)).loadsOut)

/-- Task 0 arrives at level 0 while task 1 waits at level 1, and both have arrived. -/
theorem test_witness_SupersteppingAndBarriers_clash :
    (∃ id u l, (clashing .exchange).launchOf 0 = some (id, u, l) ∧
      (let l1 := l.modTask u (fun x => { x with phase := .wait 0 })
       clashes ({ (clashing .exchange) with launches := Map.put (clashing .exchange).launches id l1 } : State) l1) = true) ∧
    (∃ l, (clashing (.wait 0)).launch? 0 = some l ∧ clashes (clashing (.wait 0)) l = true) := by
  refine ⟨ex_launch ?_, ex_some' ?_⟩ <;> decide +kernel

/-- A block with n = m = 1 and FV and RUN set, with its cost, its bounds, its one constraint and its factor. -/
def solving (iter cost lo hi a f : Nat) : State :=
  let s := block 0 iter 0x300
  let q := Qp.of s.me 0x1000
  s.modMe (fun k => words (0x1000 + 256) [cost] (words (0x1000 + 1792) [lo] (words (0x1000 + 2304) [hi] (words q.aOfs [a] (words q.lOfs [f] k)))))

/-- After one iteration: the residuals meet their bounds, the problem is primal infeasible, or dual infeasible, and an
entry of the vectors is not a number. -/
def verdicts (s : State) : List Bool :=
  let k := s.me
  let q := Qp.of k 0x1000
  let P := k.rdMat (q.o + 3584) q.n q.n
  let A := k.rdMat q.aOfs q.m q.n
  let cost := k.rdF32 (q.o + 256) q.n
  let lo := k.rdF32 (q.o + 1792) q.m
  let hi := k.rdF32 (q.o + 2304) q.m
  let v : QpVecs := { x := k.rdF32 (q.o + 512) q.n, z := k.rdF32 (q.o + 768) q.m, y := k.rdF32 (q.o + 1280) q.m }
  let w := admm q A (k.rdMat q.lOfs q.n q.n) cost lo hi v
  let rs := residuals { q with iter := q.iter + 1 } P A cost w
  [qLe (rs.getD 0 0) (rs.getD 2 0) && qLe (rs.getD 1 0) (rs.getD 3 0), primalInfeasible q A lo hi w.y v.y,
    dualInfeasible q P A cost lo hi w.x v.x, (w.x ++ w.z ++ w.y).any qBad]

/-- QPITER's exits: converged; no x within the bounds; a cost with no lower bound; none of these, at the last iteration
and before it; and a bad entry. -/
theorem test_witness_SolverInstructions_exits :
    let one := 0x3F800000
    verdicts (solving 0 0 0 0 0 one) = [true, false, false, false] ∧ verdicts (solving 0 0 one one 0 one) = [false, true, false, false] ∧
    verdicts (solving 0 one 0 0 0 one) = [false, false, true, false] ∧ verdicts (solving 0 0 one one one one) = [false, false, false, false] ∧
    verdicts (solving 1 0 one one one one) = [false, false, false, false] ∧ (verdicts (solving 0 0 f32Poison f32Poison 0 one)).getD 3 false = true ∧
    (let q := Qp.of (solving 1 0 one one one one).me 0x1000; q.fv = true ∧ q.run = true ∧ q.iter + 1 = q.maxit ∧ q.chkev = 1 ∧ q.dims = true) ∧
    freeRange (solving 1 0 one one one one) 0x1000 3584 = true := by
  decide +kernel

end Sys2Proof.Tests
end

section
/-! PROOF. In-layer operations (R68 to R70, R384, R385): the check of their ranges, their issue, and O32. -/

namespace Sys2Proof.Machine

/-! ## A check's result -/

@[simp] theorem State.onCheck_ok {α : Type} (s : State) (vas : List Nat) (a : α) (g : α → State) :
    s.onCheck vas (.ok a) g = g a := rfl

@[simp] theorem State.onCheck_fault {α : Type} (s : State) (vas : List Nat) (t : TrapInfo) (g : α → State) :
    s.onCheck vas (.fault t) g = s.trap t := rfl

@[simp] theorem State.onCheck_nil_hold {α : Type} (s : State) (g : α → State) :
    s.onCheck [] .hold g = s.wait := rfl

/-! ## The ranges of an in-layer operation (R68, R384) -/

/-- A length that an in-layer operation takes. -/
def InLayerLength (len : Nat) : Prop := len % 256 = 0 ∧ 0 < len ∧ len ≤ 2 ^ 20

/-- `len` bytes at `va` are an aligned raw range within the usable bytes of the layer that holds `first`. -/
def Core.InsideLayer (k : Core) (len first va : Nat) : Prop :=
  va % 256 = 0 ∧ va < 2 ^ 21 ∧ va / 2 ^ 20 = (va + len - 1) / 2 ^ 20 ∧
    va % 2 ^ 20 + len ≤ (k.layer (decide (2 ^ 20 ≤ va))).usable ∧ va / 2 ^ 20 = first / 2 ^ 20

/-- The test that `Core.checkInLayer` makes of each range. -/
theorem Core.outside_eq_false_iff (k : Core) (len first va : Nat) :
    (va % 256 != 0 || decide (2 ^ 21 ≤ va) || va / 2 ^ 20 != (va + len - 1) / 2 ^ 20
      || decide ((k.layer (decide (2 ^ 20 ≤ va))).usable < va % 2 ^ 20 + len) || va / 2 ^ 20 != first / 2 ^ 20) = false ↔
      k.InsideLayer len first va := by
  simp only [Core.InsideLayer, Bool.or_eq_false_iff, bne_eq_false_iff_eq, decide_eq_false_iff_not, Nat.not_le,
    Nat.not_lt, and_assoc]

theorem Core.checkInLayer_badLength {len : Nat} (k : Core) (vas : List Nat) (h : ¬InLayerLength len) :
    k.checkInLayer len vas = .fault (trapAt Cause.bounds (vas.headD 0) (vas.headD 0)) := by
  have hbad : len % 256 ≠ 0 ∨ len = 0 ∨ 2 ^ 20 < len := by
    simp only [InLayerLength] at h; omega
  exact if_pos hbad

/-- The first range of the list that leaves the layer of the first one traps at its own address. -/
theorem Core.checkInLayer_outside {len va : Nat} {k : Core} {vas pre post : List Nat} (hlen : InLayerLength len)
    (hvas : vas = pre ++ va :: post) (hpre : ∀ w ∈ pre, k.InsideLayer len (vas.headD 0) w)
    (hva : ¬k.InsideLayer len (vas.headD 0) va) :
    k.checkInLayer len vas = .fault (trapAt Cause.bounds va va) := by
  obtain ⟨h1, h2, h3⟩ := hlen
  have hgood : ¬(len % 256 ≠ 0 ∨ len = 0 ∨ 2 ^ 20 < len) := by omega
  simp only [← Core.outside_eq_false_iff, Bool.not_eq_false] at hpre hva
  unfold Core.checkInLayer
  rw [if_neg hgood]
  generalize vas.headD 0 = first at hpre hva ⊢
  subst hvas
  rw [List.find?_append, List.find?_eq_none.mpr (fun w hw => Bool.eq_false_iff.mp (hpre w hw)), Option.none_or,
    List.find?_cons, hva]

/-- With every range inside, the checks of R52 over the first one are left. -/
theorem Core.checkInLayer_inside {len : Nat} {k : Core} {vas : List Nat} (hlen : InLayerLength len)
    (hvas : ∀ w ∈ vas, k.InsideLayer len (vas.headD 0) w) :
    k.checkInLayer len vas = k.checkLocal (vas.headD 0) len := by
  obtain ⟨h1, h2, h3⟩ := hlen
  have hgood : ¬(len % 256 ≠ 0 ∨ len = 0 ∨ 2 ^ 20 < len) := by omega
  simp only [← Core.outside_eq_false_iff] at hvas
  unfold Core.checkInLayer
  rw [if_neg hgood]
  generalize vas.headD 0 = first at hvas ⊢
  rw [List.find?_eq_none.mpr (fun w hw => Bool.eq_false_iff.mp (hvas w hw))]

/-! ## Issue on a timeline (R145) -/

/-- A core that differs from `k` in its taint and in its table of outstanding loads alone. -/
def Core.Bound (k k' : Core) : Prop :=
  k' = { k with taint := k'.taint, pend := k'.pend, loads := k'.loads, loadSeq := k'.loadSeq }

theorem Core.Bound.refl (k : Core) : k.Bound k := rfl

theorem Core.Bound.trans {k k' k'' : Core} (h : k.Bound k') (h' : k'.Bound k'') : k.Bound k'' := by
  unfold Core.Bound at h h' ⊢
  rw [h', h]

theorem Core.bound_bindReg (k : Core) (d : R5) (srcs : List R5) (nt : Bool) (slot : Nat) :
    k.Bound (k.bindReg d srcs nt slot) := by
  simp only [Core.bindReg, Core.setTaint]
  split
  · rfl
  · split <;> rfl

theorem Core.bindReg_loads (k : Core) (d : R5) (srcs : List R5) (nt : Bool) (slot : Nat) :
    (k.bindReg d srcs nt slot).loads = k.loads := by
  simp only [Core.bindReg, Core.setTaint]
  split
  · rfl
  · split <;> rfl

theorem Core.bindReg_pend (k : Core) {d : R5} {srcs : List R5} {nt : Bool} {slot : Nat} (hd : d ≠ 0) :
    (k.bindReg d srcs nt slot).pend = Map.put k.pend d.toNat slot := by
  simp only [Core.bindReg, Core.setTaint, hd, if_false]
  split <;> rfl

/-- Command `c` as the core issues it: under the next number of its timeline and of the core's messages. -/
def Core.stamped (k : Core) (c : Cmd) (step : Nat) : Cmd :=
  { c with
    id := k.serial, pc := k.arch.pc, num := Map.get 0 k.arch.tlIssued c.tl + 1,
    privileged := k.level != 0, step := step, number := k.arch.sendNo }

/-- The core with command `c` issued. -/
def Core.withCmd (k : Core) (c : Cmd) (step : Nat) : Core :=
  { k with
    cmds := k.cmds ++ [k.stamped c step]
    serial := k.serial + 1
    arch := { k.arch with
      tlIssued := Map.set 0 k.arch.tlIssued c.tl (Map.get 0 k.arch.tlIssued c.tl + 1)
      sendNo := k.arch.sendNo + c.word.messages } }

theorem State.issueCmd_eq {s : State} {c : Cmd}
    (h : s.me.scoreboard + c.ranges.length ≤ Config.scoreboardEntries) :
    s.issueCmd c = s.setMe (s.me.withCmd c s.stepNo).retire := by
  rw [State.issueCmd_room h, State.retire_setMe]; rfl

/-- A command that issues on the current core, once a slot may have been taken for its register. -/
theorem State.issued_issueCmd {st s : State} {c : Cmd} {tl : BitVec 3} (hcur : s.cur = st.cur)
    (hmem : s.mem = st.mem ∧ s.memPois = st.memPois) (hk : st.me.Bound s.me) (htl : c.tl = tl.toNat)
    (hroom : st.me.scoreboard + c.ranges.length ≤ Config.scoreboardEntries) :
    st.Issued (s.issueCmd c) c.word tl ∧ (s.issueCmd c).me.taint = s.me.taint ∧
      (s.issueCmd c).me.pend = s.me.pend ∧ (s.issueCmd c).me.loads = s.me.loads := by
  have hsame : s.me.scoreboard = st.me.scoreboard := by rw [hk]; rfl
  rw [State.issueCmd_eq (hsame ▸ hroom)]
  generalize s.stepNo = step
  have hr := Core.retire_frame (s.me.withCmd c step)
  have hflows : st.me.Flows (s.me.withCmd c step).retire := by
    apply Core.Flows.of_same <;> rw [hk] <;> rfl
  generalize (s.me.withCmd c step).retire = k' at hr hflows
  rw [Core.Bound] at hk
  have hme : (s.setMe k').me = k' := State.me_setMe s k'
  refine ⟨{ cur := hcur, flows := by rw [hme]; exact hflows, cmds := ?_, number := ?_, sends := ?_, arch := ?_, frame := ?_,
            memory := hmem }, ?_⟩ <;> rw [hme]
  · refine ⟨st.me.stamped c step, ?_, rfl, htl, rfl, htl ▸ rfl, rfl⟩
    rw [hr, hk]; rfl
  · intro j
    rw [hr, hk, ← htl]
    simp only [Core.withCmd, Map.get_set]
    by_cases h : j = c.tl <;> simp [h]
  · rw [hr, hk]; rfl
  · rw [hr, hk]; rfl
  · rw [hr, hk]; rfl
  · refine ⟨?_, ?_, ?_⟩ <;> rw [hr] <;> rfl

/-! ## In-layer operations issue (R384, R385) -/

section Checked

variable {s : State} {rs : List R5} {c : R5} {tl : Nat} {mk : List Nat → Nat → CmdKind × List Bool} {slot : Bool}

/-- The addresses that the registers of an in-layer operation name. -/
def Core.values (k : Core) (rs : List R5) : List Nat := rs.map (fun r => (k.x r).toNat)

/-- The command that an in-layer operation issues. -/
def inLayerCmd (mk : List Nat → Nat → CmdKind × List Bool) (tl : Nat) (vas : List Nat) (len : Nat) : Cmd :=
  mkCmd (mk vas len).1 tl (vas.zipWith (fun v b => (v, len, b)) (mk vas len).2)

theorem State.inLayer_fault {t : TrapInfo} (hc : s.me.Clear (rs ++ [c]))
    (h : s.me.checkInLayer (s.me.x c).toNat (s.me.values rs) = .fault t) : s.inLayer rs c tl mk slot = s.trap t := by
  rw [State.inLayer, State.unpoisoned_clean _ hc.1, State.untainted_clean _ hc.2]
  exact congrArg (fun r => s.onCheck [] r _) h

theorem State.inLayer_hold (hc : s.me.Clear (rs ++ [c]))
    (h : s.me.checkInLayer (s.me.x c).toNat (s.me.values rs) = .hold) : s.inLayer rs c tl mk slot = s.wait := by
  rw [State.inLayer, State.unpoisoned_clean _ hc.1, State.untainted_clean _ hc.2]
  exact congrArg (fun r => s.onCheck [] r _) h

theorem State.inLayer_ok (hc : s.me.Clear (rs ++ [c]))
    (h : s.me.checkInLayer (s.me.x c).toNat (s.me.values rs) = .ok ()) :
    s.inLayer rs c tl mk false = s.issueCmd (inLayerCmd mk tl (s.me.values rs) (s.me.x c).toNat) := by
  rw [State.inLayer, State.unpoisoned_clean _ hc.1, State.untainted_clean _ hc.2]
  exact congrArg (fun r => s.onCheck [] r _) h

/-- An operation with a result takes the slot, and its register waits for it. -/
theorem State.inLayer_ok_slot {n : Nat} (hc : s.me.Clear (rs ++ [c]))
    (h : s.me.checkInLayer (s.me.x c).toNat (s.me.values rs) = .ok ()) (hn : s.me.freeSlotNo = some n)
    (hroom : s.me.scoreboard + (inLayerCmd mk tl (s.me.values rs) (s.me.x c).toNat).ranges.length ≤
      Config.scoreboardEntries) :
    s.inLayer rs c tl mk true =
      (s.setMe (({ s.me with loads := Map.put s.me.loads n (s.me.loadSeq + 1), loadSeq := s.me.loadSeq + 1 } : Core).bindReg
        c (rs ++ [c]) false n)).issueCmd
        { inLayerCmd mk tl (s.me.values rs) (s.me.x c).toNat with slot := some n } := by
  rw [State.inLayer, State.unpoisoned_clean _ hc.1, State.untainted_clean _ hc.2]
  refine (congrArg (fun r => s.onCheck [] r _) h).trans ?_
  simp only [State.onCheck_ok, Core.takeSlot, hn, Option.map_some, if_true]
  exact if_neg (Nat.not_lt.mpr hroom)

end Checked

/-! The check of LMZERO's one range, and of the two ranges of LMCOPY and LMCMP. -/

section Ranges

variable {k : Core} {a b c : R5}

theorem Core.checkInLayer_one (hlen : InLayerLength (k.x c).toNat)
    (ha : k.InsideLayer (k.x c).toNat (k.x a).toNat (k.x a).toNat) :
    k.checkInLayer (k.x c).toNat (k.values [a]) = k.checkLocal (k.x a).toNat (k.x c).toNat :=
  Core.checkInLayer_inside hlen (by simpa [Core.values] using ha)

theorem Core.checkInLayer_two (hlen : InLayerLength (k.x c).toNat)
    (ha : k.InsideLayer (k.x c).toNat (k.x a).toNat (k.x a).toNat)
    (hb : k.InsideLayer (k.x c).toNat (k.x a).toNat (k.x b).toNat) :
    k.checkInLayer (k.x c).toNat (k.values [a, b]) = k.checkLocal (k.x a).toNat (k.x c).toNat :=
  Core.checkInLayer_inside hlen (by simpa [Core.values] using ⟨ha, hb⟩)

theorem Core.checkInLayer_one_fault
    (h : ¬InLayerLength (k.x c).toNat ∨ ¬k.InsideLayer (k.x c).toNat (k.x a).toNat (k.x a).toNat) :
    k.checkInLayer (k.x c).toNat (k.values [a]) = .fault (trapAt Cause.bounds (k.x a).toNat (k.x a).toNat) := by
  by_cases hlen : InLayerLength (k.x c).toNat
  · exact Core.checkInLayer_outside (pre := []) (post := []) hlen rfl (by simp) (h.resolve_left (not_not_intro hlen))
  · exact Core.checkInLayer_badLength k _ hlen

theorem Core.checkInLayer_two_fault (hlen : InLayerLength (k.x c).toNat)
    (ha : k.InsideLayer (k.x c).toNat (k.x a).toNat (k.x a).toNat)
    (hb : ¬k.InsideLayer (k.x c).toNat (k.x a).toNat (k.x b).toNat) :
    k.checkInLayer (k.x c).toNat (k.values [a, b]) = .fault (trapAt Cause.bounds (k.x b).toNat (k.x b).toNat) :=
  Core.checkInLayer_outside (pre := [(k.x a).toNat]) (post := []) hlen rfl (by simpa [Core.values] using ha) hb

end Ranges

/-- An in-layer operation without a result issues its command and takes nothing of the load table. -/
theorem State.inLayer_issues {st : State} {rs : List R5} {c : R5} {tl : BitVec 3}
    {mk : List Nat → Nat → CmdKind × List Bool} (hc : st.me.Clear (rs ++ [c]))
    (h : st.me.checkInLayer (st.me.x c).toNat (st.me.values rs) = .ok ())
    (hroom : st.me.scoreboard + (inLayerCmd mk tl.toNat (st.me.values rs) (st.me.x c).toNat).ranges.length ≤
      Config.scoreboardEntries) :
    ∃ s', Host.Outcome.next (st.inLayer rs c tl.toNat mk false) = (.next s' : Res) ∧
      st.Issued s' (mk (st.me.values rs) (st.me.x c).toNat).1 tl ∧
      s'.me.taint = st.me.taint ∧ s'.me.pend = st.me.pend ∧ s'.me.loads = st.me.loads :=
  ⟨_, congrArg _ (State.inLayer_ok hc h),
    State.issued_issueCmd (c := inLayerCmd mk tl.toNat _ _) rfl ⟨rfl, rfl⟩ (Core.Bound.refl _) rfl hroom⟩

/-- One with a result takes the lowest free slot, for which its register waits. -/
theorem State.inLayer_issues_slot {st : State} {rs : List R5} {c : R5} {tl : BitVec 3} {n : Nat}
    {mk : List Nat → Nat → CmdKind × List Bool} (hc : st.me.Clear (rs ++ [c]))
    (h : st.me.checkInLayer (st.me.x c).toNat (st.me.values rs) = .ok ()) (hn : st.me.freeSlotNo = some n)
    (hroom : st.me.scoreboard + (inLayerCmd mk tl.toNat (st.me.values rs) (st.me.x c).toNat).ranges.length ≤
      Config.scoreboardEntries) :
    ∃ s', Host.Outcome.next (st.inLayer rs c tl.toNat mk true) = (.next s' : Res) ∧
      st.Issued s' (mk (st.me.values rs) (st.me.x c).toNat).1 tl ∧
      Map.find? s'.me.loads n = some (st.me.loadSeq + 1) ∧
      (c ≠ 0 → Map.find? s'.me.pend c.toNat = some n) := by
  refine ⟨_, congrArg _ (State.inLayer_ok_slot hc h hn hroom), ?_⟩
  generalize hk' : Core.bindReg _ c (rs ++ [c]) false n = k'
  have hb : st.me.Bound k' := by
    rw [← hk']
    exact Core.Bound.trans (by rfl) (Core.bound_bindReg _ c (rs ++ [c]) false n)
  obtain ⟨hissued, -, hpend, hloads⟩ := State.issued_issueCmd (st := st) (s := st.setMe k') (tl := tl)
    (c := { inLayerCmd mk tl.toNat (st.me.values rs) (st.me.x c).toNat with slot := some n })
    rfl ⟨rfl, rfl⟩ (by rwa [State.me_setMe]) rfl hroom
  refine ⟨hissued, ?_, fun hc0 => ?_⟩
  · rw [hloads, State.me_setMe, ← hk', Core.bindReg_loads, Map.find?_put, if_pos rfl]
  · rw [hpend, State.me_setMe, ← hk', Core.bindReg_pend _ hc0, Map.find?_put, if_pos rfl]

theorem exec_lmfence_eq (st : State) :
    exec .lmfence st = .next (if st.me.cmds.any (fun c => c.word.isInLayer) || st.me.inflight.any (fun a => a.space == 1)
      then st.wait else st.retire) := rfl

/-- Settles O32: each form is `State.inLayer`, whose one check decides between the trap, the wait and the issue. -/
theorem inLayerCommandsIssue : Obligations.InLayerCommandsIssue := by
  unfold Obligations.InLayerCommandsIssue
  intro st a b c t
  refine ⟨fun hc hl ha hk hr => ?_, fun hc h => ?_, fun hc hl ha hk => ?_, fun hc hl ha hb hk => ⟨?_, ?_⟩,
    fun hc hl ha hb hk hr => ⟨?_, fun n hn => ?_⟩, fun hc hl ha hb => ⟨?_, ?_⟩, fun hcmds hin => ?_, fun h => ?_⟩
  · exact State.inLayer_issues (rs := [a]) hc ((Core.checkInLayer_one hl ha).trans hk) hr
  · exact congrArg _ (State.inLayer_fault (rs := [a]) hc (Core.checkInLayer_one_fault h))
  · exact congrArg _ (State.inLayer_hold (rs := [a]) hc ((Core.checkInLayer_one hl ha).trans hk))
  · exact congrArg _ (State.inLayer_hold (rs := [a, b]) hc ((Core.checkInLayer_two hl ha hb).trans hk))
  · exact congrArg _ (State.inLayer_hold (rs := [a, b]) hc ((Core.checkInLayer_two hl ha hb).trans hk))
  · exact State.inLayer_issues (rs := [a, b]) hc ((Core.checkInLayer_two hl ha hb).trans hk) hr
  · exact State.inLayer_issues_slot (rs := [a, b]) hc ((Core.checkInLayer_two hl ha hb).trans hk) hn hr
  · exact congrArg _ (State.inLayer_fault (rs := [a, b]) hc (Core.checkInLayer_two_fault hl ha hb))
  · exact congrArg _ (State.inLayer_fault (rs := [a, b]) hc (Core.checkInLayer_two_fault hl ha hb))
  · have hnone : st.me.inflight.any (fun a => a.space == 1) = false := by simpa using hin
    exact ⟨_, by rw [exec_lmfence_eq, hcmds, hnone]; rfl, Core.passed_retire _⟩
  · have hsome : (st.me.cmds.any (fun c => c.word.isInLayer) || st.me.inflight.any (fun a => a.space == 1)) = true := by
      simpa using h
    rw [exec_lmfence_eq, hsome]; rfl

end Sys2Proof.Machine
end

section
/-! PROOF. A corrected word that takes an undervolted bank past its threshold (R72, R77), and the refutation of O56. -/

namespace Sys2Proof.Map

variable {α : Type}

/-- In a list in order a test of some entry sees no difference where an entry is put that it judges as the one it
replaces, and an unlisted entry fails it. -/
theorem any_put_of_sorted (p : Nat × α → Bool) (d v : α) (k : Nat) (hd : p (k, d) = false) :
    ∀ {m : Map α} {lo : Nat}, sortedFrom lo m = true → p (k, v) = p (k, get d m k) →
      (put m k v).any p = m.any p
  | [], _, _, hv => by simpa [put, hd] using hv
  | (k', v') :: m, lo, hs, hv => by
    simp only [sortedFrom, Bool.and_eq_true, decide_eq_true_eq] at hs
    simp only [put, get] at hv ⊢
    split at hv
    · subst k'
      simp [dropLe_sorted hs.2 (Nat.lt_succ_self k), hv]
    · rename_i hne
      rw [if_neg hne]
      split at hv
      · rename_i hlt
        simp [hlt, hv, hd]
      · rename_i hle
        simp [hle, any_put_of_sorted p d v k hd hs.2 hv]

end Sys2Proof.Map

namespace Sys2Proof.Machine

/-! ## What the scrub does to the column -/

/-- A corrected word that the scrubber finds in a local store is logged and counted in its bank (R72, R108). -/
theorem exec_scrub_corrected {st : State} {c loc : Nat} (syn : BitVec 8) (hon : (st.err 1).escr.getLsbD 0 = true) :
    exec (.scrub 1 c loc 1 syn) st =
      .next ((st.logError 1 false 1 syn.toNat (c * 2 ^ 24 + loc)).bankError c ((st.core c).bankAt loc)) := by
  show execScrub 1 c loc 1 syn st = _
  simp only [execScrub, hon]
  rfl

/-- The word takes bank `i` of core `c` past its threshold: the bank is neither promoted nor about to be (R74). -/
def Core.Crosses (k : Core) (i : Nat) : Prop :=
  bitsOf k.lsecc.toNat 0 16 ≠ 0 ∧ (k.bank i).promoted = false ∧ (k.bank i).waiting = false ∧
    (k.bank i).count + 1 = bitsOf k.lsecc.toNat 0 16 + 1

/-- The core once the word is counted. -/
def Core.counted (k : Core) (i : Nat) : Core := k.setBank i { k.bank i with count := (k.bank i).count + 1 }

/-- Past the threshold the error-rate monitor acts on the column, and the bank's window is fresh (R77). -/
theorem State.bankError_undervolted {s : State} {c i : Nat} (hx : (s.core c).Crosses i)
    (hv : (s.column (columnOf (squareOf c))).volts < 500) (hf : ((s.core c).bank i).fresh = false) :
    s.bankError c i = ((s.setCore c ((s.core c).counted i)).stepColumn (squareOf c)).modCore c
      (fun k => k.setBank i { (s.core c).bank i with count := 0, fresh := true }) := by
  obtain ⟨hthr, hp, hw, hn⟩ := hx
  have hu : (s.setCore c ((s.core c).counted i)).undervolted (squareOf c) = true := decide_eq_true hv
  simp only [State.bankError]
  rw [if_neg (by simp [hthr, hp, hw, hn])]
  exact if_pos (Bool.and_eq_true_iff.mpr ⟨hu, congrArg not hf⟩)

theorem State.column_stepColumn (s : State) (sq : Nat) :
    (s.stepColumn sq).column (columnOf sq) = { s.column (columnOf sq) with
      volts := if s.columnFresh (columnOf sq) then (s.column (columnOf sq)).volts else (s.column (columnOf sq)).volts + 10
      frozen := true } := by
  rw [State.stepColumn, State.column_modColumn, if_pos rfl]

/-- The column after the word: it is raised unless a window of the column runs once the word is counted. -/
theorem exec_scrub_column {st : State} {c i loc : Nat} (syn : BitVec 8) (hon : (st.err 1).escr.getLsbD 0 = true)
    (hloc : (st.core c).bankAt loc = i) (hx : (st.core c).Crosses i)
    (hv : (st.column (columnOf (squareOf c))).volts < 500) (hf : ((st.core c).bank i).fresh = false) :
    ∃ t, exec (.scrub 1 c loc 1 syn) st = .next t ∧
      let col := columnOf (squareOf c)
      t.column col = { st.column col with
        volts := if (st.setCore c ((st.core c).counted i)).columnFresh col then (st.column col).volts
          else (st.column col).volts + 10
        frozen := true } := by
  subst hloc
  refine ⟨_, exec_scrub_corrected syn hon, ?_⟩
  have hcount := State.bankError_undervolted (s := st.logError 1 false 1 syn.toNat (c * 2 ^ 24 + loc)) hx hv hf
  rw [hcount]
  exact State.column_stepColumn (st.setCore c ((st.core c).counted _)) (squareOf c)

/-! ## Lists in order -/

theorem Core.anyFresh_counted {k : Core} {i : Nat} (hs : Map.sortedFrom 0 k.banks = true) :
    (k.counted i).banks.any (fun b => b.2.fresh) = k.banks.any (fun b => b.2.fresh) := by
  have hne : ({ k.bank i with count := (k.bank i).count + 1 } : Bank) ≠ Bank.reset := by
    intro h
    exact Nat.succ_ne_zero _ (congrArg Bank.count h)
  simp only [Core.counted, Core.setBank, Map.set, hne, if_false]
  exact Map.any_put_of_sorted _ Bank.reset _ i rfl hs rfl

theorem State.columnFresh_counted {s : State} {c i : Nat} (hs : Map.sortedFrom 0 s.cores = true)
    (hb : Map.sortedFrom 0 (s.core c).banks = true) (col : Nat) :
    (s.setCore c ((s.core c).counted i)).columnFresh col = s.columnFresh col := by
  simp only [State.columnFresh, State.setCore_cores, State.setCore_slices]
  rw [Map.any_put_of_sorted _ Core.reset _ c (by simp [Core.reset]) hs]
  simp only [Core.anyFresh_counted hb]
  rfl

/-- The clause of O56 that fails, of a state whose cores, and whose core's banks, are listed in order. -/
theorem exec_scrub_column_of_sorted {st : State} {c i loc : Nat} (syn : BitVec 8)
    (hs : Map.sortedFrom 0 st.cores = true) (hb : Map.sortedFrom 0 (st.core c).banks = true)
    (hon : (st.err 1).escr.getLsbD 0 = true) (hloc : (st.core c).bankAt loc = i) (hx : (st.core c).Crosses i)
    (hv : (st.column (columnOf (squareOf c))).volts < 500) (hf : ((st.core c).bank i).fresh = false) :
    ∃ t, exec (.scrub 1 c loc 1 syn) st = .next t ∧
      let col := columnOf (squareOf c)
      t.column col = { st.column col with
        volts := if st.columnFresh col then (st.column col).volts else (st.column col).volts + 10
        frozen := true } := by
  obtain ⟨t, hstep, hcol⟩ := exec_scrub_column syn hon hloc hx hv hf
  exact ⟨t, hstep, by simpa only [State.columnFresh_counted hs hb] using hcol⟩

/-! ## The refutation -/

/-- A core whose bank 0 has reached LSECC's threshold of 64, and whose list of banks names bank 0 a second time, with
its window fresh. -/
def Core.bankTwice : Core :=
  { Core.reset with banks := [(0, { Bank.reset with count := 64 }), (0, { Bank.reset with fresh := true })] }

/-- Core 0 is that core, and its column is undervolted. -/
def State.bankTwice : State :=
  { State.reset with cores := [(0, Core.bankTwice)], columns := [(0, { Column.reset with volts := 490 })] }

/-- Refutes O56: whether a window of the column runs is asked of the lists of banks as they stand, before the word is
counted in the statement and after it in the model. Counting it rewrites the list, so the two differ where a list is
out of order: `State.bankTwice` loses its second entry, and its column is raised to 500 mV, where the statement leaves
it at 490 mV. Of lists in order the clause holds: `exec_scrub_column_of_sorted`. -/
theorem not_layersPromotionAndScrubbing : ¬Obligations.LayersPromotionAndScrubbing := by
  unfold Obligations.LayersPromotionAndScrubbing
  intro h
  obtain ⟨-, -, hbanks, -⟩ := h
  obtain ⟨-, -, -, -, -, hscrub⟩ := hbanks State.bankTwice 0 0
  obtain ⟨-, hraise, -⟩ := hscrub 0 0 (by decide) (by decide)
  obtain ⟨t, hstep, -, hclaimed⟩ := hraise (by decide) (by decide) (by decide)
  obtain ⟨t', hstep', hcolumn⟩ := exec_scrub_column (st := State.bankTwice) (c := 0) (i := 0) (loc := 0) 0
    (by decide) (by decide) (by unfold Core.Crosses; decide) (by decide) (by decide)
  have hbefore : State.bankTwice.columnFresh (columnOf (squareOf 0)) = true := by decide
  have hafter : (State.bankTwice.setCore 0 ((State.bankTwice.core 0).counted 0)).columnFresh
    (columnOf (squareOf 0)) = false := by decide
  obtain rfl : t = t' := Host.Outcome.next.inj (hstep.symm.trans hstep')
  simp only [hbefore, hafter] at hclaimed hcolumn
  exact absurd (congrArg Column.volts (hclaimed.symm.trans hcolumn)) (by decide)

end Sys2Proof.Machine
end

section
/-! PROOF. Naming the grandmaster (R262), and the refutation of O60. -/

namespace Sys2Proof.Machine

/-- The host names the grandmaster: what gave the time until then counts no more (R262). -/
theorem exec_registerWrite_grandmaster (own : Nat) (v : Dword) (st : State) :
    exec (.registerWrite regGrandmaster own v) st =
      .next { st with grandmaster := v.toNat, timeSource := none } := rfl

/-- Refutes O60: the statement says that naming the grandmaster changes `grandmaster` alone, and it also forgets which
device last gave the time. A package just out of reset that has taken the time from device 5 loses that source. -/
theorem not_managementController : ¬Obligations.ManagementController := by
  unfold Obligations.ManagementController
  intro h
  obtain ⟨-, -, -, -, -, -, -, -, -, hwrites, -⟩ := h
  obtain ⟨-, -, -, -, hnamed, -⟩ := hwrites { State.reset with timeSource := some 5 } 0 0 7
  rw [exec_registerWrite_grandmaster] at hnamed
  have hsource : (none : Option Nat) = some 5 := congrArg State.timeSource (Host.Outcome.next.inj hnamed)
  exact absurd hsource (by decide)

end Sys2Proof.Machine
end

section
/-! PROOF. Slice control space (R99): its addresses, what a queue descriptor's dwords hold and which ones a slice
refuses (R100), LDCTL and STCTL (R394), and O28. -/

namespace Sys2Proof.Machine

/-! ## Control addresses (R99) -/

section Addresses

variable {va : Nat}

theorem ctlAddr_misaligned (h : va % 8 ≠ 0) : ctlAddr va = .fault (trapAt Cause.align va va) := if_pos h

theorem ctlAddr_outside (h8 : va % 8 = 0) (h : 2 ^ 27 ≤ va ∨ va % 65536 < 0x1000 ∨ 0x4000 ≤ va % 65536) :
    ctlAddr va = .fault (trapAt Cause.bounds va va) := by
  unfold ctlAddr
  rw [if_neg (not_not_intro h8)]
  by_cases hva : 2 ^ 27 ≤ va
  · rw [if_pos hva]
  · rw [if_neg hva, if_neg (by omega), if_neg (by omega)]

theorem ctlAddr_queue (h8 : va % 8 = 0) (hva : va < 2 ^ 27) (hlo : 0x1000 ≤ va % 65536) (hhi : va % 65536 < 0x2000) :
    ctlAddr va = .ok (.queue (va / 65536) ((va % 65536 - 0x1000) / 16) (decide (va % 16 = 8))) := by
  have hslice : va / 65536 % 2048 = va / 65536 := by omega
  have hhigh : va % 65536 % 16 = va % 16 := by omega
  unfold ctlAddr
  rw [if_neg (not_not_intro h8), if_neg (by omega), if_pos ⟨hlo, hhi⟩, hslice, hhigh]
  rfl

theorem ctlAddr_vec (h8 : va % 8 = 0) (hva : va < 2 ^ 27) (hlo : 0x2000 ≤ va % 65536) (hhi : va % 65536 < 0x4000) :
    ctlAddr va = .ok (.vec (va / 65536) ((va % 65536 - 0x2000) / 256) (va % 256 / 8)) := by
  have hslice : va / 65536 % 2048 = va / 65536 := by omega
  have hdword : va % 65536 % 256 = va % 256 := by omega
  unfold ctlAddr
  rw [if_neg (not_not_intro h8), if_neg (by omega), if_neg (by omega), if_pos ⟨hlo, hhi⟩, hslice, hdword]

end Addresses

/-! ## Queue descriptors (R100) -/

theorem bitsOf_toNat {w : Nat} (v : BitVec w) (lo len : Nat) :
    bitsOf v.toNat lo len = (v.extractLsb' lo len).toNat := by
  rw [BitVec.extractLsb'_toNat, Nat.shiftRight_eq_div_pow, bitsOf]

/-- Bits of a number that fits a dword are bits of the dword. -/
theorem toNat_extractLsb'_ofNat {n : Nat} (lo len : Nat) (h : n < 2 ^ 64) :
    ((BitVec.ofNat 64 n).extractLsb' lo len).toNat = n / 2 ^ lo % 2 ^ len := by
  rw [← bitsOf_toNat, BitVec.toNat_ofNat, Nat.mod_eq_of_lt h, bitsOf]

theorem getLsbD_ofNat_eq_decide {n : Nat} (i : Nat) (h : n < 2 ^ 64) :
    (BitVec.ofNat 64 n).getLsbD i = decide (n / 2 ^ i % 2 = 1) := by
  rw [BitVec.getLsbD, BitVec.toNat_ofNat, Nat.mod_eq_of_lt h, Nat.testBit_eq_decide_div_mod_eq]

/-- The weight of a flag in a dword. -/
theorem ite_zero_eq_toNat_mul (b : Bool) (n : Nat) : (if b then n else 0) = b.toNat * n := by
  cases b with
  | false => rw [if_neg Bool.false_ne_true, Bool.toNat_false, Nat.zero_mul]
  | true => rw [if_pos rfl, Bool.toNat_true, Nat.one_mul]

theorem bitsOf_zero (lo len : Nat) : bitsOf 0 lo len = 0 := by
  rw [bitsOf, Nat.zero_div, Nat.zero_mod]

theorem QDesc.dword_high (e : QDesc) (hz : e.zeros = 0) :
    e.dword true = BitVec.ofNat 64 (e.head + e.tail * 2 ^ 16 + e.ctx * 2 ^ 32) := by
  rw [QDesc.dword, if_pos rfl, hz, bitsOf_zero, Nat.add_zero]

theorem QDesc.dword_low (e : QDesc) (hz : e.zeros = 0) :
    e.dword false =
      BitVec.ofNat 64 (e.base + e.valid.toNat * 2 ^ 16 + e.rows.toNat * 2 ^ 17 + e.logd * 2 ^ 18) := by
  rw [QDesc.dword, if_neg Bool.false_ne_true, hz, bitsOf_zero, Nat.add_zero, ite_zero_eq_toNat_mul,
    ite_zero_eq_toNat_mul]

/-- The upper dword in the layout of R100. -/
theorem QDesc.fields_dword_high {e : QDesc} (hz : e.zeros = 0) (hh : e.head < 2 ^ 16) (ht : e.tail < 2 ^ 16)
    (hc : e.ctx < 64) :
    ((e.dword true).extractLsb' 0 16).toNat = e.head ∧ ((e.dword true).extractLsb' 16 16).toNat = e.tail ∧
      ((e.dword true).extractLsb' 32 6).toNat = e.ctx ∧ (e.dword true).extractLsb' 38 26 = 0 := by
  have hfits : e.head + e.tail * 2 ^ 16 + e.ctx * 2 ^ 32 < 2 ^ 64 := by omega
  rw [e.dword_high hz, ← BitVec.toNat_inj]
  simp only [toNat_extractLsb'_ofNat _ _ hfits, BitVec.toNat_zero, BitVec.ofNat_eq_ofNat]
  omega

/-- The lower dword in the layout of R100. -/
theorem QDesc.fields_dword_low {e : QDesc} (hz : e.zeros = 0) (hb : e.base < 2 ^ 15) (hl : e.logd < 16) :
    ((e.dword false).extractLsb' 0 15).toNat = e.base ∧ (e.dword false).getLsbD 15 = false ∧
      (e.dword false).getLsbD 16 = e.valid ∧ (e.dword false).getLsbD 17 = e.rows ∧
      ((e.dword false).extractLsb' 18 4).toNat = e.logd ∧ (e.dword false).extractLsb' 22 42 = 0 := by
  have hv := e.valid.toNat_lt
  have hr := e.rows.toNat_lt
  have hfits : e.base + e.valid.toNat * 2 ^ 16 + e.rows.toNat * 2 ^ 17 + e.logd * 2 ^ 18 < 2 ^ 64 := by omega
  have hvalid : (e.base + e.valid.toNat * 2 ^ 16 + e.rows.toNat * 2 ^ 17 + e.logd * 2 ^ 18) / 2 ^ 16 % 2 =
    e.valid.toNat := by omega
  have hrows : (e.base + e.valid.toNat * 2 ^ 16 + e.rows.toNat * 2 ^ 17 + e.logd * 2 ^ 18) / 2 ^ 17 % 2 =
    e.rows.toNat := by omega
  rw [e.dword_low hz, ← BitVec.toNat_inj]
  simp only [toNat_extractLsb'_ofNat _ _ hfits, getLsbD_ofNat_eq_decide _ hfits, hvalid, hrows, Bool.toNat_eq_one,
    Bool.decide_eq_true, true_and, decide_eq_false_iff_not, BitVec.ofNat_eq_ofNat, BitVec.toNat_zero]
  omega

/-- A slice refuses to make a queue of depth 1, one of more than 1,024 rows, or one whose start is not aligned to its
size. -/
theorem Slice.writeQueue_refuses {k : Slice} {i : Nat} {v : Dword} (hvalid : v.getLsbD 16 = true)
    (h : v.extractLsb' 18 4 = 0 ∨ (v.getLsbD 17 = true ∧ 10 < (v.extractLsb' 18 4).toNat) ∨
      8 * (v.extractLsb' 0 15).toNat % (2 ^ (v.extractLsb' 18 4).toNat * if v.getLsbD 17 then 256 else 8) ≠ 0) :
    k.writeQueue i false v.toNat = none := by
  have hv : v.toNat.testBit 16 = true := hvalid
  have hr : v.toNat.testBit 17 = v.getLsbD 17 := rfl
  rw [← BitVec.toNat_inj] at h
  simp only [Slice.writeQueue, QDesc.bytes, bitsOf_toNat, hv, hr, Bool.false_eq_true, if_false]
  generalize (v.extractLsb' 18 4).toNat = logd at h ⊢
  generalize (v.extractLsb' 0 15).toNat = base at h ⊢
  generalize v.getLsbD 17 = rows at h ⊢
  rcases h with hdepth | ⟨hrows, hmany⟩ | halign
  · simp [hdepth]
  · simp [hrows, hmany]
  · generalize (2 ^ logd * if rows = true then 256 else 8) = bytes at halign ⊢
    simp [halign]

/-! ## The descriptor at a control address -/

/-- The dword that LDCTL reads there. -/
def CtlAddr.read (st : State) : CtlAddr → Dword
  | .queue sl q high => ((st.slice sl).qdesc q).dword high
  | .vec sl i dw => (st.vec sl i).dword dw

/-- The state once the slice has taken `v` there, or nothing where it refuses. -/
def CtlAddr.write (st : State) (v : Nat) : CtlAddr → Option State
  | .queue sl q high => ((st.slice sl).writeQueue q high v).map (fun q' =>
      st.modSlice sl (fun x => { x with queues := Map.set QDesc.reset x.queues q q' }))
  | .vec sl i dw => (st.writeVec sl i dw v).map (st.setVec sl i)

theorem CtlAddr.write_me {st t : State} {v : Nat} {c : CtlAddr} (h : c.write st v = some t) : t.me = st.me := by
  cases c with
  | queue sl q high =>
    obtain ⟨q', -, rfl⟩ := Option.map_eq_some_iff.mp h
    rfl
  | vec sl i dw =>
    obtain ⟨v', -, rfl⟩ := Option.map_eq_some_iff.mp h
    rfl

theorem CtlAddr.read_setMe (st : State) (k : Core) (c : CtlAddr) : c.read (st.setMe k) = c.read st := by
  cases c <;> rfl

/-! ## LDCTL and STCTL (R394) -/

/-- Whether an access may perform at once depends on the accesses in flight alone. -/
theorem State.orderly_setMe {s : State} {k : Core} (kind : AccKind) (m : ModFields)
    (h : k.inflight = s.me.inflight) : (s.setMe k).orderly kind m = s.orderly kind m := by
  rw [State.orderly, State.me_setMe, h, State.orderly]

theorem exec_ldctl_user {st : State} (d a : R5) (h : st.me.level = 0) :
    exec (.ldctl d a) st = .next (st.trapWith Cause.priv 0 0) :=
  congrArg Host.Outcome.next (State.guardPriv_user _ h)

theorem exec_stctl_user {st : State} (d a : R5) (h : st.me.level = 0) :
    exec (.stctl d a) st = .next (st.trapWith Cause.priv 0 0) :=
  congrArg Host.Outcome.next (State.guardPriv_user _ h)

section Privileged

variable {st : State} {d a : R5} (hpriv : st.me.level ≠ 0) (hside : st.me.sideOf a = false)

section Load

variable (htaint : (st.me.taints [a.toNat]).isEmpty = true)
include hpriv hside htaint

/-- Past the checks of its operands LDCTL goes by R99's check of the address, the load table and R124. -/
theorem exec_ldctl_eq :
    exec (.ldctl d a) st = .next (st.onCheck [] (ctlAddr (st.me.x a).toNat) (fun c => st.slotFree (fun s =>
      if !s.orderly .load privMods then s.wait else s.writeXP d [a] (c.read s) false))) := by
  change execLdctl d a st = _
  rw [execLdctl, State.guardPriv_pass _ hpriv, State.unpoisoned_clean _ (by simpa using hside),
    State.untainted_clean (rs := [a]) _ htaint]
  cases ctlAddr (st.me.x a).toNat with
  | fault t => rfl
  | hold => rfl
  | ok c => cases c <;> rfl

theorem exec_ldctl_fault {t : TrapInfo} (h : ctlAddr (st.me.x a).toNat = .fault t) :
    exec (.ldctl d a) st = .next (st.trap t) := by
  rw [exec_ldctl_eq hpriv hside htaint, h, State.onCheck_fault]

/-- LDCTL writes the dword at the address into d. It takes a number of the load table, and no slot. -/
theorem exec_ldctl_wrote {c : CtlAddr} (h : ctlAddr (st.me.x a).toNat = .ok c)
    (hslot : st.me.freeSlotNo.isSome = true) (horder : st.orderly .load privMods = true) :
    ∃ k', exec (.ldctl d a) st = .next (st.setMe k') ∧
      ({ st.me with loadSeq := st.me.loadSeq + 1 } : Core).Wrote k' d (c.read st) false (st.me.taints [a.toNat]) := by
  obtain ⟨k', heq, hwrote⟩ :=
    (st.setMe { st.me with loadSeq := st.me.loadSeq + 1 }).writeXP_wrote d [a] (c.read st) false
  rw [State.me_setMe] at hwrote
  refine ⟨k', ?_, hwrote⟩
  rw [exec_ldctl_eq hpriv hside htaint, h, State.onCheck_ok, State.slotFree_some _ hslot,
    State.orderly_setMe (k := { st.me with loadSeq := st.me.loadSeq + 1 }) _ _ rfl, horder, CtlAddr.read_setMe, heq,
    State.setMe_setMe]
  rfl

end Load

section Store

variable (htaint : (st.me.taints [a.toNat, d.toNat]).isEmpty = true)
include hpriv hside htaint

/-- Past the checks of its operands STCTL goes by R99's check of the address, R124 and the slice's answer. -/
theorem exec_stctl_eq :
    exec (.stctl d a) st = .next (st.onCheck [] (ctlAddr (st.me.x a).toNat) (fun c =>
      if !st.orderly .store privMods then st.wait
      else st.sends [(st.me.x a).toNat, (st.me.x d).toNat] (fun s =>
        ((c.write s (st.me.x d).toNat).map State.retire).getD
          (s.trapWith Cause.bounds (st.me.x a).toNat (st.me.x a).toNat)))) := by
  change execStctl d a st = _
  rw [execStctl, State.guardPriv_pass _ hpriv, State.unpoisoned_clean _ (by simpa using hside),
    State.untainted_clean (rs := [a, d]) _ htaint]
  dsimp only
  cases ctlAddr (st.me.x a).toNat with
  | fault t => rfl
  | hold => rfl
  | ok c =>
    refine congrArg (fun g => Host.Outcome.next (if !st.orderly .store privMods then st.wait else st.sends _ g))
      (funext fun s => ?_)
    cases c with
    | queue sl q high =>
      cases hw : (s.slice sl).writeQueue q high (st.me.x d).toNat <;> simp only [CtlAddr.write, hw] <;> rfl
    | vec sl i dw =>
      cases hw : s.writeVec sl i dw (st.me.x d).toNat <;> simp only [CtlAddr.write, hw] <;> rfl

theorem exec_stctl_fault {t : TrapInfo} (h : ctlAddr (st.me.x a).toNat = .fault t) :
    exec (.stctl d a) st = .next (st.trap t) := by
  rw [exec_stctl_eq hpriv hside htaint, h, State.onCheck_fault]

theorem exec_stctl_refused {c : CtlAddr} (h : ctlAddr (st.me.x a).toNat = .ok c)
    (horder : st.orderly .store privMods = true) (hsingle : st.Single) (hw : c.write st (st.me.x d).toNat = none) :
    exec (.stctl d a) st = .next (st.trapWith Cause.bounds (st.me.x a).toNat (st.me.x a).toNat) := by
  rw [exec_stctl_eq hpriv hside htaint, h, State.onCheck_ok, horder, State.sends_single _ _ hsingle, hw]
  rfl

theorem exec_stctl_accepted {c : CtlAddr} {t : State} (h : ctlAddr (st.me.x a).toNat = .ok c)
    (horder : st.orderly .store privMods = true) (hsingle : st.Single) (hw : c.write st (st.me.x d).toNat = some t) :
    ∃ k', exec (.stctl d a) st = .next (t.setMe k') ∧ st.me.Passed k' := by
  refine ⟨t.me.retire, ?_, CtlAddr.write_me hw ▸ Core.passed_retire t.me⟩
  rw [exec_stctl_eq hpriv hside htaint, h, State.onCheck_ok, horder, State.sends_single _ _ hsingle, hw]
  rfl

end Store

end Privileged

/-- Settles O28: the address names the descriptor, or faults; LDCTL writes d with its dword, and STCTL goes by what its
slice answers. -/
theorem sliceControl : Obligations.SliceControl := by
  unfold Obligations.SliceControl
  intro st d a
  refine ⟨fun huser => ⟨exec_ldctl_user d a huser, exec_stctl_user d a huser⟩, fun hpriv hside hstore hload =>
    ⟨fun h8 => ?misaligned, fun h8 hout => ?outside, fun h8 hva hlo hhi => ?queue, fun h8 hva hlo hhi => ?vector⟩⟩
  case misaligned =>
    exact ⟨exec_ldctl_fault hpriv hside hload (ctlAddr_misaligned h8),
      exec_stctl_fault hpriv hside hstore (ctlAddr_misaligned h8)⟩
  case outside =>
    exact ⟨exec_ldctl_fault hpriv hside hload (ctlAddr_outside h8 hout),
      exec_stctl_fault hpriv hside hstore (ctlAddr_outside h8 hout)⟩
  case queue =>
    have haddr := ctlAddr_queue h8 hva hlo hhi
    refine ⟨fun hslot horder hz hh ht hc hb hl => ?read, fun horder hsingle => ?write⟩
    case read =>
      obtain ⟨k', hexec, hwrote⟩ := exec_ldctl_wrote (d := d) hpriv hside hload haddr hslot horder
      refine ⟨k', _, hexec, hwrote, fun hhigh => ?_, fun hlow => ?_⟩
      · rw [CtlAddr.read, decide_eq_true hhigh]
        exact QDesc.fields_dword_high hz hh ht hc
      · rw [CtlAddr.read, decide_eq_false hlow]
        exact QDesc.fields_dword_low hz hb hl
    case write =>
      have hrefused := exec_stctl_refused hpriv hside hstore haddr horder hsingle
      refine ⟨fun e' hw => ?_, fun hw => hrefused (Option.map_eq_none_iff.mpr hw), fun hlow hvalid hbad => ?_⟩
      · exact exec_stctl_accepted hpriv hside hstore haddr horder hsingle
          (Option.map_eq_some_iff.mpr ⟨e', hw, rfl⟩)
      · refine hrefused (Option.map_eq_none_iff.mpr ?_)
        rw [decide_eq_false hlow]
        exact Slice.writeQueue_refuses hvalid hbad
  case vector =>
    have haddr := ctlAddr_vec h8 hva hlo hhi
    refine ⟨exec_ldctl_wrote hpriv hside hload haddr, fun horder hsingle => ⟨fun v' hw => ?_, fun hw => ?_⟩⟩
    · exact exec_stctl_accepted hpriv hside hstore haddr horder hsingle (Option.map_eq_some_iff.mpr ⟨v', hw, rfl⟩)
    · exact exec_stctl_refused hpriv hside hstore haddr horder hsingle (Option.map_eq_none_iff.mpr hw)

end Sys2Proof.Machine
end
